-- ==== Sys2Proof/Word.lean ====
section
/-! DEFINITION. The word types of the part's frames and registers. -/

namespace Sys2Proof

/-- A byte of a frame or of the array. -/
abbrev Byte := BitVec 8

/-- A 2-byte field of a frame. -/
abbrev Half := BitVec 16

/-- A 4-byte field of a frame: an offset, a check value, a sequence or an arrival number. -/
abbrev Word := BitVec 32

end Sys2Proof
end

