-- ==== Sys2Proof/Syntax.lean ====
section
/-! DEFINITION. The commands and events of the part: one constructor of `Instr` per row of spec/opcode_table.json. -/

namespace Sys2Proof

/-- A host port (R144). -/
inductive Port where
  | a
  | b
  deriving DecidableEq, Repr, Inhabited

/-- How the array reports the end of a program, an erase or a mark write (R8, R14, R15). -/
inductive ArrayEnd where
  | success
  | arrayFault
  deriving DecidableEq, Repr, Inhabited

/-- The selector field of OPEN and what follows it (R89, R158). `other` is a selector byte that is neither form. -/
inductive Selector where
  | byName (name : List Byte)
  | byReference (region generation : Byte)
  | other (selector : Byte) (rest : List Byte)
  deriving DecidableEq, Repr

/-- The host commands of the code table (R158). -/
inductive Cmd where
  | identify | status | portReset | unitInfo
  | list | lookup | readRecord
  | create | grow | shrink | retire | grant | hold | thaw | fix | verify | format
  | openHandle | close
  | read | program | erase
  | query | cancel | collect
  deriving DecidableEq, Repr, Inhabited

/-- The rows of the opcode table. A request carries its port, its tag and the fields of its parameter layout (R158)
as they stand in the frame, before any range check. An array event carries the array's report; a FRAME_ERROR carries
the bytes of the faulty request, an UNKNOWN_COMMAND its code, tag and parameter bytes. -/
inductive Instr where
  | selectFall (p : Port)
  | selectRise (p : Port)
  | frameError (p : Port) (frame : List Byte)
  | unknownCommand (p : Port) (code tag : Byte) (params : List Byte)
  | waitingRequestTaken (p : Port)
  | identify (p : Port) (tag : Byte)
  | status (p : Port) (tag : Byte)
  | portReset (p : Port) (tag : Byte)
  | unitInfo (p : Port) (tag : Byte) (unit : Half)
  | list (p : Port) (tag : Byte)
  | lookup (p : Port) (tag : Byte) (name : List Byte)
  | readRecord (p : Port) (tag : Byte) (region : Byte)
  | create (p : Port) (tag rights placement : Byte) (first count : Half) (name : List Byte)
  | grow (p : Port) (tag region generation : Byte) (added : Half)
  | shrink (p : Port) (tag region generation : Byte) (newCount : Half) (override : Byte)
  | retire (p : Port) (tag region generation override : Byte)
  | grant (p : Port) (tag region generation rights override : Byte)
  | hold (p : Port) (tag region generation override : Byte)
  | thaw (p : Port) (tag region generation : Byte)
  | fix (p : Port) (tag region generation : Byte)
  | verify (p : Port) (tag handle : Byte)
  | format (p : Port) (tag : Byte)
  | openHandle (p : Port) (tag mode : Byte) (selector : Selector)
  | close (p : Port) (tag handle : Byte)
  | read (p : Port) (tag handle : Byte) (offset : Word) (length : Half)
  | program (p : Port) (tag handle : Byte) (offset : Word) (data : List Byte)
  | erase (p : Port) (tag handle : Byte) (unitOffset count : Half)
  | query (p : Port) (tag slot useCount : Byte)
  | cancel (p : Port) (tag slot useCount : Byte)
  | collect (p : Port) (tag slot useCount : Byte)
  | directoryWriteComplete
  | attemptFail
  | attemptTimeout
  | programEnd (report : ArrayEnd)
  | programTimeout
  | eraseEnd (report : ArrayEnd)
  | eraseTimeout
  | markWriteEnd (report : ArrayEnd)
  | markWriteTimeout
  | scanStepEnd
  | runSliceExpiry
  | resetAssert
  | powerLoss
  | resetRelease
  | powerGood
  | startupComplete
  | responseSent (p : Port)
  | inhibitInputChange (p : Port) (asserted : Bool)
  deriving DecidableEq, Repr

end Sys2Proof
end

