-- ==== Sys2Proof/Decode.lean ====
section
/-! DEFINITION. The words of the opcode table (its rows give no bits), and the request frames of R145 to R148: their
check, their decoder and their encoder. -/

namespace Sys2Proof

/-- No row of spec/opcode_table.json gives bits, so no word spells a command. -/
def decodeTableWord (_nbits _w : Nat) : Option Instr := none

/-- A 2-byte field, most significant byte first (00, "Byte and bit order"). -/
def be16 (v : Half) : List Byte := [v.extractLsb' 8 8, v.extractLsb' 0 8]

/-- A 4-byte field, most significant byte first. -/
def be32 (v : Word) : List Byte :=
  [v.extractLsb' 24 8, v.extractLsb' 16 8, v.extractLsb' 8 8, v.extractLsb' 0 8]

/-- The value of a 2-byte field. -/
def half (hi lo : Byte) : Half := hi ++ lo

/-- The value of a 4-byte field. -/
def word (b3 b2 b1 b0 : Byte) : Word := (b3 ++ b2) ++ (b1 ++ b0)

/-- One shift of the CRC-8 remainder (R147, step 3). -/
def crc8Shift (r : Byte) : Byte := if r.msb then (r <<< 1) ^^^ 0x07 else r <<< 1

/-- One byte combined into the CRC-8 remainder (R147, steps 2 and 3). -/
def crc8Byte (r b : Byte) : Byte :=
  crc8Shift (crc8Shift (crc8Shift (crc8Shift (crc8Shift (crc8Shift (crc8Shift (crc8Shift (r ^^^ b))))))))

/-- The CRC-8 of a frame's bytes (R147). -/
def crc8 (bytes : List Byte) : Byte := bytes.foldl crc8Byte 0

/-- The command codes of R158. -/
def Cmd.code : Cmd → Byte
  | .identify => 0x01 | .status => 0x02 | .portReset => 0x03 | .unitInfo => 0x04
  | .list => 0x10 | .lookup => 0x11 | .readRecord => 0x12
  | .create => 0x13 | .grow => 0x14 | .shrink => 0x15 | .retire => 0x16 | .grant => 0x17
  | .hold => 0x18 | .thaw => 0x19 | .fix => 0x1A | .verify => 0x1B | .format => 0x1F
  | .openHandle => 0x20 | .close => 0x21
  | .read => 0x30 | .program => 0x31 | .erase => 0x32
  | .query => 0x40 | .cancel => 0x41 | .collect => 0x42

/-- Every command of the code table. -/
def Cmd.all : List Cmd :=
  [.identify, .status, .portReset, .unitInfo, .list, .lookup, .readRecord, .create, .grow, .shrink, .retire, .grant,
   .hold, .thaw, .fix, .verify, .format, .openHandle, .close, .read, .program, .erase, .query, .cancel, .collect]

/-- The command a code stands for; none outside the table of R158. -/
def Cmd.ofCode (c : Byte) : Option Cmd := Cmd.all.find? (fun k => k.code == c)

/-- The port, tag, command and parameter bytes of a request, laid out as R158 gives; none for the other rows. -/
def Instr.request : Instr → Option (Port × Byte × Cmd × List Byte)
  | .identify p t => some (p, t, .identify, [])
  | .status p t => some (p, t, .status, [])
  | .portReset p t => some (p, t, .portReset, [])
  | .unitInfo p t u => some (p, t, .unitInfo, be16 u)
  | .list p t => some (p, t, .list, [])
  | .lookup p t name => some (p, t, .lookup, BitVec.ofNat 8 name.length :: name)
  | .readRecord p t r => some (p, t, .readRecord, [r])
  | .create p t rights placement first count name =>
    some (p, t, .create, rights :: placement :: (be16 first ++ be16 count) ++ BitVec.ofNat 8 name.length :: name)
  | .grow p t r g n => some (p, t, .grow, r :: g :: be16 n)
  | .shrink p t r g n o => some (p, t, .shrink, r :: g :: be16 n ++ [o])
  | .retire p t r g o => some (p, t, .retire, [r, g, o])
  | .grant p t r g v o => some (p, t, .grant, [r, g, v, o])
  | .hold p t r g o => some (p, t, .hold, [r, g, o])
  | .thaw p t r g => some (p, t, .thaw, [r, g])
  | .fix p t r g => some (p, t, .fix, [r, g])
  | .verify p t h => some (p, t, .verify, [h])
  | .format p t => some (p, t, .format, [])
  | .openHandle p t m (.byName name) => some (p, t, .openHandle, m :: 0 :: BitVec.ofNat 8 name.length :: name)
  | .openHandle p t m (.byReference r g) => some (p, t, .openHandle, [m, 1, r, g])
  | .openHandle p t m (.other sel rest) => some (p, t, .openHandle, m :: sel :: rest)
  | .close p t h => some (p, t, .close, [h])
  | .read p t h o n => some (p, t, .read, h :: be32 o ++ be16 n)
  | .program p t h o d => some (p, t, .program, h :: be32 o ++ d)
  | .erase p t h u n => some (p, t, .erase, h :: be16 u ++ be16 n)
  | .query p t n u => some (p, t, .query, [n, u])
  | .cancel p t n u => some (p, t, .cancel, [n, u])
  | .collect p t n u => some (p, t, .collect, [n, u])
  | _ => none

/-- A request frame over its code, tag and parameter bytes (R145). -/
def frameBytes (code tag : Byte) (params : List Byte) : List Byte :=
  let body := code :: tag :: be16 (BitVec.ofNat 16 params.length) ++ params
  body ++ [crc8 body]

/-- The encoder: the request frame of a command (R145, R158). -/
def requestFrame (i : Instr) : Option (List Byte) :=
  (Instr.request i).map fun (_, tag, cmd, params) => frameBytes cmd.code tag params

/-- The length check and the reading of the parameter fields (R148 step 4, R158): none where N does not fit the
command's layout. -/
def decodeParams (p : Port) (t : Byte) : Cmd → List Byte → Option Instr
  | .identify, [] => some (.identify p t)
  | .status, [] => some (.status p t)
  | .portReset, [] => some (.portReset p t)
  | .unitInfo, [u1, u0] => some (.unitInfo p t (half u1 u0))
  | .list, [] => some (.list p t)
  | .lookup, l :: name => if name.length = l.toNat then some (.lookup p t name) else none
  | .readRecord, [r] => some (.readRecord p t r)
  | .create, rights :: placement :: f1 :: f0 :: c1 :: c0 :: l :: name =>
    if name.length = l.toNat then some (.create p t rights placement (half f1 f0) (half c1 c0) name) else none
  | .grow, [r, g, n1, n0] => some (.grow p t r g (half n1 n0))
  | .shrink, [r, g, n1, n0, o] => some (.shrink p t r g (half n1 n0) o)
  | .retire, [r, g, o] => some (.retire p t r g o)
  | .grant, [r, g, v, o] => some (.grant p t r g v o)
  | .hold, [r, g, o] => some (.hold p t r g o)
  | .thaw, [r, g] => some (.thaw p t r g)
  | .fix, [r, g] => some (.fix p t r g)
  | .verify, [h] => some (.verify p t h)
  | .format, [] => some (.format p t)
  | .openHandle, m :: sel :: rest =>
    if sel = 0 then
      match rest with
      | l :: name => if name.length = l.toNat then some (.openHandle p t m (.byName name)) else none
      | [] => none
    else if sel = 1 then
      match rest with
      | [r, g] => some (.openHandle p t m (.byReference r g))
      | _ => none
    else some (.openHandle p t m (.other sel rest))
  | .close, [h] => some (.close p t h)
  | .read, [h, o3, o2, o1, o0, n1, n0] => some (.read p t h (word o3 o2 o1 o0) (half n1 n0))
  | .program, h :: o3 :: o2 :: o1 :: o0 :: d => some (.program p t h (word o3 o2 o1 o0) d)
  | .erase, [h, u1, u0, n1, n0] => some (.erase p t h (half u1 u0) (half n1 n0))
  | .query, [n, u] => some (.query p t n u)
  | .cancel, [n, u] => some (.cancel p t n u)
  | .collect, [n, u] => some (.collect p t n u)
  | _, _ => none

/-- The most parameter bytes a port keeps (R145). -/
abbrev keptParams : Nat := 517

/-- What the first four checks of R148, less the replay check, say of the bytes of one select period. -/
inductive Verdict where
  /-- Fewer than 4 + N + 1 bytes: the frame is not complete (R145). -/
  | incomplete
  /-- The CRC does not agree (R148 step 1). -/
  | badCrc (tag : Byte)
  /-- The code is outside the table of R158 (R148 step 2). -/
  | unknownCode (code tag : Byte) (params : List Byte)
  /-- The length does not fit the command's layout (R148 step 4), or the frame is longer than a port keeps (R145). -/
  | badLength (cmd : Cmd) (tag : Byte)
  /-- A request that passes the length check. -/
  | request (i : Instr)
  deriving DecidableEq, Repr

/-- The decoder: the check of the bytes a port received in a select period (R145, R148). Bytes after the CRC byte are
ignored (R145). A frame of more than 517 parameter bytes does not pass the length check, as R145 says. DESIGN CHOICE,
unsafe: that holds for an OPEN whose selector is neither 0 nor 1 too, which R148 step 4 lets pass with any N of at least
2, to be refused BAD_PARAM at step 5 (log 35); for a PROGRAM beside R113's BAD_PARAM see log 21. -/
def decodeFrame (p : Port) (bytes : List Byte) : Verdict :=
  match bytes with
  | code :: tag :: n1 :: n0 :: rest =>
    let n := (half n1 n0).toNat
    if rest.length < n + 1 then .incomplete
    else
      let params := rest.take n
      if crc8 (code :: tag :: n1 :: n0 :: params) = rest.getD n 0 then
        match Cmd.ofCode code with
        | none => .unknownCode code tag params
        | some cmd =>
          if keptParams < n then .badLength cmd tag
          else
            match decodeParams p tag cmd params with
            | some i => .request i
            | none => .badLength cmd tag
      else .badCrc tag
  | _ => .incomplete

end Sys2Proof
end

