-- ==== Sys2Proof/Config.lean ====
section
/-! DEFINITION. The fixed numbers of the part, and the values its manual leaves open (no body: nothing can evaluate them). -/

namespace Sys2Proof

namespace Config

/-- Erase units of the array (R1). -/
abbrev unitCount : Nat := 1024
/-- Bytes of a unit (R1). -/
abbrev unitSize : Nat := 8192
/-- Bytes of a page (R1). -/
abbrev pageSize : Nat := 512
/-- The wear limit: the erase count at which an erase is refused (R3, R10). -/
abbrev wearLimit : Nat := 60000
/-- Region records of the directory (R19). -/
abbrev recordCount : Nat := 32
/-- Scrub extents the list can hold (R64). -/
abbrev scrubDepth : Nat := 8
/-- Handle entries of one port (R87). -/
abbrev handleCount : Nat := 8
/-- Slots of the operation table (R123). -/
abbrev slotCount : Nat := 12
/-- Slots one port may hold (R126). -/
abbrev slotQuota : Nat := 8
/-- Suspensions of one unit erase (R141). -/
abbrev suspensionBudget : Nat := 24
/-- Attempts of one directory write (R33). -/
abbrev writeAttempts : Nat := 3
/-- The highest sequence number; no further one exists (R32). -/
abbrev lastSequence : Word := 0xFFFFFFFF

end Config

/-- Where a loss of RESET or power finds a unit erase (R10, R13): in the header write of its start with the old
header still whole, while the data bits are brought to 1, or while the mark is written (mark absent, or present). -/
inductive EraseCut where
  | oldHeader
  | dataBits
  | markAbsent
  | markPresent
  deriving DecidableEq, Repr, Inhabited

namespace Config

/-- FREE VALUE, log 12: whether draw `k` lets the byte at an array address take the AND of old and new when a
program faults or is cut short (R8, R9). -/
opaque programLanded : (draw : Nat) → (address : Nat) → Bool

/-- FREE VALUE, log 13: the bits that draw `k` turns to 1 at an array address when an erase faults or is cut short
(R13, R14). -/
opaque eraseSets : (draw : Nat) → (address : Nat) → Byte

/-- FREE VALUE, log 9: where draw `k` has RESET or power loss find an erase (R10, R13). -/
opaque eraseCut : (draw : Nat) → EraseCut

/-- FREE VALUE, log 10: whether draw `k` has the suspension request reach the erase before it begins writing its
mark (R12, R140). -/
opaque suspendInTime : (draw : Nat) → Bool

/-- FREE VALUE, log 14: whether draw `k` leaves the fixed mark present after a mark write that faulted or was cut
short (R15). -/
opaque markLanded : (draw : Nat) → Bool

/-- FREE VALUE, log 15: what draw `k` has the sequence-number field of a DAMAGED copy read, none where the field is
wholly erased (R163). -/
opaque damagedField : (draw : Nat) → Option Word

end Config

end Sys2Proof
end

