-- ==== Sys2Proof/Machine/State.lean ====
section
/-! DEFINITION. The state of the part as plain data: every register, table, list and line the manual names, and the
queue of commands that are waiting. -/

namespace Sys2Proof.Machine

/-- Nothing stops the part: a failing array or a failing directory write is a result code (R159) and a next state,
and an address outside the array cannot be named (R96). So this type has no constructor. -/
inductive Fault where
  deriving DecidableEq, Repr

/-- Why a command has no meaning in this model. -/
inductive Refusal where
  /-- Raised by `exec` alone, for a row of the opcode table that has no meaning yet. Safe. No arm raises it. -/
  | notModelled (mnemonic : String)
  deriving DecidableEq, Repr

/-! ## The code space -/

/-- Status and result codes (R159). -/
inductive Status where
  | ok | frameError | unknownCommand | badParam | notReady | wrongState | dirFault | inhibited
  | noSuchRegion | notActive | nameTaken | dirFull | noSpace | spacePending | noRoom | scrubFull
  | notOwner | noRight | frozen | inUse
  | handlesFull | badHandle | stale | handleBusy | range | conflict
  | slotsFull | quota | noSuchTicket | tooLate | erasing | arrayBusy
  | unitIncomplete | worn | arrayFault | host
  deriving DecidableEq, Repr, Inhabited

/-! ## The memory array -/

/-- The hidden header of a unit (R2). -/
structure Header where
  eraseMark : Bool
  eraseCount : Nat
  fixedMark : Bool
  deriving DecidableEq, Repr, Inhabited

/-- The condition of a unit (R3). -/
inductive Condition where
  | good
  | incomplete
  | worn
  deriving DecidableEq, Repr, Inhabited

/-- An entry of the unit condition map (R4). -/
structure UnitFacts where
  condition : Condition
  eraseCount : Nat
  fixedMark : Bool
  deriving DecidableEq, Repr, Inhabited

/-- A header as the part leaves the factory (R4); the count is a DESIGN CHOICE, log 7. -/
abbrev Header.factory : Header := ⟨true, 0, false⟩

/-- The facts of a factory header. -/
abbrev UnitFacts.factory : UnitFacts := ⟨.good, 0, false⟩

/-- The array: headers and data are nonvolatile, the map is volatile (R1, R2, R4). Each list is sorted by unit or
address and lists no entry equal to what an unlisted one reads as: `Header.factory`, `UnitFacts.factory`, 0xFF. -/
structure ArrayState where
  headers : List (Nat × Header)
  map : List (Nat × UnitFacts)
  data : List Host.Cell
  deriving DecidableEq, Repr

/-! ## The region directory -/

/-- Access rights of the port that is not the owner (R20). -/
inductive Rights where
  | none
  | read
  | readWrite
  deriving DecidableEq, Repr, Inhabited

/-- The freeze level (R26). Only a FIXED region can hold a check word (R20), so the level carries it. -/
inductive Freeze where
  | openLevel
  | held
  | fixing
  | fixed (checkWord : Option Word)
  deriving DecidableEq, Repr, Inhabited

/-- A run of consecutive units (R20). -/
structure Extent where
  first : Nat
  count : Nat
  deriving DecidableEq, Repr, Inhabited

/-- The fields every non-FREE record holds (R20). -/
structure Identity where
  name : List Byte
  owner : Port
  rights : Rights
  deriving DecidableEq, Repr, Inhabited

/-- An ACTIVE record's fields; `growth` is the pending growth (R20). -/
structure Region where
  ident : Identity
  extent : Extent
  growth : Option Nat
  freeze : Freeze
  deriving DecidableEq, Repr, Inhabited

/-- The state of a record with the fields present in it (R20, R21). A PENDING or RETIRING record's level is OPEN. -/
inductive RecordBody where
  | free
  | pending (ident : Identity) (extent : Extent)
  | active (region : Region)
  | retiring (ident : Identity)
  deriving DecidableEq, Repr, Inhabited

/-- A region record; its region number is its place among the 32 (R20). -/
structure Record where
  generation : Byte
  body : RecordBody
  deriving DecidableEq, Repr, Inhabited

/-- A region reference: number and generation (R22). -/
structure RegionRef where
  number : Nat
  generation : Byte
  deriving DecidableEq, Repr, Inhabited

/-- A scrub extent (R64). -/
structure ScrubExtent where
  extent : Extent
  progress : Nat
  eligible : Bool
  deriving DecidableEq, Repr, Inhabited

/-- The working directory (R19). The withdrawn set is sorted, without duplicates. -/
structure Directory where
  records : List Record
  scrub : List ScrubExtent
  withdrawn : List Nat
  deriving DecidableEq, Repr

/-! ## The durable image and its copies -/

/-- The freeze level of an image's record (R28). -/
inductive DurableFreeze where
  | openLevel
  | held
  | fixed (checkWord : Option Word)
  deriving DecidableEq, Repr, Inhabited

/-- An ACTIVE record of an image (R28). -/
structure DurableRegion where
  ident : Identity
  extent : Extent
  freeze : DurableFreeze
  deriving DecidableEq, Repr, Inhabited

/-- A record of an image: FREE where `region` is none (R28). -/
structure DurableRecord where
  generation : Byte
  region : Option DurableRegion
  deriving DecidableEq, Repr, Inhabited

/-- A durable image with its CRC-32 check (R28). -/
structure Image where
  sequence : Word
  records : List DurableRecord
  scrub : List Extent
  withdrawn : List Nat
  check : Word
  deriving DecidableEq, Repr

/-- The content of a copy (R163): every byte erased; a complete image, which is VALID where its check agrees and
DAMAGED where it does not; or the remains of a write, DAMAGED, with what the sequence-number field reads. -/
inductive Copy where
  | blank
  | complete (image : Image)
  | damaged (field : Option Word)
  deriving DecidableEq, Repr

/-- Copy 0 or copy 1 (R30). -/
inductive CopyId where
  | copy0
  | copy1
  deriving DecidableEq, Repr, Inhabited

/-- A directory write in flight (R32, R33). `captured` holds the records as they stood in the working directory at
the capture; `format` marks the write of FORMAT (R172). -/
structure WriteJob where
  image : Image
  target : CopyId
  attempt : Nat
  captured : List Record
  format : Bool
  deriving DecidableEq, Repr

/-- The directory writer's states (R31). -/
inductive Writer where
  | idle
  | writing (job : WriteJob)
  | fault
  deriving DecidableEq, Repr

/-- The directory store and the writer in front of it: copies (nonvolatile), current copy, durable sequence number,
the highest sequence-number field start-up read (R163), dirty flag and writer state (R30, R31). -/
structure Store where
  copy0 : Copy
  copy1 : Copy
  current : Option CopyId
  durable : Word
  highest : Option Word
  dirty : Bool
  writer : Writer
  deriving DecidableEq, Repr

/-! ## Handles -/

/-- What a handle was opened for (R87, R92). -/
inductive Mode where
  | read
  | write
  | exclusive
  deriving DecidableEq, Repr, Inhabited

/-- What an OPEN or STALE entry holds (R87). -/
structure HandleInfo where
  region : RegionRef
  mode : Mode
  deriving DecidableEq, Repr, Inhabited

/-- A handle entry (R87, R88). -/
inductive Handle where
  | closed
  | opened (info : HandleInfo)
  | stale (info : HandleInfo)
  deriving DecidableEq, Repr, Inhabited

/-! ## The operation table -/

/-- The state of a non-FREE slot (R123, R124). WAIT_DIR carries the sequence number of its durability target once it
has one (R35); DONE_FAIL its result code; CANCELLED its cause. -/
inductive SlotState where
  | queued
  | running
  | suspended
  | waitDir (target : Option Word)
  | doneOk
  | doneFail (code : Status)
  | cancelled (cause : Status)
  deriving DecidableEq, Repr, Inhabited

/-- The kind of a slot with the parameters it keeps (R123). -/
inductive Work where
  | program (offset : Nat) (data : List Byte)
  | erase (unitOffset count : Nat)
  | verify | fix
  | create | grow | shrink | retire | grant | hold | thaw
  | format
  deriving DecidableEq, Repr, Inhabited

/-- The comparison of a VERIFY (R84). -/
inductive Comparison where
  | isMatch
  | isMismatch
  | noReference
  deriving DecidableEq, Repr, Inhabited

/-- The fields of a non-FREE slot (R123). `port` is none for an orphan; `suspensions` counts for an ERASE. -/
structure SlotBody where
  state : SlotState
  port : Option Port
  work : Work
  handle : Option Nat
  region : Option RegionRef
  arrival : Option Word
  progress : Nat
  suspensions : Nat
  value : Option Word
  comparison : Option Comparison
  deriving DecidableEq, Repr, Inhabited

/-- A slot: FREE where `body` is none (R123). -/
structure Slot where
  useCount : BitVec 4
  body : Option SlotBody
  deriving DecidableEq, Repr, Inhabited

/-! ## The array scheduler -/

/-- A unit erase on the array (R10 to R14, R134). `before` is the header before its start, `settled` that the header
write of its start is certainly over (log 9), `sliceDone` that it has run 1 ms since its start or last resume
(log 8), `markWriting` that it has begun writing its mark (log 10). -/
structure EraseRun where
  unit : Nat
  before : Header
  settled : Bool
  suspended : Bool
  suspensions : Nat
  sliceDone : Bool
  markWriting : Bool
  deriving DecidableEq, Repr, Inhabited

/-- Whose erase it is: a slot's, scrub's, or that of the FORMAT pass of a slot (R134). -/
inductive EraseOwner where
  | slot (n : Nat)
  | scrub
  | format (n : Nat)
  deriving DecidableEq, Repr, Inhabited

/-- A scan by a VERIFY or FIX slot: its extent, the units done, the CRC-32 remainder, and the port and tag of a
CANCEL that waits for the step to end (R16, R78, R84, R131). -/
structure ScanRun where
  slot : Nat
  extent : Extent
  done : Nat
  crc : Word
  cancel : Option (Port × Byte)
  deriving DecidableEq, Repr, Inhabited

/-- The mark phase of a FIX slot: its extent and the units marked (R79). -/
structure MarkRun where
  slot : Nat
  extent : Extent
  done : Nat
  deriving DecidableEq, Repr, Inhabited

/-- The current activity of the array (R134). A page program keeps the array address of its first byte; an ERASE slot
between two units keeps the unit that comes next (R119, R121, R139). -/
inductive Activity where
  | idle
  | program (slot address : Nat)
  | erase (owner : EraseOwner) (run : EraseRun)
  | between (slot unit : Nat)
  | scan (run : ScanRun)
  | mark (run : MarkRun)
  deriving DecidableEq, Repr, Inhabited

/-- A READ with the read path: its port and tag, and the array bytes its check gave it (R108, R111). -/
structure ReadWait where
  port : Port
  tag : Byte
  address : Nat
  length : Nat
  deriving DecidableEq, Repr, Inhabited

/-- The scheduler (R134, R135). -/
structure Scheduler where
  queue : List Nat
  nextArrival : Word
  activity : Activity
  waiters : List ReadWait
  deriving DecidableEq, Repr

/-! ## The host ports -/

/-- A response (R146), less its start byte, length and CRC-8, which follow from the rest. -/
structure Response where
  status : Status
  tag : Byte
  replayed : Bool
  attention : Bool
  incompleteData : Bool
  result : List Byte
  deriving DecidableEq, Repr

/-- The framing state of a port, with the request or response that the state holds (R144, R149). -/
inductive Framing where
  | idle
  | receiving
  | waiting (request : Instr)
  | executing (request : Instr)
  | responding (response : Response)
  | finished
  deriving DecidableEq, Repr

/-- The entry of a replay cache (R150). -/
structure CacheEntry where
  cmd : Cmd
  tag : Byte
  response : Response
  deriving DecidableEq, Repr

/-- A host port: its two inputs, its framing state, its undecided command (R144), its replay cache (R150), its
stale-notice flag (R101) and its handle table (R87). -/
structure PortState where
  selectLow : Bool
  inhibit : Bool
  framing : Framing
  undecided : Option Instr
  cache : Option CacheEntry
  staleNotice : Bool
  handles : List Handle
  deriving DecidableEq, Repr

/-! ## The part -/

/-- The device state (R160); `inReset` while the RESET input is asserted or power is lost. -/
inductive Device where
  | inReset
  | starting
  | ready
  | degraded
  | recovery
  | formatting
  deriving DecidableEq, Repr, Inhabited

/-- The state of the part. `pending` is the queue of commands and events that are waiting, first in first out;
`draws` counts the free values drawn (log 11). -/
structure State where
  pending : List Instr
  resetAsserted : Bool
  powerGood : Bool
  device : Device
  portA : PortState
  portB : PortState
  array : ArrayState
  dir : Directory
  store : Store
  formatWithdrawn : List Nat
  slots : List Slot
  sched : Scheduler
  draws : Nat
  deriving DecidableEq, Repr

/-! ## Reset values -/

/-- A FREE record at generation 0 (R19). -/
abbrev Record.blank : Record := ⟨0, .free⟩

/-- The empty directory (R19). -/
abbrev Directory.empty : Directory := ⟨List.replicate Config.recordCount Record.blank, [], []⟩

/-- A FREE slot with use count 0 (R123). -/
abbrev Slot.blank : Slot := ⟨0, none⟩

/-- The operation table after power-on or a release of RESET (R123). -/
abbrev emptyTable : List Slot := List.replicate Config.slotCount Slot.blank

/-- A handle table after power-on or a release of RESET (R87). -/
abbrev closedTable : List Handle := List.replicate Config.handleCount Handle.closed

/-- The scheduler after power-on or a release of RESET (R134, R135). -/
abbrev Scheduler.empty : Scheduler := ⟨[], 0, .idle, []⟩

/-- A port after power-on or a release of RESET, with its two inputs as given (R101, R144, R150). -/
abbrev PortState.cleared (selectLow inhibit : Bool) : PortState :=
  ⟨selectLow, inhibit, .idle, none, none, false, closedTable⟩

/-- The array as the part leaves the factory (R4), the map not yet filled. -/
abbrev ArrayState.factory : ArrayState := ⟨[], [], []⟩

/-- The store as the part leaves the factory (R163), the writer IDLE. -/
abbrev Store.factory : Store := ⟨.blank, .blank, none, 0, none, false, .idle⟩

/-- The part as power becomes good for the first time: factory content, STARTING, every volatile table empty
(R19, R87, R123, R134, R144, R160, R163; logs 3, 4, 5, 7). -/
def State.reset : State where
  pending := []
  resetAsserted := false
  powerGood := true
  device := .starting
  portA := .cleared false false
  portB := .cleared false false
  array := .factory
  dir := .empty
  store := .factory
  formatWithdrawn := []
  slots := emptyTable
  sched := .empty
  draws := 0

end Sys2Proof.Machine
end

