-- ==== Sys2Proof/Machine/Codes.lean ====
section
/-! DEFINITION. The numeric codes of every named value a host receives or sends (R158, R159). -/

namespace Sys2Proof.Machine

/-- Status and result codes (R159). -/
def Status.code : Status → Byte
  | .ok => 0x00 | .frameError => 0x01 | .unknownCommand => 0x02 | .badParam => 0x03
  | .notReady => 0x04 | .wrongState => 0x05 | .dirFault => 0x06 | .inhibited => 0x07
  | .noSuchRegion => 0x10 | .notActive => 0x11 | .nameTaken => 0x12 | .dirFull => 0x13
  | .noSpace => 0x14 | .spacePending => 0x15 | .noRoom => 0x16 | .scrubFull => 0x17
  | .notOwner => 0x18 | .noRight => 0x19 | .frozen => 0x1A | .inUse => 0x1B
  | .handlesFull => 0x20 | .badHandle => 0x21 | .stale => 0x22 | .handleBusy => 0x23
  | .range => 0x24 | .conflict => 0x25
  | .slotsFull => 0x30 | .quota => 0x31 | .noSuchTicket => 0x32 | .tooLate => 0x33
  | .erasing => 0x34 | .arrayBusy => 0x35
  | .unitIncomplete => 0x40 | .worn => 0x41 | .arrayFault => 0x42 | .host => 0x44

/-- Device state encoding (R158). In reset no port answers (R160), so that code is never sent. -/
def Device.code : Device → Byte
  | .inReset | .starting => 0 | .ready => 1 | .degraded => 2 | .recovery => 3 | .formatting => 4

/-- Writer state encoding (R158). -/
def Writer.code : Writer → Byte
  | .idle => 0 | .writing _ => 1 | .fault => 2

/-- Region state encoding (R158). -/
def RecordBody.code : RecordBody → Byte
  | .free => 0 | .pending _ _ => 1 | .active _ => 2 | .retiring _ => 3

/-- Freeze level encoding (R158). -/
def Freeze.code : Freeze → Byte
  | .openLevel => 0 | .held => 1 | .fixing => 2 | .fixed _ => 3

/-- Owner encoding (R158); also the port field of IDENTIFY (R156). -/
def portCode : Port → Byte
  | .a => 0 | .b => 1

/-- Rights encoding (R158). -/
def Rights.code : Rights → Byte
  | .none => 0 | .read => 1 | .readWrite => 2

/-- Mode encoding (R158). -/
def Mode.code : Mode → Byte
  | .read => 0 | .write => 1 | .exclusive => 2

/-- Handle state encoding (R158). -/
def Handle.code : Handle → Byte
  | .closed => 0 | .opened _ => 1 | .stale _ => 2

/-- Slot state encoding of a non-FREE slot (R158). -/
def SlotState.code : SlotState → Byte
  | .queued => 1 | .running => 2 | .suspended => 3 | .waitDir _ => 4 | .doneOk => 5 | .doneFail _ => 6 | .cancelled _ => 7

/-- The command that makes a slot of this kind; its code is the slot kind encoding (R158). -/
def Work.cmd : Work → Cmd
  | .program _ _ => .program | .erase _ _ => .erase | .verify => .verify | .fix => .fix
  | .create => .create | .grow => .grow | .shrink => .shrink | .retire => .retire
  | .grant => .grant | .hold => .hold | .thaw => .thaw | .format => .format

/-- Slot kind encoding (R158). -/
def Work.code (w : Work) : Byte := w.cmd.code

/-- Comparison encoding (R158). -/
def Comparison.code : Comparison → Byte
  | .isMatch => 0 | .isMismatch => 1 | .noReference => 2

/-- Condition encoding (R158). -/
def Condition.code : Condition → Byte
  | .good => 0 | .incomplete => 1 | .worn => 2

/-- One-bit fields: absent or no 0, present or yes 1 (R158). -/
def boolCode (b : Bool) : Byte := if b then 1 else 0

/-- A number as a 1-byte field. -/
def byteOf (n : Nat) : Byte := BitVec.ofNat 8 n

/-- A number as a 2-byte field, most significant byte first. -/
def halfOf (n : Nat) : List Byte := be16 (BitVec.ofNat 16 n)

/-- The rights a request byte names (R158). -/
def Rights.ofCode (b : Byte) : Option Rights :=
  if b = 0 then some .none else if b = 1 then some .read else if b = 2 then some .readWrite else Option.none

/-- The mode a request byte names (R158). -/
def Mode.ofCode (b : Byte) : Option Mode :=
  if b = 0 then some .read else if b = 1 then some .write else if b = 2 then some .exclusive else none

/-- The override a request byte names (R57, R158). -/
def overrideOf (b : Byte) : Option Bool :=
  if b = 0 then some false else if b = 1 then some true else none

end Sys2Proof.Machine
end

