-- ==== Sys2Proof/Machine/Memory.lean ====
section
/-! DEFINITION. The array: sparse lists in canonical form, data bytes, unit headers and the unit condition map, what a
program, an erase and a mark write do to them, and the CRC-32 (R1 to R18, R82). -/

namespace Sys2Proof.Machine

/-! ## Sparse lists -/

/-- What a key reads as: its entry, or `d` where it has none. -/
def sparseGet {α : Type} (d : α) : List (Nat × α) → Nat → α
  | [], _ => d
  | (k, v) :: rest, key => if k = key then v else sparseGet d rest key

/-- Writes `v` at `key`, keeping the keys rising and listing no entry equal to `d`. -/
def sparseSet {α : Type} [DecidableEq α] (d : α) : List (Nat × α) → Nat → α → List (Nat × α)
  | [], key, v => if v = d then [] else [(key, v)]
  | (k, w) :: rest, key, v =>
    if key < k then (if v = d then (k, w) :: rest else (key, v) :: (k, w) :: rest)
    else if key = k then (if v = d then rest else (key, v) :: rest)
    else (k, w) :: sparseSet d rest key v

/-- The canonical form: keys strictly rising, no entry equal to `d`. -/
def sparseWf {α : Type} [DecidableEq α] (d : α) : List (Nat × α) → Bool
  | [] => true
  | (k, v) :: rest => decide (v ≠ d) && rest.all (fun c => decide (k < c.1)) && sparseWf d rest

/-! ## Data bytes -/

/-- What an unlisted byte of the array reads as: erased (R4, R11). -/
abbrev erasedByte : Byte := 0xFF

/-- The canonical form of the array's data: addresses strictly rising, no erased byte listed. -/
def Memory.wf (data : List Host.Cell) : Bool := sparseWf erasedByte data

/-- The array address of a byte of a unit (R1). -/
def unitBase (u : Nat) : Nat := u * Config.unitSize

/-- Whether an array address lies in a unit (R1). -/
def inUnit (u address : Nat) : Bool := address / Config.unitSize == u

/-- The byte at an array address (R5). -/
def ArrayState.byte (a : ArrayState) (address : Nat) : Byte := sparseGet erasedByte a.data address

/-- Consecutive bytes in rising address (R5, R108). -/
def ArrayState.bytes (a : ArrayState) (address length : Nat) : List Byte :=
  (List.range length).map fun i => a.byte (address + i)

/-- Programs one byte: the AND of old and new (R6). -/
def ArrayState.programByte (a : ArrayState) (address : Nat) (b : Byte) : ArrayState :=
  { a with data := sparseSet erasedByte a.data address (a.byte address &&& b) }

/-- Programs the bytes from `address` on that `landed` lets through (R6, R8, R9). -/
def ArrayState.programBytes (landed : Nat → Bool) : Nat → List Byte → ArrayState → ArrayState
  | _, [], a => a
  | address, b :: rest, a =>
    ArrayState.programBytes landed (address + 1) rest (if landed address then a.programByte address b else a)

/-- Every data bit of a unit brought to 1 (R11). -/
def ArrayState.eraseData (a : ArrayState) (u : Nat) : ArrayState :=
  { a with data := a.data.filter fun c => !inUnit u c.1 }

/-- The data of a unit after an erase that did not end normally: each bit as it was, or turned to 1 where `sets` has
a 1 (R13, R14). -/
def ArrayState.partialErase (a : ArrayState) (sets : Nat → Byte) (u : Nat) : ArrayState :=
  { a with
    data := a.data.filterMap fun c =>
      if inUnit u c.1 then (if c.2 ||| sets c.1 = erasedByte then none else some (c.1, c.2 ||| sets c.1))
      else some c }

/-- The data of a unit whose erase ends where it stands, other than normally (R13, R14): every bit at 1 where the erase
had begun writing its mark, for R11 puts the mark after the data; else each bit as it was, or turned to 1. -/
def ArrayState.stopErase (a : ArrayState) (run : EraseRun) (sets : Nat → Byte) : ArrayState :=
  if run.markWriting then a.eraseData run.unit else a.partialErase sets run.unit

/-! ## Headers and the map -/

/-- The condition that follows from a header (R3). -/
def Header.condition (h : Header) : Condition :=
  if h.eraseMark then (if h.eraseCount < Config.wearLimit then .good else .worn) else .incomplete

/-- The map's entry for a header (R4). -/
def Header.facts (h : Header) : UnitFacts := ⟨h.condition, h.eraseCount, h.fixedMark⟩

/-- A unit's header (R2). -/
def ArrayState.header (a : ArrayState) (u : Nat) : Header := sparseGet Header.factory a.headers u

/-- A unit's entry in the unit condition map (R4). -/
def ArrayState.facts (a : ArrayState) (u : Nat) : UnitFacts := sparseGet UnitFacts.factory a.map u

/-- Writes a unit's header alone, as a reset or power loss leaves it (R10, R13, R15). -/
def ArrayState.setHeader (a : ArrayState) (u : Nat) (h : Header) : ArrayState :=
  { a with headers := sparseSet Header.factory a.headers u h }

/-- Writes a unit's header and brings its map entry up to date (R4). -/
def ArrayState.writeHeader (a : ArrayState) (u : Nat) (h : Header) : ArrayState :=
  { a with
    headers := sparseSet Header.factory a.headers u h
    map := sparseSet UnitFacts.factory a.map u h.facts }

/-- The header written at an erase's start: mark absent, count one higher, fixed mark as it was (R10). -/
def ArrayState.eraseStart (a : ArrayState) (u : Nat) : ArrayState :=
  a.writeHeader u { a.header u with eraseMark := false, eraseCount := (a.header u).eraseCount + 1 }

/-- The normal end of an erase: data all 1, mark present (R11). -/
def ArrayState.eraseDone (a : ArrayState) (u : Nat) : ArrayState :=
  (a.eraseData u).writeHeader u { a.header u with eraseMark := true }

/-- A unit's fixed mark written present, everything else carried over (R15). -/
def ArrayState.markUnit (a : ArrayState) (u : Nat) : ArrayState :=
  a.writeHeader u { a.header u with fixedMark := true }

/-- The header scan of start-up: every entry of the map filled from its header (R4, R165). -/
def ArrayState.scanHeaders (a : ArrayState) : ArrayState :=
  { a with map := a.headers.map fun c => (c.1, c.2.facts) }

/-- Whether the map refuses an erase of the unit (R10). -/
def ArrayState.atLimit (a : ArrayState) (u : Nat) : Bool := decide (Config.wearLimit ≤ (a.facts u).eraseCount)

/-- The units a READ of 1 to 4096 bytes touches: that of its first byte and that of its last (R108). -/
def touchedUnits (address length : Nat) : List Nat :=
  [address / Config.unitSize, (address + length - 1) / Config.unitSize]

/-- Whether a READ touches a unit that the map holds INCOMPLETE (R5, R110). -/
def ArrayState.touchesIncomplete (a : ArrayState) (address length : Nat) : Bool :=
  (touchedUnits address length).any fun u => (a.facts u).condition == .incomplete

/-! ## CRC-32 -/

/-- One shift of the CRC-32 remainder (R82, step 3). -/
def crc32Shift (r : Word) : Word := if r.getLsbD 0 then (r >>> 1) ^^^ 0xEDB88320 else r >>> 1

/-- One byte combined into the remainder (R82, steps 2 and 3). -/
def crc32Byte (r : Word) (b : Byte) : Word :=
  crc32Shift (crc32Shift (crc32Shift (crc32Shift (crc32Shift (crc32Shift (crc32Shift (crc32Shift
    (r ^^^ b.setWidth 32))))))))

/-- The starting remainder (R82, step 1). -/
abbrev crc32Start : Word := 0xFFFFFFFF

/-- Feeds bytes into a remainder, in order. -/
def crc32Feed (r : Word) (bytes : List Byte) : Word := bytes.foldl crc32Byte r

/-- The value of a remainder after its last byte (R82, step 4). -/
def crc32Value (r : Word) : Word := r ^^^ 0xFFFFFFFF

/-- The CRC-32 of a sequence of bytes (R82). -/
def crc32 (bytes : List Byte) : Word := crc32Value (crc32Feed crc32Start bytes)

/-! ## Sorted sets of units -/

/-- Adds a unit to a sorted set without duplicates (R47). -/
def unitInsert (u : Nat) : List Nat → List Nat
  | [] => [u]
  | v :: rest => if u < v then u :: v :: rest else if u = v then v :: rest else v :: unitInsert u rest

end Sys2Proof.Machine
end

