-- ==== Sys2Proof/Machine/Ops.lean ====
section
/-! DEFINITION. The named operations over the part's tables: ports, handles, records and the placement of units, slots,
the queue, and the directory writer. -/

namespace Sys2Proof.Machine

/-! ## Ports and handles -/

/-- The port that is not this one. -/
def otherPort : Port → Port
  | .a => .b
  | .b => .a

/-- A port's state. -/
def State.port (s : State) : Port → PortState
  | .a => s.portA
  | .b => s.portB

/-- A port's state replaced. -/
def State.setPort (s : State) (p : Port) (q : PortState) : State :=
  match p with
  | .a => { s with portA := q }
  | .b => { s with portB := q }

/-- Both ports changed by one rule. -/
def State.mapPorts (s : State) (f : Port → PortState → PortState) : State :=
  { s with portA := f .a s.portA, portB := f .b s.portB }

/-- The entry of a port's handle table (R87). -/
def State.handle (s : State) (p : Port) (h : Nat) : Handle := (s.port p).handles.getD h .closed

/-- The entry of a port's handle table replaced. -/
def State.setHandle (s : State) (p : Port) (h : Nat) (x : Handle) : State :=
  s.setPort p { s.port p with handles := (s.port p).handles.set h x }

/-- Whether an entry is OPEN and its fields satisfy `f`. -/
def Handle.openWith (f : HandleInfo → Bool) : Handle → Bool
  | .opened i => f i
  | _ => false

/-- Whether some entry of either table is OPEN and satisfies `f` (R92, R100). -/
def State.anyOpen (s : State) (f : Port → HandleInfo → Bool) : Bool :=
  s.portA.handles.any (Handle.openWith (f .a)) || s.portB.handles.any (Handle.openWith (f .b))

/-- A mode that programs and erases (R92). -/
def Mode.writes : Mode → Bool
  | .read => false
  | .write | .exclusive => true

/-- Whether opening in the first mode conflicts with an OPEN handle of the second (R92). -/
def Mode.conflicts : Mode → Mode → Bool
  | .read, m => m == .exclusive
  | .write, m => m == .write || m == .exclusive
  | .exclusive, _ => true

/-- Whether the other port's rights allow a mode to be opened (R68). -/
def Rights.allow : Rights → Mode → Bool
  | .none, _ => false
  | .read, m => m == .read
  | .readWrite, _ => true

/-! ## Records and names -/

/-- Whether the part has a directory in service (R19, R45). -/
def State.loaded (s : State) : Bool := s.device == .ready || s.device == .degraded

/-- The fields every non-FREE record holds. -/
def RecordBody.ident : RecordBody → Option Identity
  | .free => none
  | .pending i _ => some i
  | .active r => some r.ident
  | .retiring i => some i

/-- A record's name; a FREE record has none (R25). -/
def RecordBody.name (b : RecordBody) : Option (List Byte) := b.ident.map (·.name)

/-- The recorded extent of a PENDING or ACTIVE record (R20). -/
def RecordBody.extent : RecordBody → Option Extent
  | .pending _ e => some e
  | .active r => some r.extent
  | _ => none

/-- The pending growth, none where absent (R20). -/
def RecordBody.growth : RecordBody → Option Nat
  | .active r => r.growth
  | _ => none

/-- The freeze level (R20, R26). -/
def RecordBody.freeze : RecordBody → Freeze
  | .active r => r.freeze
  | _ => .openLevel

/-- The units that belong to a record: recorded extent and pending growth (R45). -/
def RecordBody.units : RecordBody → Option Extent
  | .pending _ e => some e
  | .active r => some ⟨r.extent.first, r.extent.count + r.growth.getD 0⟩
  | _ => none

/-- Whether a unit lies in an extent. -/
def Extent.contains (e : Extent) (u : Nat) : Bool := decide (e.first ≤ u) && decide (u < e.first + e.count)

/-- A record of the working directory (R20). -/
def Directory.record (d : Directory) (n : Nat) : Record := d.records.getD n Record.blank

/-- A record's body replaced, its generation kept (R22). -/
def Directory.setBody (d : Directory) (n : Nat) (b : RecordBody) : Directory :=
  { d with records := d.records.modify n fun r => { r with body := b } }

/-- The non-FREE record that holds a name (R25). -/
def Directory.findName (d : Directory) (name : List Byte) : Option Nat :=
  d.records.findIdx? fun r => r.body.name == some name

/-- The lowest-numbered FREE record (R53). -/
def Directory.lowestFree (d : Directory) : Option Nat := d.records.findIdx? fun r => r.body == .free

/-- The record a region reference resolves to; none answers NO_SUCH_REGION (R22). -/
def Directory.resolve (d : Directory) (ref : RegionRef) : Option RecordBody :=
  let r := d.record ref.number
  if r.body = .free then none else if r.generation = ref.generation then some r.body else none

/-- The recorded extent of a region, empty at unit 0 where the record holds none. -/
def Directory.extentOf (d : Directory) (n : Nat) : Extent := ((d.record n).body.extent).getD ⟨0, 0⟩

/-- An ACTIVE region changed; other records stay. -/
def Directory.mapRegion (d : Directory) (n : Nat) (f : Region → Region) : Directory :=
  match (d.record n).body with
  | .active r => d.setBody n (.active (f r))
  | _ => d

/-- A region's freeze level set. -/
def State.setFreeze (s : State) (n : Nat) (l : Freeze) : State :=
  { s with dir := s.dir.mapRegion n fun r => { r with freeze := l } }

/-! ## The placement of units -/

/-- Where a unit stands while a directory is loaded (R44, R45). -/
inductive Place where
  | region (number : Nat) (generation : Byte) (offset : Nat) (inGrowth : Bool)
  | scrub (position : Nat) (ended : Bool)
  | withdrawn
  | free
  deriving DecidableEq, Repr

/-- The record whose units hold a unit. -/
def Directory.holder (d : Directory) (u : Nat) : Option Nat :=
  d.records.findIdx? fun r => r.body.units.any fun e => e.contains u

/-- The scrub extent whose range covers a unit. -/
def Directory.scrubOf (d : Directory) (u : Nat) : Option Nat := d.scrub.findIdx? fun e => e.extent.contains u

/-- The place of a unit: a region, the withdrawn set, a scrub extent, or the free pool (R44, R45). -/
def Directory.place (d : Directory) (u : Nat) : Place :=
  match d.holder u with
  | some n =>
    let e := d.extentOf n
    .region n (d.record n).generation (u - e.first) (decide (e.first + e.count ≤ u))
  | none =>
    if d.withdrawn.contains u then .withdrawn
    else match d.scrubOf u with
      | some i =>
        let e := d.scrub.getD i ⟨⟨0, 0⟩, 0, false⟩
        .scrub (i + 1) (decide (u < e.extent.first + e.progress))
      | none => .free

/-- Units in the free pool (R45, R157). -/
def Directory.freeCount (d : Directory) : Nat := ((List.range Config.unitCount).filter fun u => d.place u == .free).length

/-- A unit that CREATE and GROW can take: in the free pool and GOOD (R48). -/
def State.available (s : State) (u : Nat) : Bool := s.dir.place u == .free && (s.array.facts u).condition == .good

/-- A unit that is available or lies in a scrub extent (R50). -/
def State.hoped (s : State) (u : Nat) : Bool :=
  s.available u || (match s.dir.place u with | .scrub _ _ => true | _ => false)

/-- Whether every unit of a run satisfies `ok`, and the run fits the array. -/
def runFits (ok : Nat → Bool) (first count : Nat) : Bool :=
  decide (first + count ≤ Config.unitCount) && (List.range count).all fun i => ok (first + i)

/-- The lowest first unit of a run that fits (R48). -/
def lowestRun (ok : Nat → Bool) (count : Nat) : Option Nat :=
  (List.range Config.unitCount).find? fun f => runFits ok f count

/-- The placement of a CREATE (R52). -/
inductive Placement where
  | lowest
  | at (first : Nat)
  deriving DecidableEq, Repr

/-- The run a placement gives: its first unit (R48, R49). -/
def allocate (ok : Nat → Bool) (placement : Placement) (count : Nat) : Option Nat :=
  match placement with
  | .lowest => lowestRun ok count
  | .at f => if runFits ok f count then some f else none

/-! ## Slots and the queue -/

/-- A slot of the operation table (R123). -/
def State.slot (s : State) (n : Nat) : Slot := s.slots.getD n Slot.blank

/-- The kind and parameters of a non-FREE slot. -/
def State.slotWork (s : State) (n : Nat) : Option Work := (s.slot n).body.map (·.work)

/-- The region number of a slot's reference, 0 where it has none. -/
def SlotBody.regionNumber (b : SlotBody) : Nat := (b.region.map (·.number)).getD 0

/-- The region number of a slot, 0 where it has none. -/
def State.slotRegion (s : State) (n : Nat) : Nat := ((s.slot n).body.map SlotBody.regionNumber).getD 0

/-- A slot freed: its use count advances, every other field becomes absent (R123). -/
def Slot.freed (x : Slot) : Slot := ⟨x.useCount + 1, none⟩

/-- A slot that ends: a port's takes the state, an orphan's is freed (R128). -/
def Slot.ended (st : SlotState) (x : Slot) : Slot :=
  match x.body with
  | none => x
  | some b => if b.port.isNone then x.freed else { x with body := some { b with state := st } }

/-- Ends a slot. -/
def State.endSlot (s : State) (n : Nat) (st : SlotState) : State :=
  { s with slots := s.slots.modify n (Slot.ended st) }

/-- Changes a non-FREE slot's fields. -/
def State.mapSlot (s : State) (n : Nat) (f : SlotBody → SlotBody) : State :=
  { s with slots := s.slots.modify n fun x => { x with body := x.body.map f } }

/-- Frees a slot. -/
def State.freeSlot (s : State) (n : Nat) : State := { s with slots := s.slots.modify n Slot.freed }

/-- Fills a FREE slot, its use count kept (R123). -/
def State.fillSlot (s : State) (n : Nat) (b : SlotBody) : State :=
  { s with slots := s.slots.modify n fun x => { x with body := some b } }

/-- The lowest-numbered FREE slot (R123). -/
def State.lowestFreeSlot (s : State) : Option Nat := s.slots.findIdx? fun x => x.body.isNone

/-- Whether a slot is a port's (R126). -/
def Slot.ofPort (p : Port) (x : Slot) : Bool := x.body.any fun b => b.port == some p

/-- The slot check that is the last of every command that takes a slot: the slot it would take, or SLOTS_FULL, or
QUOTA (R126). -/
def State.slotCheck (s : State) (p : Port) : Except Status Nat :=
  match s.lowestFreeSlot with
  | none => .error .slotsFull
  | some n => if Config.slotQuota ≤ s.slots.countP (Slot.ofPort p) then .error .quota else .ok n

/-- The finished states (R124). -/
def SlotState.finished : SlotState → Bool
  | .doneOk | .doneFail _ | .cancelled _ => true
  | _ => false

/-- The states of work on the array that has begun and not ended. -/
def SlotState.onArray : SlotState → Bool
  | .running | .suspended => true
  | _ => false

/-- The result code of a finished slot: OK, its code, or its cause (R159). -/
def SlotState.result : SlotState → Option Status
  | .doneOk => some .ok
  | .doneFail c => some c
  | .cancelled c => some c
  | _ => none

/-- WAIT_DIR, with or without a target. -/
def SlotState.isWaitDir : SlotState → Bool
  | .waitDir _ => true
  | _ => false

/-- Kinds that program or erase. -/
def Work.writes : Work → Bool
  | .program _ _ | .erase _ _ => true
  | _ => false

/-- Whether some non-FREE slot satisfies `f`. -/
def State.anySlot (s : State) (f : SlotBody → Bool) : Bool := s.slots.any fun x => x.body.any f

/-- A fresh slot body of a command. -/
def SlotBody.fresh (p : Port) (work : Work) (state : SlotState) (handle : Option Nat) (region : Option RegionRef)
    (arrival : Option Word) : SlotBody :=
  ⟨state, some p, work, handle, region, arrival, 0, 0, none, none⟩

/-- A slot becomes QUEUED: it takes the next arrival number and joins the end of the queue (R135). -/
def State.enqueue (s : State) (n : Nat) (p : Port) (work : Work) (handle : Option Nat) (region : RegionRef) : State :=
  let s1 := s.fillSlot n (.fresh p work .queued handle (some region) (some s.sched.nextArrival))
  { s1 with sched := { s1.sched with queue := s1.sched.queue ++ [n], nextArrival := s1.sched.nextArrival + 1 } }

/-- A slot leaves the queue (R135). -/
def State.dequeue (s : State) (n : Nat) : State :=
  { s with sched := { s.sched with queue := s.sched.queue.filter fun m => m != n } }

/-- Whether a slot is QUEUED and satisfies `f`. -/
def Slot.queuedWith (f : SlotBody → Bool) (x : Slot) : Bool := x.body.any fun b => b.state == .queued && f b

/-- Every QUEUED slot that satisfies `f` becomes CANCELLED and leaves the queue (R59, R100). -/
def State.cancelQueued (s : State) (f : SlotBody → Bool) (cause : Status) : State :=
  { s with
    slots := s.slots.map fun x =>
      if x.queuedWith f then { x with body := x.body.map fun b => { b with state := .cancelled cause } } else x
    sched := { s.sched with queue := s.sched.queue.filter fun n => !(s.slot n).queuedWith f } }

/-- Makes a port's OPEN handles that satisfy `f` STALE, and sets its notice if there was one (R100, R101). -/
def PortState.makeStale (f : HandleInfo → Bool) (q : PortState) : PortState :=
  { q with
    handles := q.handles.map fun h => match h with
      | .opened i => if f i then .stale i else h
      | _ => h
    staleNotice := q.staleNotice || q.handles.any (Handle.openWith f) }

/-- Whether a slot was issued through an OPEN handle that satisfies `f`. -/
def State.issuedThrough (s : State) (f : Port → HandleInfo → Bool) (b : SlotBody) : Bool :=
  match b.port, b.handle with
  | some p, some h => (s.handle p h).openWith (f p)
  | _, _ => false

/-- An override: the OPEN handles that satisfy `f` become STALE, their QUEUED slots CANCELLED with cause STALE, and
the notices of their ports are set (R62, R71, R74, R100). -/
def State.invalidate (s : State) (f : Port → HandleInfo → Bool) : State :=
  (s.cancelQueued (s.issuedThrough f) .stale).mapPorts fun p q => q.makeStale (f p)

/-- The array given to an activity, or freed. -/
def State.setActivity (s : State) (a : Activity) : State := { s with sched := { s.sched with activity := a } }

/-! ## Free values -/

/-- One more free value drawn (log 11). -/
def State.drawn (s : State) : State := { s with draws := s.draws + 1 }

/-! ## The directory writer -/

/-- The check word a FIX slot in WAIT_DIR holds for a region (R29). -/
def State.fixWord (s : State) (ref : RegionRef) : Option Word :=
  s.slots.findSome? fun x => match x.body with
    | some b => if b.work = .fix ∧ b.region = some ref ∧ b.state.isWaitDir = true then b.value else none
    | none => none

/-- The freeze level an image carries for a region (R28, R29). -/
def State.durableFreeze (s : State) (ref : RegionRef) : Freeze → DurableFreeze
  | .openLevel => .openLevel
  | .held => .held
  | .fixed w => .fixed w
  | .fixing => match s.fixWord ref with
    | some w => .fixed (some w)
    | none => .held

/-- A record in durable form (R28). -/
def State.durableRecord (s : State) (n : Nat) (r : Record) : DurableRecord :=
  match r.body with
  | .free => ⟨r.generation, none⟩
  | .pending i e => ⟨r.generation, some ⟨i, e, .openLevel⟩⟩
  | .active g =>
    ⟨r.generation, some ⟨g.ident, ⟨g.extent.first, g.extent.count + g.growth.getD 0⟩,
      s.durableFreeze ⟨n, r.generation⟩ g.freeze⟩⟩
  | .retiring _ => ⟨r.generation + 1, none⟩

/-- An extent's bytes in the model's layout of an image (log 17). -/
def Extent.bytes (e : Extent) : List Byte := halfOf e.first ++ halfOf e.count

/-- A freeze level's bytes in the model's layout of an image, with the check word where one is present (log 17). -/
def DurableFreeze.bytes : DurableFreeze → List Byte
  | .openLevel => [0]
  | .held => [1]
  | .fixed none => [2]
  | .fixed (some w) => 3 :: be32 w

/-- A record's bytes in the model's layout of an image: generation, state, and an ACTIVE record's fields (R28; log 17). -/
def DurableRecord.bytes (r : DurableRecord) : List Byte :=
  match r.region with
  | none => [r.generation, 0]
  | some g => r.generation :: 1 :: byteOf g.ident.name.length :: g.ident.name ++ g.extent.bytes ++
      [portCode g.ident.owner, g.ident.rights.code] ++ g.freeze.bytes

/-- Everything of an image above its check, in the model's layout (R28; log 17). -/
def Image.content (i : Image) : List Byte :=
  be32 i.sequence ++ i.records.flatMap DurableRecord.bytes ++ byteOf i.scrub.length :: i.scrub.flatMap Extent.bytes ++
    halfOf i.withdrawn.length ++ i.withdrawn.flatMap halfOf

/-- The CRC-32 over an image's content (R28, R82). -/
def Image.crc (i : Image) : Word := crc32 i.content

/-- Whether an image's check agrees with the rest of its content (R163). -/
def Image.agrees (i : Image) : Bool := i.check == i.crc

/-- An image with its check computed (R28). -/
def Image.sealed (i : Image) : Image := { i with check := i.crc }

/-- The working directory captured in durable form under a sequence number, with its check (R28). -/
def State.capture (s : State) (sequence : Word) : Image :=
  Image.sealed ⟨sequence, s.dir.records.mapIdx s.durableRecord, s.dir.scrub.map (·.extent), s.dir.withdrawn, 0⟩

/-- The copy a directory write goes to: the one that is not current, copy 0 where neither is (R30). -/
def Store.target (t : Store) : CopyId :=
  match t.current with
  | some .copy0 => .copy1
  | _ => .copy0

/-- A copy. -/
def Store.copy (t : Store) : CopyId → Copy
  | .copy0 => t.copy0
  | .copy1 => t.copy1

/-- A copy's content replaced. -/
def Store.setCopy (t : Store) (c : CopyId) (x : Copy) : Store :=
  match c with
  | .copy0 => { t with copy0 := x }
  | .copy1 => { t with copy1 := x }

/-- Whether a slot is a FORMAT slot that is RUNNING. -/
def Slot.runningFormat (x : Slot) : Bool := x.body.any fun b => b.work == .format && b.state == .running

/-- Whether a slot is in WAIT_DIR. -/
def Slot.inWaitDir (x : Slot) : Bool := x.body.any fun b => b.state.isWaitDir

/-- The writer enters FAULT: READY becomes DEGRADED, FORMATTING returns to RECOVERY, every slot in WAIT_DIR and a
RUNNING FORMAT slot end DONE_FAIL with DIR_FAULT (R37, R172). -/
def State.writerFault (s : State) : State :=
  { s with
    device := match s.device with
      | .ready => .degraded
      | .formatting => .recovery
      | d => d
    store := { s.store with writer := .fault }
    slots := s.slots.map fun x => if x.inWaitDir || x.runningFormat then x.ended (.doneFail .dirFault) else x }

/-- A slot in WAIT_DIR without a target takes this write as its target (R32 step 5). -/
def Slot.takeTarget (sequence : Word) (x : Slot) : Slot :=
  { x with body := x.body.map fun b => if b.state = .waitDir none then { b with state := .waitDir (some sequence) } else b }

/-- A write starts in one act: capture, number, flag cleared, target copy, durability targets, first attempt; or,
where no further number exists, the writer enters FAULT (R32). -/
def State.startWrite (s : State) : State :=
  if s.store.durable = Config.lastSequence then s.writerFault
  else
    let sequence := s.store.durable + 1
    { s with
      store := { s.store with
        dirty := false
        writer := .writing ⟨s.capture sequence, s.store.target, 1, s.dir.records, false⟩ }
      slots := s.slots.map (Slot.takeTarget sequence) }

/-- A write starts at once when the writer is IDLE and the dirty flag is set (R32). -/
def State.kick (s : State) : State :=
  if s.store.writer = .idle ∧ s.store.dirty = true then s.startWrite else s

/-- A change to the durable content sets the dirty flag, and starts a write where the writer is IDLE (R31, R32). -/
def State.markDirty (s : State) : State := State.kick { s with store := { s.store with dirty := true } }

/-- The transition of one record that a completed write carried (R34 step 2): `was` is the record at the capture,
`carried` the record of the image. -/
def settleRecord (was : Record) (carried : DurableRecord) (now : Record) : Record :=
  match was.body, now.body with
  | .pending _ _, .pending i e => { now with body := .active ⟨i, e, none, .openLevel⟩ }
  | .retiring _, .retiring _ => ⟨now.generation + 1, .free⟩
  | .active r0, .active r =>
    let grown : Region := match r0.growth, r.growth with
      | some _, some g => { r with extent := ⟨r.extent.first, r.extent.count + g⟩, growth := none }
      | _, _ => r
    let level : Freeze := match r.freeze, carried.region.map DurableRegion.freeze with
      | .fixing, some (.fixed w) => .fixed w
      | l, _ => l
    { now with body := .active { grown with freeze := level } }
  | _, _ => now

/-- A slot whose durability target was the write becomes DONE_OK, an orphan is freed (R34 step 3). -/
def Slot.targetDone (sequence : Word) (x : Slot) : Slot :=
  if x.body.any (fun b => b.state == .waitDir (some sequence)) then x.ended .doneOk else x

/-- The post-durability transitions of R34 step 2 on the working directory. -/
def Directory.settle (d : Directory) (job : WriteJob) : Directory :=
  { d with
    records := d.records.mapIdx fun n r =>
      settleRecord (job.captured.getD n Record.blank) (job.image.records.getD n ⟨0, none⟩) r
    scrub := d.scrub.map fun e => if job.image.scrub.contains e.extent then { e with eligible := true } else e }

/-- The completion of a write other than FORMAT's, in one act (R34 steps 1 to 3); the next write is `kick`'s. -/
def State.completeWrite (s : State) (job : WriteJob) : State :=
  { s with
    store := { (s.store.setCopy job.target (.complete job.image)) with
      current := some job.target, durable := job.image.sequence, writer := .idle }
    dir := s.dir.settle job
    slots := s.slots.map (Slot.targetDone job.image.sequence) }

/-- The working directory that FORMAT's image gives (R172). -/
def formatDirectory (image : Image) : Directory := { Directory.empty with withdrawn := image.withdrawn }

/-- The completion of FORMAT's write (R172). -/
def State.completeFormat (s : State) (job : WriteJob) : State :=
  { s with
    device := .ready
    store := { (s.store.setCopy job.target (.complete job.image)) with
      current := some job.target, durable := job.image.sequence, writer := .idle, dirty := false }
    dir := formatDirectory job.image
    slots := s.slots.map fun x => if x.runningFormat then x.ended .doneOk else x }

/-- A failed attempt: the target copy is DAMAGED; another attempt begins, or after the third the writer enters FAULT
(R33). -/
def State.failAttempt (s : State) (job : WriteJob) : State :=
  let damaged := { s with
    store := s.store.setCopy job.target (.damaged (Config.damagedField s.draws)) }.drawn
  if job.attempt < Config.writeAttempts then
    { damaged with store := { damaged.store with writer := .writing { job with attempt := job.attempt + 1 } } }
  else damaged.writerFault

end Sys2Proof.Machine
end

