-- ==== Sys2Proof/Machine/Operands.lean ====
section
/-! DEFINITION. The operand forms of the requests: the parameter checks of R148 step 5, each giving the operands a block
works with, or none where a value answers BAD_PARAM. -/

namespace Sys2Proof.Machine

/-- A byte a name may hold (R23). -/
def nameByte (b : Byte) : Bool := decide (0x21 ≤ b.toNat) && decide (b.toNat ≤ 0x7E)

/-- A region name: 1 to 12 bytes, each 0x21 to 0x7E (R23). -/
def validName (name : List Byte) : Bool :=
  decide (1 ≤ name.length) && decide (name.length ≤ 12) && name.all nameByte

/-- The name operand. -/
def nameOperand (name : List Byte) : Option (List Byte) := if validName name then some name else none

/-- A region number 0 to 31 (R22, R43). -/
def regionOperand (b : Byte) : Option Nat := if b.toNat < Config.recordCount then some b.toNat else none

/-- A region reference (R22). -/
def refOperand (number generation : Byte) : Option RegionRef :=
  (regionOperand number).map fun n => ⟨n, generation⟩

/-- A unit number 0 to 1023 (R44). -/
def unitOperand (u : Half) : Option Nat := if u.toNat < Config.unitCount then some u.toNat else none

/-- A handle number 0 to 7 (R95). -/
def handleOperand (h : Byte) : Option Nat := if h.toNat < Config.handleCount then some h.toNat else none

/-- A ticket: slot 0 to 11 and use count 0 to 15 (R125). -/
structure Ticket where
  slot : Nat
  useCount : BitVec 4
  deriving DecidableEq, Repr

/-- The ticket operand (R125). -/
def ticketOperand (slot useCount : Byte) : Option Ticket :=
  if slot.toNat < Config.slotCount ∧ useCount.toNat < 16 then some ⟨slot.toNat, useCount.setWidth 4⟩ else none

/-- A count from 1 to a limit. -/
def countOperand (limit : Nat) (n : Half) : Option Nat := if 1 ≤ n.toNat ∧ n.toNat ≤ limit then some n.toNat else none

/-- The placement of a CREATE of `count` units (R49, R52, R158). -/
def placementOperand (placement : Byte) (first : Half) (count : Nat) : Option Placement :=
  if placement = 0 then some .lowest
  else if placement = 1 then
    if first.toNat < Config.unitCount ∧ first.toNat + count ≤ Config.unitCount then some (.at first.toNat) else none
  else none

/-- The operands of CREATE. -/
structure CreateArgs where
  name : List Byte
  rights : Rights
  placement : Placement
  count : Nat
  deriving DecidableEq, Repr

/-- The parameter checks of CREATE (R52). -/
def createOperands (rights placement : Byte) (first count : Half) (name : List Byte) : Option CreateArgs := do
  let nm ← nameOperand name
  let r ← Rights.ofCode rights
  let n ← countOperand Config.unitCount count
  let pl ← placementOperand placement first n
  return ⟨nm, r, pl, n⟩

/-- The parameter checks of GROW: region reference and added count 1 to 1023 (R55). -/
def growOperands (number generation : Byte) (added : Half) : Option (RegionRef × Nat) := do
  let ref ← refOperand number generation
  let n ← countOperand 1023 added
  return (ref, n)

/-- The parameter checks of SHRINK: new count 1 to 1023 and override (R57). -/
def shrinkOperands (number generation : Byte) (newCount : Half) (override : Byte) : Option (RegionRef × Nat × Bool) := do
  let ref ← refOperand number generation
  let n ← countOperand 1023 newCount
  let o ← overrideOf override
  return (ref, n, o)

/-- The parameter checks of RETIRE and HOLD (R61, R73). -/
def overrideOperands (number generation override : Byte) : Option (RegionRef × Bool) := do
  let ref ← refOperand number generation
  let o ← overrideOf override
  return (ref, o)

/-- The parameter checks of GRANT (R70). -/
def grantOperands (number generation rights override : Byte) : Option (RegionRef × Rights × Bool) := do
  let ref ← refOperand number generation
  let r ← Rights.ofCode rights
  let o ← overrideOf override
  return (ref, r, o)

/-- How an OPEN finds its region (R89). -/
inductive Target where
  | name (name : List Byte)
  | reference (ref : RegionRef)
  deriving DecidableEq, Repr

/-- The selector operand (R89); a selector that is neither form answers BAD_PARAM (R148). -/
def selectorOperand : Selector → Option Target
  | .byName name => (nameOperand name).map .name
  | .byReference number generation => (refOperand number generation).map .reference
  | .other _ _ => none

/-- The parameter checks of OPEN (R89). -/
def openOperands (mode : Byte) (selector : Selector) : Option (Mode × Target) := do
  let m ← Mode.ofCode mode
  let t ← selectorOperand selector
  return (m, t)

/-- The operands of READ. -/
structure ReadArgs where
  handle : Nat
  offset : Nat
  length : Nat
  deriving DecidableEq, Repr

/-- The parameter checks of READ: length 1 to 4096; any offset passes (R106, R107). -/
def readOperands (handle : Byte) (offset : Word) (length : Half) : Option ReadArgs := do
  let h ← handleOperand handle
  let n ← countOperand 4096 length
  return ⟨h, offset.toNat, n⟩

/-- The operands of PROGRAM. -/
structure ProgramArgs where
  handle : Nat
  offset : Nat
  data : List Byte
  deriving DecidableEq, Repr

/-- The parameter checks of PROGRAM: 1 to 512 data bytes (R113; log 21). -/
def programOperands (handle : Byte) (offset : Word) (data : List Byte) : Option ProgramArgs := do
  let h ← handleOperand handle
  if 1 ≤ data.length ∧ data.length ≤ Config.pageSize then some ⟨h, offset.toNat, data⟩ else none

/-- The operands of ERASE. -/
structure EraseArgs where
  handle : Nat
  unitOffset : Nat
  count : Nat
  deriving DecidableEq, Repr

/-- The parameter checks of ERASE: unit offset at most 1023, count 1 to 1024 (R117). -/
def eraseOperands (handle : Byte) (unitOffset count : Half) : Option EraseArgs := do
  let h ← handleOperand handle
  let u ← unitOperand unitOffset
  let n ← countOperand 1024 count
  return ⟨h, u, n⟩

/-! ## Ranges -/

/-- READ, PROGRAM and ERASE ranges against the addressable extent (R106). -/
def readInRange (e : Extent) (a : ReadArgs) : Bool := decide (a.offset + a.length ≤ e.count * Config.unitSize)

/-- A PROGRAM's place: within the extent and within one page (R106). -/
def programInRange (e : Extent) (offset length : Nat) : Bool :=
  decide (offset + length ≤ e.count * Config.unitSize) &&
    decide (offset / Config.pageSize = (offset + length - 1) / Config.pageSize)

/-- An ERASE's unit range (R106). -/
def eraseInRange (e : Extent) (unitOffset count : Nat) : Bool := decide (unitOffset + count ≤ e.count)

/-- The array address of a region byte offset (R96). -/
def Extent.address (e : Extent) (offset : Nat) : Nat := unitBase e.first + offset

end Sys2Proof.Machine
end

