-- ==== Sys2Proof/Machine/Flags.lean ====
section
/-! DEFINITION. The flags: the attention output, the flags byte and frame of a response, the presence bytes of results,
and what a port drives on its data output (R146, R153, R159). -/

namespace Sys2Proof.Machine

/-- Whether a slot is a finished one of the port (R124, R153). -/
def Slot.finishedOf (p : Port) (x : Slot) : Bool := x.body.any fun b => b.port == some p && b.state.finished

/-- The attention output of a port, true while asserted: a finished slot of the port, or its stale-notice flag
(R153). -/
def State.attention (s : State) (p : Port) : Bool :=
  (s.port p).staleNotice || s.slots.any (Slot.finishedOf p)

/-- A byte from its bits, least significant first. -/
def bits (l : List Bool) : Byte := l.foldr (fun b acc => (acc <<< 1) ||| boolCode b) 0

/-- The flags byte: bit 0 INCOMPLETE_DATA, bit 1 ATTENTION, bit 2 REPLAYED (R146). -/
def Response.flags (r : Response) : Byte := bits [r.incompleteData, r.attention, r.replayed]

/-- The start byte of a response (R146). -/
abbrev startByte : Byte := 0x5A

/-- The bytes of a response, the start byte first (R146). -/
def Response.frame (r : Response) : List Byte :=
  let body := r.status.code :: r.tag :: r.flags :: halfOf r.result.length ++ r.result
  startByte :: body ++ [crc8 body]

/-- What a port drives on its data output: a repeated byte, or the bytes of a response (R144, R145, R146). -/
inductive DataOut where
  /-- No level that the manual gives: an IDLE port of a part out of reset, STARTING included (log 18). -/
  | notDriven
  | repeated (b : Byte)
  | frame (bytes : List Byte)
  deriving DecidableEq, Repr

/-- The data output of a port (R144 to R146). R144 has it drive 0x00 after power-on and in reset, and takes frames from
the release of RESET on: DESIGN CHOICE, 0x00 ends with the release, in STARTING too, and an IDLE port then drives
nothing the manual names, nor does a select period that was under way at the release (log 18). -/
def State.dataOut (s : State) (p : Port) : DataOut :=
  if s.device = .inReset then .repeated 0x00
  else match (s.port p).framing with
    | .idle => .notDriven
    | .receiving | .waiting _ | .executing _ => .repeated 0x00
    | .responding r => .frame r.frame
    | .finished => .repeated 0xFF

/-- The presence byte of a READ_RECORD result: name, extent, pending growth, owner and rights, freeze level, check
word (R159). -/
def RecordBody.presence (b : RecordBody) : Byte :=
  bits [b.ident.isSome, b.extent.isSome, b.growth.isSome, b.ident.isSome, b.ident.isSome,
    (match b.freeze with | .fixed (some _) => true | _ => false)]

/-- Whether a slot's kind keeps a suspension count (R123). -/
def Work.countsSuspensions : Work → Bool
  | .erase _ _ => true
  | _ => false

/-- The presence byte of a QUERY result: region reference, handle, arrival number, result code, value, comparison,
suspension count (R159). -/
def SlotBody.presence (b : SlotBody) : Byte :=
  bits [b.region.isSome, b.handle.isSome, b.arrival.isSome, b.state.result.isSome, b.value.isSome,
    b.comparison.isSome, b.work.countsSuspensions]

/-- The presence byte of a COLLECT result: bits 1, 2 and 6 always 0 (R159). -/
def SlotBody.collectPresence (b : SlotBody) : Byte :=
  bits [b.region.isSome, false, false, b.state.result.isSome, b.value.isSome, b.comparison.isSome, false]

end Sys2Proof.Machine
end

