-- ==== Sys2Proof/Machine/Replies.lean ====
section
/-! DEFINITION. Taking a request and answering it: the order of R148, the replay cache (R150, R151), the device states
(R155), the inhibit input (R152), and the framing states a request passes through (R144, R149). -/

namespace Sys2Proof.Machine

/-- What a block decides of a command: its status, its result, and the INCOMPLETE_DATA flag. -/
structure Reply where
  status : Status
  result : List Byte
  incompleteData : Bool
  deriving DecidableEq, Repr

/-- A refusal carries no result (R146). -/
def Reply.refusal (st : Status) : Reply := ⟨st, [], false⟩

/-- An OK answer. -/
def Reply.ok (result : List Byte) : Reply := ⟨.ok, result, false⟩

/-- The mutating commands (R150). -/
def isMutating : Cmd → Bool
  | .create | .grow | .shrink | .retire | .grant | .hold | .thaw | .fix | .verify | .format
  | .openHandle | .close | .program | .erase | .cancel | .collect => true
  | .identify | .status | .portReset | .unitInfo | .list | .lookup | .readRecord | .read | .query => false

/-- The control commands (00, "Terms"). -/
def isControl : Cmd → Bool
  | .create | .grow | .shrink | .retire | .grant | .hold | .thaw | .fix => true
  | _ => false

/-- The answer a device state gives a command before any block sees it; none where the command goes on (R155). In
reset no port takes a frame. -/
def Device.answer (d : Device) (c : Cmd) : Option Status :=
  match d with
  | .inReset | .starting => if c = .identify ∨ c = .status then none else some .notReady
  | .ready => if c = .format then some .wrongState else none
  | .degraded => if c = .format then some .wrongState else if isControl c then some .dirFault else none
  | .recovery =>
    if c ∈ [Cmd.identify, .status, .unitInfo, .portReset, .query, .collect, .format] then none else some .wrongState
  | .formatting =>
    if c ∈ [Cmd.identify, .status, .unitInfo, .portReset, .query, .collect] then none else some .wrongState

/-- The response that carries a reply, the ATTENTION flag showing the line as it stands (R146, R153). -/
def State.response (s : State) (p : Port) (tag : Byte) (r : Reply) : Response :=
  ⟨r.status, tag, false, s.attention p, r.incompleteData, r.result⟩

/-- A decided command's response placed in the replay cache in place of the entry before, if the command is mutating,
its tag is not 0 and the cache takes entries (R150). -/
def PortState.keep (q : PortState) (takes : Bool) (cmd : Cmd) (tag : Byte) (r : Response) : PortState :=
  { q with cache := if isMutating cmd = true ∧ tag ≠ 0 ∧ takes = true then some ⟨cmd, tag, r⟩ else q.cache }

/-- A response goes out: the port enters RESPONDING; if the command's select period has ended, the response is lost
and the undecided command is emptied (R144). -/
def PortState.deliver (q : PortState) (r : Response) : PortState :=
  if q.undecided.isSome then { q with undecided := none } else { q with framing := .responding r }

/-- Whether a replay cache takes entries in a device state (R150): in STARTING too, where NOT_READY is given. In reset
the cache is lost (R161). -/
def Device.caches : Device → Bool
  | .inReset => false
  | .starting | .ready | .degraded | .recovery | .formatting => true

/-- The port with a decided command's response in its cache (R148, R150). -/
def State.kept (s : State) (p : Port) (cmd : Cmd) (tag : Byte) (r : Response) : PortState :=
  (s.port p).keep s.device.caches cmd tag r

/-- A command of a port is decided: its response is cached and sent or lost (R144, R146, R150). -/
def State.finish (p : Port) (cmd : Cmd) (tag : Byte) (r : Reply) (s : State) : State :=
  s.setPort p ((s.kept p cmd tag (s.response p tag r)).deliver (s.response p tag r))

/-- A FRAME_ERROR or UNKNOWN_COMMAND answer: sent, and the replay cache stays as it was (R150). -/
def State.answerFrame (s : State) (p : Port) (tag : Byte) (st : Status) : State :=
  s.setPort p ((s.port p).deliver (s.response p tag (.refusal st)))

/-- The cached response that a request matches (R151). -/
def State.replay (s : State) (p : Port) (cmd : Cmd) (tag : Byte) : Option Response :=
  match (s.port p).cache with
  | some e => if isMutating cmd = true ∧ tag ≠ 0 ∧ e.cmd = cmd ∧ e.tag = tag then some e.response else none
  | none => none

/-- The cached response sent again with REPLAYED set and the ATTENTION flag as the line stands now (R151). -/
def State.sendReplay (s : State) (p : Port) (r : Response) : State :=
  s.setPort p { s.port p with framing := .responding { r with replayed := true, attention := s.attention p } }

/-- Steps 3 to 8 of R148 for a request whose length fits: replay, parameter values (`args` is none where one is out of
range), device state, inhibit (`heldBack` for the commands R152 lists), and the block's own decision. A block that
gives no reply leaves the command undecided, and the port EXECUTING (R149). -/
def State.take {α : Type} (req : Instr) (p : Port) (cmd : Cmd) (tag : Byte) (args : Option α) (heldBack : α → Bool)
    (block : α → State → State × Option Reply) (s : State) : State :=
  match s.replay p cmd tag with
  | some r => s.sendReplay p r
  | none =>
    match args with
    | none => s.finish p cmd tag (.refusal .badParam)
    | some a =>
      match s.device.answer cmd with
      | some st => s.finish p cmd tag (.refusal st)
      | none =>
        if heldBack a && (s.port p).inhibit then s.finish p cmd tag (.refusal .inhibited)
        else
          match block a s with
          | (t, some r) => t.finish p cmd tag r
          | (t, none) => t.setPort p { t.port p with framing := .executing req }

/-- A request frame is complete at a port: taken if no earlier command of the port is undecided, else it waits in
WAITING (R144, R149). A port that is not RECEIVING receives no frame: nothing happens (log 22). -/
def State.arrive (req : Instr) (p : Port) (take : State → State) (s : State) : State :=
  match (s.port p).framing with
  | .receiving =>
    if s.device = .inReset then s
    else if (s.port p).undecided.isSome then s.setPort p { s.port p with framing := .waiting req }
    else take s
  | _ => s

/-- A block's decision that changes nothing but what it answers. -/
def refuse (st : Status) (s : State) : State × Option Reply := (s, some (.refusal st))

end Sys2Proof.Machine
end

