-- ==== Sys2Proof/Machine/Sched.lean ====
section
/-! DEFINITION. The array scheduler: reads, the start of slots, scrub, the offers of the free array, suspension and
resume, and the ends of the array's work (R65 to R67, R115 to R121, R134 to R142, R171, R172). -/

namespace Sys2Proof.Machine

/-! ## Reads -/

/-- A READ performed whole: its bytes in offset order and the INCOMPLETE_DATA flag (R5, R108, R110). -/
def State.readReply (s : State) (w : ReadWait) : Reply :=
  ⟨.ok, s.array.bytes w.address w.length, s.array.touchesIncomplete w.address w.length⟩

/-- A waiting READ is served (R109). -/
def State.serve (s : State) (w : ReadWait) : State := s.finish w.port .read w.tag (s.readReply w)

/-- Every READ that waits is served, in the order they began waiting (R136 step 1). -/
def State.serveAll (s : State) : State :=
  { (s.sched.waiters.foldl State.serve s) with
    sched := { (s.sched.waiters.foldl State.serve s).sched with waiters := [] } }

/-! ## Starts on the array -/

/-- A unit erase is started: header and map entry written, and the erase is the current activity (R10). -/
def State.startErase (s : State) (owner : EraseOwner) (u : Nat) : State :=
  { s with
    array := s.array.eraseStart u
    sched := { s.sched with activity := .erase owner ⟨u, s.array.header u, false, false, 0, false, false⟩ } }

/-- A unit of an ERASE slot is started, or refused at once with WORN, which ends the slot and frees the array (R10, R119,
R120). The suspension count returns to 0 at each unit's start (R119, R141); whether a unit that is refused starts is not
said: DESIGN CHOICE, it does not, and the count of the unit before stays (log 32). -/
def State.eraseUnit (s : State) (n u : Nat) : State :=
  if s.array.atLimit u then (s.endSlot n (.doneFail .worn)).setActivity .idle
  else (s.mapSlot n fun b => { b with suspensions := 0 }).startErase (.slot n) u

/-- The start checks of a PROGRAM or ERASE slot: its handle entry is OPEN with its region reference, and its place
lies in the addressable extent (R115). -/
def State.startChecks (s : State) (b : SlotBody) : Bool :=
  match b.port, b.handle, b.region with
  | some p, some h, some ref =>
    (s.handle p h).openWith (fun i => i.region == ref) &&
      (match b.work with
       | .program o d => programInRange (s.dir.extentOf ref.number) o d.length
       | .erase u c => eraseInRange (s.dir.extentOf ref.number) u c
       | _ => true)
  | _, _, _ => false

/-- A page program is started, or ended at once where the map holds its unit INCOMPLETE (R7, R116). -/
def State.startProgram (s : State) (n address : Nat) : State :=
  if (s.array.facts (address / Config.unitSize)).condition = .incomplete then s.endSlot n (.doneFail .unitIncomplete)
  else s.setActivity (.program n address)

/-- A slot becomes RUNNING (R137). -/
def State.runSlot (s : State) (n : Nat) : State := s.mapSlot n fun b => { b with state := .running }

/-- The slot at the head of the queue is started by its kind (R116, R119, R137). The array stays free where the slot
ends at once: a program of an INCOMPLETE unit, an erase of a unit at the limit. The laws of R115 make the start
checks hold; in a state that breaks them the slot ends CANCELLED with cause STALE (log 23). -/
def State.startSlot (s : State) (n : Nat) : State :=
  match (s.slot n).body with
  | none => s
  | some b =>
    match b.work with
    | .program o _ =>
      if s.startChecks b then (s.runSlot n).startProgram n ((s.dir.extentOf b.regionNumber).address o)
      else s.endSlot n (.cancelled .stale)
    | .erase u _ =>
      if s.startChecks b then (s.runSlot n).eraseUnit n ((s.dir.extentOf b.regionNumber).first + u)
      else s.endSlot n (.cancelled .stale)
    | .verify | .fix =>
      (s.runSlot n).setActivity (.scan ⟨n, s.dir.extentOf b.regionNumber, 0, crc32Start, none⟩)
    | _ => s

/-! ## Scrub -/

/-- The extent scrub works on: the eligible one added first (R65). -/
def Directory.eligible (d : Directory) : Option Nat := d.scrub.findIdx? (·.eligible)

/-- The extent at a position of the scrub list. -/
def Directory.scrubAt (d : Directory) (i : Nat) : ScrubExtent := d.scrub.getD i ⟨⟨0, 0⟩, 0, false⟩

/-- The unit of an extent that scrub comes to next (R65). -/
def ScrubExtent.next (e : ScrubExtent) : Nat := e.extent.first + e.progress

/-- Whether an extent's progress has reached its count (R67). -/
def ScrubExtent.complete (e : ScrubExtent) : Bool := decide (e.extent.count ≤ e.progress)

/-- One unit's scrub has ended: progress advances (R64). -/
def Directory.advance (d : Directory) (i : Nat) : Directory :=
  { d with scrub := d.scrub.modify i fun e => { e with progress := e.progress + 1 } }

/-- A unit joins the withdrawn set (R47). -/
def Directory.withdraw (d : Directory) (u : Nat) : Directory := { d with withdrawn := unitInsert u d.withdrawn }

/-- Progress advances; with `withdrawn` the unit joins the withdrawn set and the dirty flag is set (R65, R66). -/
def State.scrubbed (s : State) (i u : Nat) (withdrawn : Bool) : State :=
  if withdrawn then State.markDirty { s with dir := (s.dir.advance i).withdraw u }
  else { s with dir := s.dir.advance i }

/-- A complete extent leaves the list and the dirty flag is set (R67). -/
def State.removeComplete (s : State) (i : Nat) : State :=
  if (s.dir.scrubAt i).complete
  then State.markDirty { s with dir := { s.dir with scrub := s.dir.scrub.eraseIdx i } }
  else s

/-- The array offered to scrub: units that are withdrawn or at the limit are passed over or withdrawn without the
array, complete extents leave the list, and the first unit to erase is started (R65, R67, R138). `fuel` bounds the
units and extents met (`scrubFuel`). -/
def State.offerScrub : Nat → State → State
  | 0, s => s
  | fuel + 1, s =>
    match s.dir.eligible with
    | none => s
    | some i =>
      if (s.dir.scrubAt i).complete then State.offerScrub fuel (s.removeComplete i)
      else if s.dir.withdrawn.contains (s.dir.scrubAt i).next
      then State.offerScrub fuel ((s.scrubbed i (s.dir.scrubAt i).next false).removeComplete i)
      else if s.array.atLimit (s.dir.scrubAt i).next
      then State.offerScrub fuel ((s.scrubbed i (s.dir.scrubAt i).next true).removeComplete i)
      else s.startErase .scrub (s.dir.scrubAt i).next

/-- More steps than an offer to scrub can take: one for each unit and each extent of the list. -/
def State.scrubFuel (s : State) : Nat := (s.dir.scrub.map fun e => e.extent.count + 1).sum + 1

/-! ## Offers -/

/-- The queue's slots are started from its head until one holds the array; with none left, scrub is offered the array
(R136 steps 3 and 4). -/
def State.offerQueue : List Nat → State → State
  | [], s => State.offerScrub s.scrubFuel s
  | n :: rest, s =>
    let t := State.startSlot { s with sched := { s.sched with queue := rest } } n
    if t.sched.activity = .idle then State.offerQueue rest t else t

/-- The array, if it is free and the part has a directory in service, makes an offer: waiting READs, then the queue,
then scrub (R136). -/
def State.offer (s : State) : State :=
  if s.sched.activity = .idle ∧ s.loaded = true then State.offerQueue s.serveAll.sched.queue s.serveAll else s

/-- The array becomes free and makes an offer (R136). -/
def State.freeArray (s : State) : State := (s.setActivity .idle).offer

/-! ## Suspension -/

/-- The scheduler asks the array to suspend a running erase. The array stops it where it stands, or, if the erase has
begun writing its mark, does not act (R12, R140; log 10). A unit that has used its budget is not suspended (R141). -/
def State.askSuspend (s : State) (owner : EraseOwner) (run : EraseRun) : State :=
  if run.markWriting || decide (Config.suspensionBudget ≤ run.suspensions) then s
  else if Config.suspendInTime s.draws then
    let t := s.drawn.setActivity (.erase owner { run with settled := true, suspended := true })
    match owner with
    | .slot n => t.mapSlot n fun b => { b with state := .suspended }
    | _ => t
  else s.drawn.setActivity (.erase owner { run with settled := true, markWriting := true })

/-- The suspended erase is resumed: the unit's suspension count advances, the slice begins again, an ERASE slot is
RUNNING (R141). -/
def State.resume (s : State) (owner : EraseOwner) (run : EraseRun) : State :=
  let t := s.setActivity (.erase owner
    { run with suspended := false, suspensions := run.suspensions + 1, sliceDone := false })
  match owner with
  | .slot n => t.mapSlot n fun b => { b with state := .running, suspensions := run.suspensions + 1 }
  | _ => t

/-- An ERASE slot between two units goes on: its next unit is started, or refused, and an array that this frees makes
its offer (R119, R120, R136 step 2). -/
def State.nextUnit (s : State) (n u : Nat) : State := (s.eraseUnit n u).offer

/-- The pause of an erase, a suspension or the time between two units, runs to its end: every waiting READ is served,
then the erase is resumed, or the next unit started (R119, R141). Nothing else. -/
def State.endPause (s : State) : State :=
  match s.sched.activity with
  | .erase owner run => if run.suspended then s.serveAll.resume owner run else s
  | .between n u => s.serveAll.nextUnit n u
  | _ => s

/-- What the part does on its own while no command waits: in a pause of an erase the READ that began waiting first is
served, or, when none waits, a suspended erase is resumed and an ERASE slot between units goes on (R119, R141; log 2).
In every other state it idles. -/
def State.background (s : State) : State :=
  match s.sched.activity, s.sched.waiters with
  | .erase owner run, [] => if run.suspended then s.resume owner run else s
  | .erase _ run, w :: rest => if run.suspended then State.serve { s with sched := { s.sched with waiters := rest } } w else s
  | .between n u, [] => s.nextUnit n u
  | .between _ _, w :: rest => State.serve { s with sched := { s.sched with waiters := rest } } w
  | _, _ => s

/-- A READ joins the end of the waiters (R139). -/
def State.await (s : State) (w : ReadWait) : State :=
  { s with sched := { s.sched with waiters := s.sched.waiters ++ [w] } }

/-- The read path decides a READ by the current activity (R139, R140). R109 has a READ performed at once while the array
runs a scan, R139 has it wait for the step in progress to end: DEDUCED, it waits, as R139 says (log 34). -/
def State.readPath (w : ReadWait) (s : State) : State × Option Reply :=
  match s.sched.activity with
  | .idle => (s, some (s.readReply w))
  | .program _ _ | .between _ _ | .scan _ | .mark _ => (s.await w, none)
  | .erase owner run =>
    if (touchedUnits w.address w.length).contains run.unit then refuse .erasing s
    else if run.suspended then (s.await w, none)
    else if Config.suspensionBudget ≤ run.suspensions then refuse .arrayBusy s
    else if run.sliceDone then ((s.await w).askSuspend owner run, none)
    else (s.await w, none)

/-! ## The ends of array work -/

/-- The end of a page program: the AND everywhere on success, byte by byte a free choice on ARRAY_FAULT; the slot ends
and the array is free (R6, R8, R116). -/
def State.endProgram (s : State) (report : ArrayEnd) : State :=
  match s.sched.activity with
  | .program n address =>
    let data : List Byte := match s.slotWork n with
      | some (.program _ d) => d
      | _ => []
    match report with
    | .success =>
      let t := { s with array := s.array.programBytes (fun _ => true) address data }
      ((t.mapSlot n fun b => { b with progress := 1 }).endSlot n .doneOk).freeArray
    | .arrayFault =>
      let t := { s with array := s.array.programBytes (Config.programLanded s.draws) address data }.drawn
      (t.endSlot n (.doneFail .arrayFault)).freeArray
  | _ => s

/-- The array's content after a unit erase has ended: all 1 and the mark present on success; on ARRAY_FAULT each bit
as it was or turned to 1, all at 1 where the mark was being written, the mark absent (R11, R14). -/
def State.eraseContent (s : State) (run : EraseRun) (report : ArrayEnd) : State :=
  match report with
  | .success => { s with array := s.array.eraseDone run.unit }
  | .arrayFault => { s with array := s.array.stopErase run (Config.eraseSets s.draws) }.drawn

/-- A unit joins FORMAT's withdrawn set (R171). -/
def State.formatWithdraw (s : State) (u : Nat) : State :=
  { s with formatWithdrawn := unitInsert u s.formatWithdrawn }

/-- The FORMAT pass has dealt with unit 1023: the array is free and the writer is handed the new image, or enters FAULT
where no sequence number is left (R172). -/
def State.formatWrite (s : State) : State :=
  let t := s.setActivity .idle
  if s.store.highest = some Config.lastSequence then t.writerFault
  else
    let sequence : Word := match s.store.highest with
      | some h => h + 1
      | none => 1
    let image : Image :=
      Image.sealed ⟨sequence, List.replicate Config.recordCount ⟨0, none⟩, [], s.formatWithdrawn, 0⟩
    { t with store := { t.store with writer := .writing ⟨image, .copy0, 1, t.dir.records, true⟩ } }

/-- The FORMAT pass goes on with the last `left` units: a unit that is fixed-marked or at the limit is withdrawn
unerased, any other is erased (R171). -/
def State.formatPass (n : Nat) : Nat → State → State
  | 0, s => s.formatWrite
  | left + 1, s =>
    let u := Config.unitCount - (left + 1)
    if (s.array.facts u).fixedMark || s.array.atLimit u
    then State.formatPass n left ((s.formatWithdraw u).mapSlot n fun b => { b with progress := b.progress + 1 })
    else s.startErase (.format n) u

/-- A unit erase of the FORMAT pass has ended (R171): the unit is withdrawn if the erase faulted or reached the limit,
progress advances, and the pass goes on. -/
def State.formatUnitEnd (s : State) (n u : Nat) (report : ArrayEnd) : State :=
  let t := if report = .arrayFault ∨ s.array.atLimit u = true then s.formatWithdraw u else s
  State.formatPass n (Config.unitCount - (u + 1)) (t.mapSlot n fun b => { b with progress := b.progress + 1 })

/-- A scrub erase has ended (R66, R67): progress advances, the unit is withdrawn if it is WORN or the erase faulted, a
complete extent leaves the list, and the array is free. -/
def State.scrubUnitEnd (s : State) (u : Nat) (report : ArrayEnd) : State :=
  match s.dir.eligible with
  | none => s.freeArray
  | some i =>
    (((s.setActivity .idle).scrubbed i u (decide (report = .arrayFault) || s.array.atLimit u)).removeComplete i).freeArray

/-- A unit erase of an ERASE slot has ended (R119, R120): on success the waiting READs are served and the slot stands
between two units, or ends DONE_OK after the last; on ARRAY_FAULT it ends. -/
def State.slotUnitEnd (s : State) (n u : Nat) (report : ArrayEnd) : State :=
  match report with
  | .arrayFault => (s.endSlot n (.doneFail .arrayFault)).freeArray
  | .success =>
    let t := s.mapSlot n fun b => { b with progress := b.progress + 1 }
    let left : Bool := match (t.slot n).body with
      | some b => match b.work with
        | .erase _ c => decide (b.progress < c)
        | _ => false
      | none => false
    if left then t.serveAll.setActivity (.between n (u + 1)) else (t.endSlot n .doneOk).freeArray

/-- The end of a unit erase, taken by its owner (R11, R14, R66, R120, R171). An erase that ends is running: a pause still
standing has run to its end first (log 2). -/
def State.endErase (s : State) (report : ArrayEnd) : State :=
  match s.endPause.sched.activity with
  | .erase owner run =>
    let t := s.endPause.eraseContent run report
    match owner with
    | .slot n => t.slotUnitEnd n run.unit report
    | .scrub => t.scrubUnitEnd run.unit report
    | .format n => t.formatUnitEnd n run.unit report
  | _ => s

/-- Whether some unit of an extent carries its fixed mark in the map (R80, R166). -/
def ArrayState.anyMarked (a : ArrayState) (e : Extent) : Bool :=
  (List.range e.count).any fun i => (a.facts (e.first + i)).fixedMark

/-- The last mark write of a FIX ended with success: the slot enters WAIT_DIR and the dirty flag is set, or, while the
writer is in FAULT, the slot ends DONE_FAIL with DIR_FAULT (R37, R79). -/
def State.fixMarked (s : State) (n : Nat) : State :=
  if s.store.writer = .fault
  then ({ s with store := { s.store with dirty := true } }.endSlot n (.doneFail .dirFault)).freeArray
  else ((s.mapSlot n fun b => { b with state := .waitDir none }).setActivity .idle).markDirty.freeArray

/-- A faulted mark write stops the fix: FIXED without a check word, or HELD where no unit carries its mark (R80). -/
def State.fixFault (s : State) (n region : Nat) (e : Extent) : State :=
  let t := (s.endSlot n (.doneFail .arrayFault)).setActivity .idle
  if s.array.anyMarked e then (t.setFreeze region (.fixed none)).markDirty.freeArray
  else (t.setFreeze region .held).freeArray

/-- The end of a fixed-mark write (R15, R79, R80). -/
def State.endMark (s : State) (report : ArrayEnd) : State :=
  match s.sched.activity with
  | .mark run =>
    let u := run.extent.first + run.done
    match report with
    | .success =>
      let t := { s with array := s.array.markUnit u }.mapSlot run.slot fun b => { b with progress := b.progress + 1 }
      if run.done + 1 < run.extent.count
      then t.serveAll.setActivity (.mark { run with done := run.done + 1 })
      else t.fixMarked run.slot
    | .arrayFault =>
      let t := (if Config.markLanded s.draws then { s with array := s.array.markUnit u } else s).drawn
      t.fixFault run.slot (t.slotRegion run.slot) run.extent
  | _ => s

/-- The comparison of a VERIFY with the record's check word as it stands (R84). -/
def State.compareWord (s : State) (region : Nat) (value : Word) : Comparison :=
  match ((s.dir.record region).body).freeze with
  | .fixed (some w) => if w = value then .isMatch else .isMismatch
  | _ => .noReference

/-- Answers the CANCEL that waits for a scan step, with the slot's state after it (R131). -/
def State.answerCancel (s : State) (cancel : Option (Port × Byte)) (st : Status) (slotState : SlotState) : State :=
  match cancel with
  | some (p, tag) => s.finish p .cancel tag ⟨st, [slotState.code], false⟩
  | none => s

/-- The last scan step of a VERIFY has ended: DONE_OK with value and comparison; a CANCEL that waited is TOO_LATE
(R84, R132). -/
def State.verifyDone (s : State) (run : ScanRun) (value : Word) : State :=
  let c := s.compareWord (s.slotRegion run.slot) value
  let t := (s.mapSlot run.slot fun b => { b with value := some value, comparison := some c }).endSlot run.slot .doneOk
  (t.answerCancel run.cancel .tooLate .doneOk).freeArray

/-- A CANCEL of a RUNNING VERIFY acts at the step boundary (R84, R131). -/
def State.verifyCancelled (s : State) (run : ScanRun) : State :=
  ((s.endSlot run.slot (.cancelled .host)).answerCancel run.cancel .ok (.cancelled .host)).freeArray

/-- The last scan step of a FIX has ended: the check word is held and the mark phase begins, after the waiting READs
(R78, R79). -/
def State.beginMarks (s : State) (run : ScanRun) (value : Word) : State :=
  (s.mapSlot run.slot fun b => { b with value := some value }).serveAll.setActivity (.mark ⟨run.slot, run.extent, 0⟩)

/-- The end of a scan step (R16, R78, R84). -/
def State.endScan (s : State) : State :=
  match s.sched.activity with
  | .scan run =>
    let crc := crc32Feed run.crc (s.array.bytes (unitBase (run.extent.first + run.done)) Config.unitSize)
    let t := s.mapSlot run.slot fun b => { b with progress := b.progress + 1 }
    if run.done + 1 < run.extent.count then
      if run.cancel.isSome then t.verifyCancelled run
      else t.serveAll.setActivity (.scan { run with done := run.done + 1, crc := crc })
    else
      match s.slotWork run.slot with
      | some .fix => t.beginMarks run (crc32Value crc)
      | _ => t.verifyDone run (crc32Value crc)
  | _ => s

/-- 1 ms of running time has passed since an erase's start or last resume: a waiting READ has it suspended, and a READ
that comes later asks at once (R140). A pause still standing has run to its end first (log 2). -/
def State.endSlice (s : State) : State :=
  match s.endPause.sched.activity with
  | .erase owner run =>
    let run1 := { run with sliceDone := true, settled := true }
    let t := s.endPause.setActivity (.erase owner run1)
    if t.sched.waiters = [] then t else t.askSuspend owner run1
  | _ => s

end Sys2Proof.Machine
end

