-- ==== Sys2Proof/Machine/ArrayEvents.lean ====
section
/-! DEFINITION. The events of the array: the ends of programs, erases, mark writes and scan steps, their timeouts, and
the run slice (R6 to R16, R116 to R120, R140). Where the array does no such work, nothing happens (log 22). -/

namespace Sys2Proof.Machine

/-- The meaning of PROGRAM_END (R116). -/
def execProgramEnd (report : ArrayEnd) (s : State) : Host.Outcome State Fault Refusal := .next (s.endProgram report)

/-- The meaning of PROGRAM_TIMEOUT: 3 ms have passed, ARRAY_FAULT (R8). -/
def execProgramTimeout (s : State) : Host.Outcome State Fault Refusal := .next (s.endProgram .arrayFault)

/-- The meaning of ERASE_END (R11). -/
def execEraseEnd (report : ArrayEnd) (s : State) : Host.Outcome State Fault Refusal := .next (s.endErase report)

/-- The meaning of ERASE_TIMEOUT: 300 ms of running time have passed, ARRAY_FAULT (R14). -/
def execEraseTimeout (s : State) : Host.Outcome State Fault Refusal := .next (s.endErase .arrayFault)

/-- The meaning of MARK_WRITE_END (R15). -/
def execMarkWriteEnd (report : ArrayEnd) (s : State) : Host.Outcome State Fault Refusal := .next (s.endMark report)

/-- The meaning of MARK_WRITE_TIMEOUT: 0.5 ms have passed, ARRAY_FAULT (R15). -/
def execMarkWriteTimeout (s : State) : Host.Outcome State Fault Refusal := .next (s.endMark .arrayFault)

/-- The meaning of SCAN_STEP_END (R16). -/
def execScanStepEnd (s : State) : Host.Outcome State Fault Refusal := .next s.endScan

/-- The meaning of RUN_SLICE_EXPIRY (R140). -/
def execRunSliceExpiry (s : State) : Host.Outcome State Fault Refusal := .next s.endSlice

end Sys2Proof.Machine
end

