-- ==== Sys2Proof/Machine/Control.lean ====
section
/-! DEFINITION. The control commands: CREATE, GROW, SHRINK, RETIRE, GRANT, HOLD, THAW and FIX (R51 to R63, R70 to R77),
and FORMAT (R170). -/

namespace Sys2Proof.Machine

/-! ## What they share -/

/-- The ticket of a slot: its number and use count (R125). -/
def State.ticket (s : State) (n : Nat) : List Byte := [byteOf n, (s.slot n).useCount.setWidth 8]

/-- The common head: the reference resolves, the record is ACTIVE, the issuing port owns it (R51). -/
def State.ownerHead (s : State) (p : Port) (ref : RegionRef) : Except Status Region :=
  match s.dir.resolve ref with
  | none => .error .noSuchRegion
  | some (.active r) => if r.ident.owner = p then .ok r else .error .notOwner
  | some _ => .error .notActive

/-- An owner-only region command: the head, the command's own checks, the slot check, and at acceptance its changes
with the slot it takes; the response carries the ticket (R51). -/
def State.ownerCommand (p : Port) (ref : RegionRef) (checks : Region → Option Status)
    (accept : Region → Nat → State → State) (s : State) : State × Option Reply :=
  match s.ownerHead p ref with
  | .error st => refuse st s
  | .ok r =>
    match checks r with
    | some st => refuse st s
    | none =>
      match s.slotCheck p with
      | .error st => refuse st s
      | .ok n => (accept r n s, some (.ok (s.ticket n)))

/-- A control slot enters WAIT_DIR and the dirty flag is set (R35, R51). -/
def State.waitDirectory (s : State) (p : Port) (work : Work) (ref : RegionRef) (n : Nat) : State :=
  (s.fillSlot n (.fresh p work (.waitDir none) none (some ref) none)).markDirty

/-- The first of a command's checks that fails (R51). -/
def firstOf (checks : List (Bool × Status)) : Option Status := (checks.find? (·.1)).map (·.2)

/-- Units added to the end of the scrub list as an extent that is not eligible (R59, R63, R64). -/
def Directory.addScrub (d : Directory) (e : Extent) : Directory := { d with scrub := d.scrub ++ [⟨e, 0, false⟩] }

/-- Whether a slot belongs to a region. -/
def SlotBody.ofRegion (ref : RegionRef) (b : SlotBody) : Bool := b.region == some ref

/-! ## CREATE -/

/-- The response of an accepted CREATE: ticket and region reference (R53). -/
def State.createResult (s : State) (slot record : Nat) : List Byte :=
  s.ticket slot ++ [byteOf record, (s.dir.record record).generation]

/-- CREATE accepted: the record becomes PENDING with the run, the slot enters WAIT_DIR (R53). -/
def State.acceptCreate (s : State) (p : Port) (a : CreateArgs) (record first slot : Nat) : State :=
  let ref : RegionRef := ⟨record, (s.dir.record record).generation⟩
  let t := { s with dir := s.dir.setBody record (.pending ⟨a.name, p, a.rights⟩ ⟨first, a.count⟩) }
  t.waitDirectory p .create ref slot

/-- CREATE's checks in order, and its acceptance (R50, R52, R53). -/
def createBlock (p : Port) (a : CreateArgs) (s : State) : State × Option Reply :=
  if (s.dir.findName a.name).isSome then refuse .nameTaken s
  else
    match s.dir.lowestFree with
    | none => refuse .dirFull s
    | some record =>
      match allocate s.available a.placement a.count with
      | none =>
        match allocate s.hoped a.placement a.count with
        | some _ => refuse .spacePending s
        | none => refuse .noSpace s
      | some first =>
        match s.slotCheck p with
        | .error st => refuse st s
        | .ok n => (s.acceptCreate p a record first n, some (.ok (s.createResult n record)))

/-- CREATE taken (R52). -/
def takeCreate (p : Port) (tag rights placement : Byte) (first count : Half) (name : List Byte) (s : State) : State :=
  s.take (.create p tag rights placement first count name) p .create tag
    (createOperands rights placement first count name) (fun _ => true) (createBlock p)

/-- The meaning of CREATE (R53). -/
def execCreate (p : Port) (tag rights placement : Byte) (first count : Half) (name : List Byte) (s : State) :
    Host.Outcome State Fault Refusal :=
  .next (s.arrive (.create p tag rights placement first count name) p
    (takeCreate p tag rights placement first count name))

/-! ## GROW -/

/-- GROW's own checks (R55). -/
def growChecks (s : State) (added : Nat) (r : Region) : Option Status :=
  firstOf [(r.freeze != .openLevel, .frozen), (r.growth.isSome, .inUse),
    (!runFits s.available (r.extent.first + r.extent.count) added, .noRoom)]

/-- GROW accepted: the units become pending growth (R56). -/
def State.acceptGrow (p : Port) (ref : RegionRef) (added : Nat) (_r : Region) (n : Nat) (s : State) : State :=
  State.waitDirectory { s with dir := s.dir.mapRegion ref.number fun r => { r with growth := some added } } p .grow ref n

/-- GROW taken (R55). -/
def takeGrow (p : Port) (tag region generation : Byte) (added : Half) (s : State) : State :=
  s.take (.grow p tag region generation added) p .grow tag (growOperands region generation added) (fun _ => true)
    fun a s => s.ownerCommand p a.1 (growChecks s a.2) (State.acceptGrow p a.1 a.2)

/-- The meaning of GROW (R56). -/
def execGrow (p : Port) (tag region generation : Byte) (added : Half) (s : State) : Host.Outcome State Fault Refusal :=
  .next (s.arrive (.grow p tag region generation added) p (takeGrow p tag region generation added))

/-! ## SHRINK -/

/-- Whether a slot's work reaches a unit from the new count onward (R58). -/
def SlotBody.touchesTail (ref : RegionRef) (newCount : Nat) (b : SlotBody) : Bool :=
  b.ofRegion ref &&
    (match b.work with
     | .program o _ => decide (newCount ≤ o / Config.unitSize)
     | .erase u c => decide (newCount < u + c)
     | .verify => true
     | _ => false)

/-- SHRINK's own checks (R57). -/
def shrinkChecks (s : State) (ref : RegionRef) (newCount : Nat) (override : Bool) (r : Region) : Option Status :=
  firstOf [(decide (r.extent.count ≤ newCount), .range), (r.freeze != .openLevel, .frozen), (r.growth.isSome, .inUse),
    (s.anySlot (fun b => b.touchesTail ref newCount && b.state.onArray), .inUse),
    (!override && s.anySlot (fun b => b.touchesTail ref newCount && b.state == .queued), .inUse),
    (decide (Config.scrubDepth ≤ s.dir.scrub.length), .scrubFull)]

/-- The record's count shortened and the tail added to the scrub list (R59). -/
def Directory.shrink (d : Directory) (n newCount : Nat) (e : Extent) : Directory :=
  (d.mapRegion n fun r => { r with extent := ⟨r.extent.first, newCount⟩ }).addScrub
    ⟨e.first + newCount, e.count - newCount⟩

/-- SHRINK accepted (R59). -/
def State.acceptShrink (p : Port) (ref : RegionRef) (newCount : Nat) (override : Bool) (r : Region) (n : Nat)
    (s : State) : State :=
  let t := if override then s.cancelQueued (fun b => b.touchesTail ref newCount) .stale else s
  State.waitDirectory { t with dir := t.dir.shrink ref.number newCount r.extent } p .shrink ref n

/-- SHRINK taken (R57). -/
def takeShrink (p : Port) (tag region generation : Byte) (newCount : Half) (override : Byte) (s : State) : State :=
  s.take (.shrink p tag region generation newCount override) p .shrink tag
    (shrinkOperands region generation newCount override) (fun _ => true) fun a s =>
    s.ownerCommand p a.1 (shrinkChecks s a.1 a.2.1 a.2.2) (State.acceptShrink p a.1 a.2.1 a.2.2)

/-- The meaning of SHRINK (R59). -/
def execShrink (p : Port) (tag region generation : Byte) (newCount : Half) (override : Byte) (s : State) :
    Host.Outcome State Fault Refusal :=
  .next (s.arrive (.shrink p tag region generation newCount override) p
    (takeShrink p tag region generation newCount override))

/-! ## RETIRE -/

/-- PROGRAM, ERASE and VERIFY work. -/
def Work.ofHandle : Work → Bool
  | .program _ _ | .erase _ _ | .verify => true
  | _ => false

/-- The OPEN handles of either port on a region (R62). -/
def onRegion (ref : RegionRef) (_p : Port) (i : HandleInfo) : Bool := i.region == ref

/-- RETIRE's own checks (R61). -/
def retireChecks (s : State) (ref : RegionRef) (override : Bool) (r : Region) : Option Status :=
  firstOf [(r.freeze != .openLevel, .frozen), (r.growth.isSome, .inUse),
    (s.anySlot (fun b => b.ofRegion ref && b.work.ofHandle && b.state.onArray), .inUse),
    (!override && s.anyOpen (onRegion ref), .inUse),
    (decide (Config.scrubDepth ≤ s.dir.scrub.length), .scrubFull)]

/-- The record made RETIRING and its recorded extent added to the scrub list (R63). -/
def Directory.retire (d : Directory) (n : Nat) (r : Region) : Directory :=
  (d.setBody n (.retiring r.ident)).addScrub r.extent

/-- RETIRE accepted, after the effects of any override (R62, R63). -/
def State.acceptRetire (p : Port) (ref : RegionRef) (override : Bool) (r : Region) (n : Nat) (s : State) : State :=
  let t := if override then s.invalidate (onRegion ref) else s
  State.waitDirectory { t with dir := t.dir.retire ref.number r } p .retire ref n

/-- RETIRE taken (R61). -/
def takeRetire (p : Port) (tag region generation override : Byte) (s : State) : State :=
  s.take (.retire p tag region generation override) p .retire tag (overrideOperands region generation override)
    (fun _ => true) fun a s => s.ownerCommand p a.1 (retireChecks s a.1 a.2) (State.acceptRetire p a.1 a.2)

/-- The meaning of RETIRE (R63). -/
def execRetire (p : Port) (tag region generation override : Byte) (s : State) : Host.Outcome State Fault Refusal :=
  .next (s.arrive (.retire p tag region generation override) p (takeRetire p tag region generation override))

/-! ## GRANT -/

/-- The OPEN handles of the other port that a rights value invalidates (R69). -/
def invalidatedBy (owner : Port) (ref : RegionRef) (rights : Rights) (p : Port) (i : HandleInfo) : Bool :=
  p == otherPort owner && i.region == ref && !rights.allow i.mode

/-- GRANT's own checks (R70). -/
def grantChecks (s : State) (p : Port) (ref : RegionRef) (rights : Rights) (override : Bool) (_r : Region) :
    Option Status :=
  firstOf [(s.anySlot (fun b => s.issuedThrough (invalidatedBy p ref rights) b && b.state.onArray), .inUse),
    (!override && s.anyOpen (invalidatedBy p ref rights), .inUse)]

/-- GRANT accepted (R71). -/
def State.acceptGrant (p : Port) (ref : RegionRef) (rights : Rights) (override : Bool) (_r : Region) (n : Nat)
    (s : State) : State :=
  let t := if override then s.invalidate (invalidatedBy p ref rights) else s
  State.waitDirectory
    { t with dir := t.dir.mapRegion ref.number fun r => { r with ident := { r.ident with rights := rights } } }
    p .grant ref n

/-- GRANT taken (R70). -/
def takeGrant (p : Port) (tag region generation rights override : Byte) (s : State) : State :=
  s.take (.grant p tag region generation rights override) p .grant tag (grantOperands region generation rights override)
    (fun _ => true) fun a s =>
    s.ownerCommand p a.1 (grantChecks s p a.1 a.2.1 a.2.2) (State.acceptGrant p a.1 a.2.1 a.2.2)

/-- The meaning of GRANT (R71). -/
def execGrant (p : Port) (tag region generation rights override : Byte) (s : State) : Host.Outcome State Fault Refusal :=
  .next (s.arrive (.grant p tag region generation rights override) p (takeGrant p tag region generation rights override))

/-! ## HOLD -/

/-- The OPEN handles of either port on a region in WRITE or EXCLUSIVE mode (R74). -/
def writersOf (ref : RegionRef) (_p : Port) (i : HandleInfo) : Bool := i.region == ref && i.mode.writes

/-- HOLD's own checks (R73). -/
def holdChecks (s : State) (ref : RegionRef) (override : Bool) (r : Region) : Option Status :=
  firstOf [(r.freeze != .openLevel, .frozen),
    (s.anySlot (fun b => b.ofRegion ref && b.work.writes && b.state.onArray), .inUse),
    (!override && (s.anyOpen (writersOf ref) ||
      s.anySlot (fun b => b.ofRegion ref && b.work.writes && b.state == .queued)), .inUse)]

/-- HOLD accepted (R74). -/
def State.acceptHold (p : Port) (ref : RegionRef) (override : Bool) (_r : Region) (n : Nat) (s : State) : State :=
  let t := if override then s.invalidate (writersOf ref) else s
  (t.setFreeze ref.number .held).waitDirectory p .hold ref n

/-- HOLD taken (R73). -/
def takeHold (p : Port) (tag region generation override : Byte) (s : State) : State :=
  s.take (.hold p tag region generation override) p .hold tag (overrideOperands region generation override)
    (fun _ => true) fun a s => s.ownerCommand p a.1 (holdChecks s a.1 a.2) (State.acceptHold p a.1 a.2)

/-- The meaning of HOLD (R74). -/
def execHold (p : Port) (tag region generation override : Byte) (s : State) : Host.Outcome State Fault Refusal :=
  .next (s.arrive (.hold p tag region generation override) p (takeHold p tag region generation override))

/-! ## THAW -/

/-- FIXING or FIXED. -/
def Freeze.beyondHold : Freeze → Bool
  | .fixing | .fixed _ => true
  | _ => false

/-- THAW accepted: a HELD region becomes OPEN, an OPEN one stays OPEN (R75). -/
def State.acceptThaw (p : Port) (ref : RegionRef) (_r : Region) (n : Nat) (s : State) : State :=
  (s.setFreeze ref.number .openLevel).waitDirectory p .thaw ref n

/-- THAW taken (R75). -/
def takeThaw (p : Port) (tag region generation : Byte) (s : State) : State :=
  s.take (.thaw p tag region generation) p .thaw tag (refOperand region generation) (fun _ => true) fun ref s =>
    s.ownerCommand p ref (fun r => firstOf [(r.freeze.beyondHold, .frozen)]) (State.acceptThaw p ref)

/-- The meaning of THAW (R75). -/
def execThaw (p : Port) (tag region generation : Byte) (s : State) : Host.Outcome State Fault Refusal :=
  .next (s.arrive (.thaw p tag region generation) p (takeThaw p tag region generation))

/-! ## FIX -/

/-- FIX's own checks (R76). -/
def fixChecks (r : Region) : Option Status :=
  firstOf [(r.freeze.beyondHold, .frozen), (r.freeze == .openLevel, .inUse), (r.growth.isSome, .inUse)]

/-- FIX accepted: the region is FIXING and the slot QUEUED; an idle array takes it at once. The dirty flag is not set
(R77, R136). -/
def State.acceptFix (p : Port) (ref : RegionRef) (_r : Region) (n : Nat) (s : State) : State :=
  ((s.setFreeze ref.number .fixing).enqueue n p .fix none ref).offer

/-- FIX taken (R76). -/
def takeFix (p : Port) (tag region generation : Byte) (s : State) : State :=
  s.take (.fix p tag region generation) p .fix tag (refOperand region generation) (fun _ => true) fun ref s =>
    s.ownerCommand p ref fixChecks (State.acceptFix p ref)

/-- The meaning of FIX (R77). -/
def execFix (p : Port) (tag region generation : Byte) (s : State) : Host.Outcome State Fault Refusal :=
  .next (s.arrive (.fix p tag region generation) p (takeFix p tag region generation))

/-! ## FORMAT -/

/-- FORMAT accepted: FORMATTING, its withdrawn set emptied, a RUNNING slot, and the pass takes the array (R170, R171). -/
def State.acceptFormat (s : State) (p : Port) (n : Nat) : State :=
  let t := { s with device := .formatting, formatWithdrawn := [] }
  State.formatPass n Config.unitCount (t.fillSlot n (.fresh p .format .running none none none))

/-- FORMAT's checks in RECOVERY, and its acceptance (R170). -/
def formatBlock (p : Port) (s : State) : State × Option Reply :=
  if s.store.writer = .fault then refuse .dirFault s
  else
    match s.slotCheck p with
    | .error st => refuse st s
    | .ok n => (s.acceptFormat p n, some (.ok (s.ticket n)))

/-- FORMAT taken (R170). -/
def takeFormat (p : Port) (tag : Byte) (s : State) : State :=
  s.take (.format p tag) p .format tag (some ()) (fun _ => true) fun _ s => formatBlock p s

/-- The meaning of FORMAT (R170). -/
def execFormat (p : Port) (tag : Byte) (s : State) : Host.Outcome State Fault Refusal :=
  .next (s.arrive (.format p tag) p (takeFormat p tag))

end Sys2Proof.Machine
end

