-- ==== Sys2Proof/Machine/Handles.lean ====
section
/-! DEFINITION. OPEN and CLOSE (R89 to R99), and VERIFY (R83). -/

namespace Sys2Proof.Machine

/-- The region reference an OPEN's selector resolves to (R89): by name with the record's current generation (R25), by
reference under R22. -/
def Directory.openTarget (d : Directory) : Target → Option RegionRef
  | .name name => (d.findName name).map fun n => ⟨n, (d.record n).generation⟩
  | .reference ref => (d.resolve ref).map fun _ => ref

/-- The response of an accepted OPEN (R91). -/
def openResult (h : Nat) (ref : RegionRef) (mode : Mode) (r : Region) : List Byte :=
  [byteOf h, byteOf ref.number, ref.generation, mode.code] ++ halfOf r.extent.count

/-- The checks of R90 from rights to conflict (5 to 7). -/
def openChecks (s : State) (p : Port) (mode : Mode) (ref : RegionRef) (r : Region) : Option Status :=
  firstOf [(p != r.ident.owner && !r.ident.rights.allow mode, .noRight),
    (mode.writes && r.freeze != .openLevel, .frozen),
    (s.anyOpen (fun _ i => i.region == ref && mode.conflicts i.mode), .conflict)]

/-- The lowest-numbered CLOSED entry of a port's table (R91). -/
def State.lowestClosed (s : State) (p : Port) : Option Nat := (s.port p).handles.findIdx? fun h => h == .closed

/-- OPEN's checks 3 to 8 in order, and its acceptance (R90, R91). -/
def openBlock (p : Port) (a : Mode × Target) (s : State) : State × Option Reply :=
  match s.dir.openTarget a.2 with
  | none => refuse .noSuchRegion s
  | some ref =>
    match (s.dir.record ref.number).body with
    | .active r =>
      match openChecks s p a.1 ref r with
      | some st => refuse st s
      | none =>
        match s.lowestClosed p with
        | none => refuse .handlesFull s
        | some h => (s.setHandle p h (.opened ⟨ref, a.1⟩), some (.ok (openResult h ref a.1 r)))
    | _ => refuse .notActive s

/-- OPEN taken (R90). The inhibit input holds WRITE and EXCLUSIVE modes back (R152). -/
def takeOpen (p : Port) (tag mode : Byte) (selector : Selector) (s : State) : State :=
  s.take (.openHandle p tag mode selector) p .openHandle tag (openOperands mode selector) (fun a => a.1.writes)
    (openBlock p)

/-- The meaning of OPEN (R90). -/
def execOpen (p : Port) (tag mode : Byte) (selector : Selector) (s : State) : Host.Outcome State Fault Refusal :=
  .next (s.arrive (.openHandle p tag mode selector) p (takeOpen p tag mode selector))

/-- QUEUED, RUNNING, SUSPENDED or WAIT_DIR (R124). -/
def SlotState.live (st : SlotState) : Bool := !st.finished

/-- CLOSE's checks and its acceptance (R98). -/
def closeBlock (p : Port) (h : Nat) (s : State) : State × Option Reply :=
  if s.handle p h = .closed then refuse .badHandle s
  else if s.anySlot (fun b => b.port == some p && b.handle == some h && b.state.live) then refuse .handleBusy s
  else (s.setHandle p h .closed, some (.ok []))

/-- CLOSE taken (R98). -/
def takeClose (p : Port) (tag handle : Byte) (s : State) : State :=
  s.take (.close p tag handle) p .close tag (handleOperand handle) (fun _ => false) (closeBlock p)

/-- The meaning of CLOSE (R98). -/
def execClose (p : Port) (tag handle : Byte) (s : State) : Host.Outcome State Fault Refusal :=
  .next (s.arrive (.close p tag handle) p (takeClose p tag handle))

/-- A command that names a handle: BAD_HANDLE for a CLOSED entry, STALE for a STALE one (R95). -/
def State.useHandle (s : State) (p : Port) (h : Nat) : Except Status HandleInfo :=
  match s.handle p h with
  | .closed => .error .badHandle
  | .stale _ => .error .stale
  | .opened i => .ok i

/-- A slot is QUEUED for the array, which takes it at once if it is idle (R135, R136). -/
def State.queueWork (s : State) (n : Nat) (p : Port) (work : Work) (h : Nat) (ref : RegionRef) : State :=
  (s.enqueue n p work (some h) ref).offer

/-- VERIFY's checks and its acceptance (R83). -/
def verifyBlock (p : Port) (h : Nat) (s : State) : State × Option Reply :=
  match s.useHandle p h with
  | .error st => refuse st s
  | .ok i =>
    match s.slotCheck p with
    | .error st => refuse st s
    | .ok n => (s.queueWork n p .verify h i.region, some (.ok (s.ticket n)))

/-- VERIFY taken (R83). -/
def takeVerify (p : Port) (tag handle : Byte) (s : State) : State :=
  s.take (.verify p tag handle) p .verify tag (handleOperand handle) (fun _ => false) (verifyBlock p)

/-- The meaning of VERIFY (R83). -/
def execVerify (p : Port) (tag handle : Byte) (s : State) : Host.Outcome State Fault Refusal :=
  .next (s.arrive (.verify p tag handle) p (takeVerify p tag handle))

end Sys2Proof.Machine
end

