-- ==== Sys2Proof/Machine/DataCommands.lean ====
section
/-! DEFINITION. READ, PROGRAM and ERASE (R104 to R118). -/

namespace Sys2Proof.Machine

/-- READ's checks, and the read path's decision (R105, R107, R109). -/
def readBlock (p : Port) (tag : Byte) (a : ReadArgs) (s : State) : State × Option Reply :=
  match s.useHandle p a.handle with
  | .error st => refuse st s
  | .ok i =>
    let e := s.dir.extentOf i.region.number
    if readInRange e a then s.readPath ⟨p, tag, e.address a.offset, a.length⟩ else refuse .range s

/-- READ taken (R107). -/
def takeRead (p : Port) (tag handle : Byte) (offset : Word) (length : Half) (s : State) : State :=
  s.take (.read p tag handle offset length) p .read tag (readOperands handle offset length) (fun _ => false)
    (readBlock p tag)

/-- The meaning of READ (R109). -/
def execRead (p : Port) (tag handle : Byte) (offset : Word) (length : Half) (s : State) :
    Host.Outcome State Fault Refusal :=
  .next (s.arrive (.read p tag handle offset length) p (takeRead p tag handle offset length))

/-- What PROGRAM and ERASE share: handle, mode, range, slot, and acceptance (R105, R114, R118). -/
def writeBlock (p : Port) (h : Nat) (inRange : Extent → Bool) (work : Work) (s : State) : State × Option Reply :=
  match s.useHandle p h with
  | .error st => refuse st s
  | .ok i =>
    if !i.mode.writes then refuse .noRight s
    else if !inRange (s.dir.extentOf i.region.number) then refuse .range s
    else
      match s.slotCheck p with
      | .error st => refuse st s
      | .ok n => (s.queueWork n p work h i.region, some (.ok (s.ticket n)))

/-- PROGRAM taken (R113). -/
def takeProgram (p : Port) (tag handle : Byte) (offset : Word) (data : List Byte) (s : State) : State :=
  s.take (.program p tag handle offset data) p .program tag (programOperands handle offset data) (fun _ => true)
    fun a s => writeBlock p a.handle (fun e => programInRange e a.offset a.data.length) (.program a.offset a.data) s

/-- The meaning of PROGRAM (R114). -/
def execProgram (p : Port) (tag handle : Byte) (offset : Word) (data : List Byte) (s : State) :
    Host.Outcome State Fault Refusal :=
  .next (s.arrive (.program p tag handle offset data) p (takeProgram p tag handle offset data))

/-- ERASE taken (R117). -/
def takeErase (p : Port) (tag handle : Byte) (unitOffset count : Half) (s : State) : State :=
  s.take (.erase p tag handle unitOffset count) p .erase tag (eraseOperands handle unitOffset count) (fun _ => true)
    fun a s => writeBlock p a.handle (fun e => eraseInRange e a.unitOffset a.count) (.erase a.unitOffset a.count) s

/-- The meaning of ERASE (R118). -/
def execErase (p : Port) (tag handle : Byte) (unitOffset count : Half) (s : State) : Host.Outcome State Fault Refusal :=
  .next (s.arrive (.erase p tag handle unitOffset count) p (takeErase p tag handle unitOffset count))

end Sys2Proof.Machine
end

