-- ==== Sys2Proof/Machine/PortCommands.lean ====
section
/-! DEFINITION. The commands a port decides itself: IDENTIFY, STATUS and PORT_RESET (R154, R156, R157). -/

namespace Sys2Proof.Machine

/-- The result of IDENTIFY (R156). -/
def identifyResult (p : Port) : List Byte :=
  0x54 :: be16 0x08D2 ++ [1, portCode p] ++ halfOf Config.unitCount ++ halfOf Config.unitSize ++ halfOf Config.pageSize ++
    [byteOf Config.recordCount, byteOf Config.handleCount, byteOf Config.slotCount, byteOf Config.slotQuota] ++
    halfOf Config.wearLimit

/-- IDENTIFY taken (R156). -/
def takeIdentify (p : Port) (tag : Byte) (s : State) : State :=
  s.take (.identify p tag) p .identify tag (some ()) (fun _ => false) fun _ s => (s, some (.ok (identifyResult p)))

/-- The meaning of IDENTIFY (R156). -/
def execIdentify (p : Port) (tag : Byte) (s : State) : Host.Outcome State Fault Refusal :=
  .next (s.arrive (.identify p tag) p (takeIdentify p tag))

/-- A handle entry in the STATUS result (R157). -/
def Handle.statusBytes (h : Handle) : List Byte :=
  match h with
  | .closed => [h.code, 0, 0, 0]
  | .opened i | .stale i => [h.code, byteOf i.region.number, i.region.generation, i.mode.code]

/-- A port's slot entries in the STATUS result, in ascending slot number (R157). -/
def State.slotEntries (s : State) (p : Port) : List (List Byte) :=
  (s.slots.mapIdx fun n x => (n, x)).filterMap fun (n, x) =>
    match x.body with
    | some b => if b.port = some p then some [byteOf n, x.useCount.setWidth 8, b.state.code, b.work.code] else none
    | none => none

/-- The durable sequence number as STATUS reports it (R157). -/
def State.reportedSequence (s : State) : Word := if s.loaded then s.store.durable else 0

/-- The withdrawn count as STATUS reports it: FORMAT's set where no directory is loaded (R157, R169). -/
def State.withdrawnCount (s : State) : Nat := if s.loaded then s.dir.withdrawn.length else s.formatWithdrawn.length

/-- The result of STATUS (R157). -/
def State.statusResult (s : State) (p : Port) : List Byte :=
  [s.device.code, s.store.writer.code] ++ be32 s.reportedSequence ++
    halfOf (if s.loaded then s.dir.freeCount else 0) ++
    [byteOf (if s.loaded then s.dir.scrub.length else 0)] ++
    halfOf s.withdrawnCount ++
    [boolCode (s.port p).staleNotice] ++
    ((s.port p).handles.flatMap Handle.statusBytes) ++
    byteOf (s.slotEntries p).length :: (s.slotEntries p).flatten

/-- The stale-notice flag cleared, in the act that reads it (R101). -/
def State.clearNotice (s : State) (p : Port) : State := s.setPort p { s.port p with staleNotice := false }

/-- STATUS taken (R157). -/
def takeStatus (p : Port) (tag : Byte) (s : State) : State :=
  s.take (.status p tag) p .status tag (some ()) (fun _ => false) fun _ s =>
    (s.clearNotice p, some (.ok (s.statusResult p)))

/-- The meaning of STATUS (R157). -/
def execStatus (p : Port) (tag : Byte) (s : State) : Host.Outcome State Fault Refusal :=
  .next (s.arrive (.status p tag) p (takeStatus p tag))

/-- What a PORT_RESET does to one slot: the port's QUEUED and finished slots are freed, its RUNNING, SUSPENDED and
WAIT_DIR slots become orphans (R128, R129). -/
def Slot.portReset (p : Port) (x : Slot) : Slot :=
  match x.body with
  | none => x
  | some b =>
    if b.port = some p then
      if b.state = .queued ∨ b.state.finished = true then x.freed
      else { x with body := some { b with port := none, handle := none } }
    else x

/-- The regions of a port's QUEUED FIX slots return from FIXING to HELD (R77, R129). -/
def State.releaseFixes (s : State) (p : Port) : State :=
  s.slots.foldl (fun t x => match x.body with
    | some b =>
      if b.port = some p ∧ b.state = .queued ∧ b.work = .fix then t.setFreeze b.regionNumber .held
      else t
    | none => t) s

/-- The effects of a PORT_RESET, in one act (R103, R129, R154). -/
def State.resetPort (s : State) (p : Port) : State :=
  let t := s.releaseFixes p
  let u := { t with
    slots := s.slots.map (Slot.portReset p)
    sched := { t.sched with queue := t.sched.queue.filter fun n => !(s.slot n).queuedWith fun b => b.port == some p } }
  u.setPort p { u.port p with cache := none, staleNotice := false, handles := closedTable }

/-- PORT_RESET taken (R154). -/
def takePortReset (p : Port) (tag : Byte) (s : State) : State :=
  s.take (.portReset p tag) p .portReset tag (some ()) (fun _ => false) fun _ s => (s.resetPort p, some (.ok []))

/-- The meaning of PORT_RESET (R154). -/
def execPortReset (p : Port) (tag : Byte) (s : State) : Host.Outcome State Fault Refusal :=
  .next (s.arrive (.portReset p tag) p (takePortReset p tag))

end Sys2Proof.Machine
end

