-- ==== Sys2Proof/Machine/Queries.lean ====
section
/-! DEFINITION. The queries: UNIT_INFO, LIST, LOOKUP and READ_RECORD (R40 to R44). -/

namespace Sys2Proof.Machine

/-- The assignment part of a UNIT_INFO result (R44, R159). -/
def Place.bytes : Place → List Byte
  | .region n g off inGrowth => 0 :: byteOf n :: g :: halfOf off ++ [boolCode inGrowth]
  | .scrub position ended => [1, byteOf position, boolCode ended]
  | .withdrawn => [2]
  | .free => [3]

/-- The assignment of a unit; without a loaded directory UNKNOWN, but for the units of FORMAT's withdrawn set (R44). -/
def State.assignment (s : State) (u : Nat) : List Byte :=
  if s.loaded then (s.dir.place u).bytes
  else if s.formatWithdrawn.contains u then Place.withdrawn.bytes else [4]

/-- The result of UNIT_INFO (R44, R159). -/
def State.unitInfo (s : State) (u : Nat) : List Byte :=
  let f := s.array.facts u
  f.condition.code :: halfOf f.eraseCount ++ boolCode f.fixedMark :: s.assignment u

/-- UNIT_INFO taken (R44). -/
def takeUnitInfo (p : Port) (tag : Byte) (unit : Half) (s : State) : State :=
  s.take (.unitInfo p tag unit) p .unitInfo tag (unitOperand unit) (fun _ => false) fun u s =>
    (s, some (.ok (s.unitInfo u)))

/-- The meaning of UNIT_INFO (R44). -/
def execUnitInfo (p : Port) (tag : Byte) (unit : Half) (s : State) : Host.Outcome State Fault Refusal :=
  .next (s.arrive (.unitInfo p tag unit) p (takeUnitInfo p tag unit))

/-- A record's entry in the LIST result; none for a FREE record (R41). -/
def Record.listEntry (n : Nat) (r : Record) : Option (List Byte) :=
  r.body.name.map fun name => byteOf n :: r.generation :: r.body.code :: byteOf name.length :: name

/-- The entries of the LIST result, in ascending region number (R41). -/
def Directory.listEntries (d : Directory) : List (List Byte) :=
  (d.records.mapIdx fun n r => r.listEntry n).filterMap id

/-- LIST taken (R41). -/
def takeList (p : Port) (tag : Byte) (s : State) : State :=
  s.take (.list p tag) p .list tag (some ()) (fun _ => false) fun _ s =>
    (s, some (.ok (byteOf s.dir.listEntries.length :: s.dir.listEntries.flatten)))

/-- The meaning of LIST (R41). -/
def execList (p : Port) (tag : Byte) (s : State) : Host.Outcome State Fault Refusal :=
  .next (s.arrive (.list p tag) p (takeList p tag))

/-- LOOKUP's decision (R42). -/
def lookupBlock (name : List Byte) (s : State) : State × Option Reply :=
  match s.dir.findName name with
  | none => refuse .noSuchRegion s
  | some n => (s, some (.ok [byteOf n, (s.dir.record n).generation, (s.dir.record n).body.code]))

/-- LOOKUP taken (R42). -/
def takeLookup (p : Port) (tag : Byte) (name : List Byte) (s : State) : State :=
  s.take (.lookup p tag name) p .lookup tag (nameOperand name) (fun _ => false) lookupBlock

/-- The meaning of LOOKUP (R42). -/
def execLookup (p : Port) (tag : Byte) (name : List Byte) (s : State) : Host.Outcome State Fault Refusal :=
  .next (s.arrive (.lookup p tag name) p (takeLookup p tag name))

/-- The 13 bytes of a READ_RECORD result's name field: length, then the name, unused bytes 0 (R159). -/
def nameField (name : List Byte) : List Byte := byteOf name.length :: name ++ List.replicate (12 - name.length) 0

/-- The check word of a record, where one is present (R20). -/
def RecordBody.checkWord (b : RecordBody) : Option Word :=
  match b.freeze with
  | .fixed w => w
  | _ => none

/-- The result of READ_RECORD, 30 bytes; an absent field is sent as 0 (R43, R159). -/
def Record.readBytes (n : Nat) (r : Record) : List Byte :=
  [byteOf n, r.body.code, r.generation, r.body.presence] ++
    nameField (r.body.name.getD []) ++
    halfOf ((r.body.extent.map (·.first)).getD 0) ++ halfOf ((r.body.extent.map (·.count)).getD 0) ++
    halfOf (r.body.growth.getD 0) ++
    [(r.body.ident.map fun i => portCode i.owner).getD 0, (r.body.ident.map fun i => i.rights.code).getD 0,
      r.body.freeze.code] ++
    be32 (r.body.checkWord.getD 0)

/-- READ_RECORD taken (R43). -/
def takeReadRecord (p : Port) (tag region : Byte) (s : State) : State :=
  s.take (.readRecord p tag region) p .readRecord tag (regionOperand region) (fun _ => false) fun n s =>
    (s, some (.ok ((s.dir.record n).readBytes n)))

/-- The meaning of READ_RECORD (R43). -/
def execReadRecord (p : Port) (tag region : Byte) (s : State) : Host.Outcome State Fault Refusal :=
  .next (s.arrive (.readRecord p tag region) p (takeReadRecord p tag region))

end Sys2Proof.Machine
end

