-- ==== Sys2Proof/Machine/Tickets.lean ====
section
/-! DEFINITION. QUERY, CANCEL and COLLECT (R125, R130 to R133). -/

namespace Sys2Proof.Machine

/-- The slot a ticket resolves to: none, answered NO_SUCH_TICKET, where the slot is FREE, its use count differs or it
is not the port's (R125). -/
def State.resolveTicket (s : State) (p : Port) (t : Ticket) : Option SlotBody :=
  match (s.slot t.slot).body with
  | none => none
  | some b => if (s.slot t.slot).useCount = t.useCount ∧ b.port = some p then some b else none

/-- The region reference field, 0 where absent. -/
def SlotBody.refBytes (b : SlotBody) : List Byte :=
  match b.region with
  | some r => [byteOf r.number, r.generation]
  | none => [0, 0]

/-- The result code field, 0 where absent. -/
def SlotBody.resultByte (b : SlotBody) : Byte := (b.state.result.map Status.code).getD 0

/-- The result value field, 0 where absent. -/
def SlotBody.valueBytes (b : SlotBody) : List Byte := be32 (b.value.getD 0)

/-- The comparison field, 0 where absent. -/
def SlotBody.comparisonByte (b : SlotBody) : Byte := (b.comparison.map Comparison.code).getD 0

/-- The suspension count field, 0 for a kind that has none. -/
def SlotBody.suspensionByte (b : SlotBody) : Byte := if b.work.countsSuspensions then byteOf b.suspensions else 0

/-- The result of QUERY, 19 bytes (R130, R159). -/
def SlotBody.queryBytes (b : SlotBody) : List Byte :=
  [b.state.code, b.work.code, b.presence] ++ b.refBytes ++ [byteOf (b.handle.getD 0)] ++ be32 (b.arrival.getD 0) ++
    halfOf b.progress ++ [b.suspensionByte, b.resultByte] ++ b.valueBytes ++ [b.comparisonByte]

/-- The result of an OK COLLECT, 12 bytes (R133, R159). -/
def SlotBody.collectBytes (b : SlotBody) : List Byte :=
  [b.work.code, b.collectPresence] ++ b.refBytes ++ halfOf b.progress ++ [b.resultByte] ++ b.valueBytes ++
    [b.comparisonByte]

/-- QUERY's decision (R130). -/
def queryBlock (p : Port) (t : Ticket) (s : State) : State × Option Reply :=
  match s.resolveTicket p t with
  | none => refuse .noSuchTicket s
  | some b => (s, some (.ok b.queryBytes))

/-- QUERY taken (R130). -/
def takeQuery (p : Port) (tag slot useCount : Byte) (s : State) : State :=
  s.take (.query p tag slot useCount) p .query tag (ticketOperand slot useCount) (fun _ => false) (queryBlock p)

/-- The meaning of QUERY (R130). -/
def execQuery (p : Port) (tag slot useCount : Byte) (s : State) : Host.Outcome State Fault Refusal :=
  .next (s.arrive (.query p tag slot useCount) p (takeQuery p tag slot useCount))

/-- TOO_LATE with the slot's state (R131, R133). -/
def tooLate (st : SlotState) (s : State) : State × Option Reply := (s, some ⟨.tooLate, [st.code], false⟩)

/-- A QUEUED slot cancelled with cause HOST; the region of a FIX returns to HELD (R131). -/
def State.cancelWaiting (s : State) (n : Nat) (b : SlotBody) : State :=
  let t := (s.dequeue n).mapSlot n fun b => { b with state := .cancelled .host }
  if b.work = .fix then t.setFreeze b.regionNumber .held else t

/-- An ERASE slot cancelled on the array: it is CANCELLED with cause HOST and the array free (R121, R131). -/
def State.cancelErase (s : State) (n : Nat) : State := (s.endSlot n (.cancelled .host)).freeArray

/-- The unit erase of an ERASE slot aborted where it stands: its bits as they were or turned to 1, all at 1 where its
mark was being written, its header as the start left it (R13, R121). -/
def State.abortErase (s : State) (n : Nat) (run : EraseRun) : State :=
  State.cancelErase { s with array := s.array.stopErase run (Config.eraseSets s.draws) }.drawn n

/-- CANCEL's decision by the slot's state and kind (R131). Between two units of an ERASE there is no erase to abort
(R121); a RUNNING VERIFY leaves the CANCEL undecided until the scan step in progress has ended. -/
def cancelBlock (p : Port) (tag : Byte) (t : Ticket) (s : State) : State × Option Reply :=
  match s.resolveTicket p t with
  | none => refuse .noSuchTicket s
  | some b =>
    match b.state with
    | .queued => (s.cancelWaiting t.slot b, some (.ok [(SlotState.cancelled .host).code]))
    | .running | .suspended =>
      match s.sched.activity with
      | .erase (.slot n) run =>
        if n = t.slot then (s.abortErase n run, some (.ok [(SlotState.cancelled .host).code])) else tooLate b.state s
      | .between n _ =>
        if n = t.slot then (s.cancelErase n, some (.ok [(SlotState.cancelled .host).code])) else tooLate b.state s
      | .scan run =>
        if run.slot = t.slot ∧ b.work = .verify then (s.setActivity (.scan { run with cancel := some (p, tag) }), none)
        else tooLate b.state s
      | _ => tooLate b.state s
    | st => tooLate st s

/-- CANCEL taken (R131). -/
def takeCancel (p : Port) (tag slot useCount : Byte) (s : State) : State :=
  s.take (.cancel p tag slot useCount) p .cancel tag (ticketOperand slot useCount) (fun _ => false) (cancelBlock p tag)

/-- The meaning of CANCEL (R131). -/
def execCancel (p : Port) (tag slot useCount : Byte) (s : State) : Host.Outcome State Fault Refusal :=
  .next (s.arrive (.cancel p tag slot useCount) p (takeCancel p tag slot useCount))

/-- COLLECT's decision (R133). -/
def collectBlock (p : Port) (t : Ticket) (s : State) : State × Option Reply :=
  match s.resolveTicket p t with
  | none => refuse .noSuchTicket s
  | some b => if b.state.finished then (s.freeSlot t.slot, some (.ok b.collectBytes)) else tooLate b.state s

/-- COLLECT taken (R133). -/
def takeCollect (p : Port) (tag slot useCount : Byte) (s : State) : State :=
  s.take (.collect p tag slot useCount) p .collect tag (ticketOperand slot useCount) (fun _ => false) (collectBlock p)

/-- The meaning of COLLECT (R133). -/
def execCollect (p : Port) (tag slot useCount : Byte) (s : State) : Host.Outcome State Fault Refusal :=
  .next (s.arrive (.collect p tag slot useCount) p (takeCollect p tag slot useCount))

end Sys2Proof.Machine
end

