-- ==== Sys2Proof/Machine/Link.lean ====
section
/-! DEFINITION. The link of a port: select, faulty frames, unknown codes, a waiting request taken, the end of a
response, and the inhibit input (R144 to R149, R152). -/

namespace Sys2Proof.Machine

/-- The port as it begins to receive a request: while start-up runs its replay cache is empty, so that the request is
not replayed (R162). R148 and R150 place the refusals of STARTING in the cache: DESIGN CHOICE, the next fall of select
empties it of them (log 25). -/
def PortState.beginPeriod (q : PortState) (d : Device) : PortState :=
  { q with selectLow := true, framing := .receiving, cache := if d = .starting then none else q.cache }

/-- A fall of select: in IDLE a select period begins and the port is RECEIVING (R144). While the part is in reset the
select input is ignored; with select already low nothing falls (log 22). -/
def execSelectFall (p : Port) (s : State) : Host.Outcome State Fault Refusal :=
  .next (let q := s.port p
    if q.selectLow then s
    else if s.device = .inReset then s.setPort p { q with selectLow := true }
    else s.setPort p (q.beginPeriod s.device))

/-- A rise of select ends the period from any framing state: a partial or waiting request is discarded, an EXECUTING
command becomes the undecided command, the rest of a response is lost; the port enters IDLE (R144). -/
def PortState.selectRise (q : PortState) : PortState :=
  match q.framing with
  | .executing req => { q with selectLow := false, framing := .idle, undecided := some req }
  | _ => { q with selectLow := false, framing := .idle }

/-- The meaning of SELECT_RISE (R144). -/
def execSelectRise (p : Port) (s : State) : Host.Outcome State Fault Refusal :=
  .next (s.setPort p (s.port p).selectRise)

/-- A faulty request taken: a CRC that does not agree answers FRAME_ERROR; a length that does not fit does too, unless
the request matches the replay cache (R148 steps 1, 3, 4). -/
def takeFrameError (p : Port) (frame : List Byte) (s : State) : State :=
  match decodeFrame p frame with
  | .badCrc tag => s.answerFrame p tag .frameError
  | .badLength cmd tag =>
    match s.replay p cmd tag with
    | some r => s.sendReplay p r
    | none => s.answerFrame p tag .frameError
  | _ => s

/-- The meaning of FRAME_ERROR (R148). Bytes that are no faulty request are not this event: nothing happens (log 22). -/
def execFrameError (p : Port) (frame : List Byte) (s : State) : Host.Outcome State Fault Refusal :=
  .next (match decodeFrame p frame with
    | .badCrc _ | .badLength _ _ => s.arrive (.frameError p frame) p (takeFrameError p frame)
    | _ => s)

/-- A request with a code outside the code table taken (R148 step 2). -/
def takeUnknown (p : Port) (tag : Byte) (s : State) : State := s.answerFrame p tag .unknownCommand

/-- The meaning of UNKNOWN_COMMAND (R148). A code of the table is not this event: nothing happens (log 22). -/
def execUnknownCommand (p : Port) (code tag : Byte) (params : List Byte) (s : State) :
    Host.Outcome State Fault Refusal :=
  .next (match Cmd.ofCode code with
    | none => s.arrive (.unknownCommand p code tag params) p (takeUnknown p tag)
    | some _ => s)

/-- A request taken by its row: what its own arm does once the port's earlier command has been decided. -/
def takeRequest : Instr → State → State
  | .frameError p frame => takeFrameError p frame
  | .unknownCommand p _ tag _ => takeUnknown p tag
  | .identify p tag => takeIdentify p tag
  | .status p tag => takeStatus p tag
  | .portReset p tag => takePortReset p tag
  | .unitInfo p tag unit => takeUnitInfo p tag unit
  | .list p tag => takeList p tag
  | .lookup p tag name => takeLookup p tag name
  | .readRecord p tag region => takeReadRecord p tag region
  | .create p tag rights placement first count name => takeCreate p tag rights placement first count name
  | .grow p tag region generation added => takeGrow p tag region generation added
  | .shrink p tag region generation newCount override => takeShrink p tag region generation newCount override
  | .retire p tag region generation override => takeRetire p tag region generation override
  | .grant p tag region generation rights override => takeGrant p tag region generation rights override
  | .hold p tag region generation override => takeHold p tag region generation override
  | .thaw p tag region generation => takeThaw p tag region generation
  | .fix p tag region generation => takeFix p tag region generation
  | .verify p tag handle => takeVerify p tag handle
  | .format p tag => takeFormat p tag
  | .openHandle p tag mode selector => takeOpen p tag mode selector
  | .close p tag handle => takeClose p tag handle
  | .read p tag handle offset length => takeRead p tag handle offset length
  | .program p tag handle offset data => takeProgram p tag handle offset data
  | .erase p tag handle unitOffset count => takeErase p tag handle unitOffset count
  | .query p tag slot useCount => takeQuery p tag slot useCount
  | .cancel p tag slot useCount => takeCancel p tag slot useCount
  | .collect p tag slot useCount => takeCollect p tag slot useCount
  | .selectFall _ | .selectRise _ | .waitingRequestTaken _ | .responseSent _ | .inhibitInputChange _ _ => id
  | .directoryWriteComplete | .attemptFail | .attemptTimeout => id
  | .programEnd _ | .programTimeout | .eraseEnd _ | .eraseTimeout | .markWriteEnd _ | .markWriteTimeout => id
  | .scanStepEnd | .runSliceExpiry => id
  | .resetAssert | .powerLoss | .resetRelease | .powerGood | .startupComplete => id

/-- The meaning of WAITING_REQUEST_TAKEN: a request in WAITING is taken once the port's undecided command has been
decided (R149). Where none waits, or it must wait on, nothing happens (log 22). -/
def execWaitingRequestTaken (p : Port) (s : State) : Host.Outcome State Fault Refusal :=
  .next (match (s.port p).framing with
    | .waiting req => if (s.port p).undecided.isSome then s else takeRequest req s
    | _ => s)

/-- The meaning of RESPONSE_SENT: the port leaves RESPONDING and enters FINISHED (R146). -/
def execResponseSent (p : Port) (s : State) : Host.Outcome State Fault Refusal :=
  .next (match (s.port p).framing with
    | .responding _ => s.setPort p { s.port p with framing := .finished }
    | _ => s)

/-- The meaning of INHIBIT_INPUT_CHANGE: the level the port keeps (R152). -/
def execInhibitInputChange (p : Port) (asserted : Bool) (s : State) : Host.Outcome State Fault Refusal :=
  .next (s.setPort p { s.port p with inhibit := asserted })

end Sys2Proof.Machine
end

