-- ==== Sys2Proof/Machine/PowerEvents.lean ====
section
/-! DEFINITION. RESET, power and start-up (R9, R13, R15, R38, R160 to R168). -/

namespace Sys2Proof.Machine

/-! ## Assertion of RESET, loss of power -/

/-- A unit erase cut short (R10, R13): the old header still whole (only while the header write of its start may not be
over), the data bits partly at 1 (not once the mark is being written), or, while it was not suspended, all data at 1
with the mark absent or present. A choice the erase has passed or not reached falls to the data bits, or, once the
mark is being written, to the mark absent (log 9). -/
def ArrayState.cutErase (a : ArrayState) (run : EraseRun) (cut : EraseCut) (sets : Nat → Byte) : ArrayState :=
  match cut with
  | .oldHeader => if run.settled then a.stopErase run sets else a.setHeader run.unit run.before
  | .dataBits => a.stopErase run sets
  | .markAbsent => if run.suspended then a.stopErase run sets else a.eraseData run.unit
  | .markPresent =>
    if run.suspended then a.stopErase run sets
    else (a.eraseData run.unit).setHeader run.unit { a.header run.unit with eraseMark := true }

/-- The array work in flight abandoned where it stands (R9, R13, R15, R16, R161). -/
def State.cutWork (s : State) : State :=
  match s.sched.activity with
  | .idle | .between _ _ | .scan _ => s
  | .program n address =>
    let data : List Byte := match s.slotWork n with
      | some (.program _ d) => d
      | _ => []
    { s with array := s.array.programBytes (Config.programLanded s.draws) address data }.drawn
  | .erase _ run =>
    { s with array := s.array.cutErase run (Config.eraseCut s.draws) (Config.eraseSets s.draws) }.drawn
  | .mark run =>
    let u := run.extent.first + run.done
    (if Config.markLanded s.draws
      then { s with array := s.array.setHeader u { s.array.header u with fixedMark := true } } else s).drawn

/-- A directory write in flight leaves its target copy DAMAGED (R38). -/
def State.cutWrite (s : State) : State :=
  match s.store.writer with
  | .writing job =>
    { s with store := s.store.setCopy job.target (.damaged (Config.damagedField s.draws)) }.drawn
  | _ => s

/-- All volatile state lost; the copies, the headers and the data stay, and so do the levels of the inputs (R161;
log 5). -/
def State.loseVolatile (s : State) : State :=
  { s with
    portA := .cleared s.portA.selectLow s.portA.inhibit
    portB := .cleared s.portB.selectLow s.portB.inhibit
    array := { s.array with map := [] }
    dir := .empty
    store := ⟨s.store.copy0, s.store.copy1, none, 0, none, false, .idle⟩
    formatWithdrawn := []
    slots := emptyTable
    sched := .empty }

/-- The part goes into reset: work in flight abandoned, volatile state lost; a part already in reset stays so (R161). -/
def State.enterReset (s : State) : State :=
  if s.device = .inReset then s else { s.cutWork.cutWrite.loseVolatile with device := .inReset }

/-- The meaning of RESET_ASSERT (R161). -/
def execResetAssert (s : State) : Host.Outcome State Fault Refusal :=
  .next { s.enterReset with resetAsserted := true }

/-- The meaning of POWER_LOSS: as an assertion of RESET (R161). -/
def execPowerLoss (s : State) : Host.Outcome State Fault Refusal :=
  .next { s.enterReset with powerGood := false }

/-- With RESET released and power good the part leaves reset and start-up begins (R160, R161; log 24). -/
def State.leaveReset (s : State) : State :=
  if s.device = .inReset ∧ s.resetAsserted = false ∧ s.powerGood = true then { s with device := .starting } else s

/-- The meaning of RESET_RELEASE (R161). -/
def execResetRelease (s : State) : Host.Outcome State Fault Refusal :=
  .next (State.leaveReset { s with resetAsserted := false })

/-- The meaning of POWER_GOOD: as a release of RESET (R161). -/
def execPowerGood (s : State) : Host.Outcome State Fault Refusal :=
  .next (State.leaveReset { s with powerGood := true })

/-! ## Start-up -/

/-- The image of a VALID copy: complete, with a check that agrees (R163). -/
def Copy.valid : Copy → Option Image
  | .complete image => if image.agrees then some image else none
  | _ => none

/-- The sequence-number field a copy shows (R163). -/
def Copy.field : Copy → Option Word
  | .blank => none
  | .complete image => some image.sequence
  | .damaged f => f

/-- The higher of two sequence-number fields. -/
def higher : Option Word → Option Word → Option Word
  | none, f => f
  | f, none => f
  | some a, some b => if a.toNat < b.toNat then some b else some a

/-- What start-up chooses (R164). -/
inductive Choice where
  | load (copy : CopyId) (image : Image)
  | empty
  | noDirectory
  deriving DecidableEq, Repr

/-- The choice between the two copies (R164). -/
def Store.choose (t : Store) : Choice :=
  match t.copy0.valid, t.copy1.valid with
  | some i, some j => if i.sequence.toNat < j.sequence.toNat then .load .copy1 j else .load .copy0 i
  | some i, none => .load .copy0 i
  | none, some j => .load .copy1 j
  | none, none => if t.copy0 = .blank ∧ t.copy1 = .blank then .empty else .noDirectory

/-- The working level of a durable one (R19). -/
def DurableFreeze.working : DurableFreeze → Freeze
  | .openLevel => .openLevel
  | .held => .held
  | .fixed w => .fixed w

/-- A record of an image in working form (R19). -/
def DurableRecord.working (r : DurableRecord) : Record :=
  ⟨r.generation, match r.region with
    | none => .free
    | some g => .active ⟨g.ident, g.extent, none, g.freeze.working⟩⟩

/-- An image loaded: every scrub extent eligible at progress 0 (R19, R167). -/
def Image.working (i : Image) : Directory :=
  ⟨i.records.map DurableRecord.working, i.scrub.map fun e => ⟨e, 0, true⟩, i.withdrawn⟩

/-- A record met by reconciliation: OPEN or HELD with a marked unit becomes FIXED without a check word (R166). -/
def Record.reconcile (a : ArrayState) (r : Record) : Record :=
  match r.body with
  | .active g =>
    if (g.freeze = .openLevel ∨ g.freeze = .held) ∧ a.anyMarked g.extent = true
    then { r with body := .active { g with freeze := .fixed none } } else r
  | _ => r

/-- Free units that are not GOOD or carry a fixed mark (R167). -/
def unfitUnits (a : ArrayState) (d : Directory) : List Nat :=
  (List.range Config.unitCount).filter fun u =>
    ((a.facts u).condition != .good || (a.facts u).fixedMark) && d.place u == .free

/-- Reconciliation of the loaded directory with the map (R166, R167). -/
def Directory.reconcile (a : ArrayState) (d : Directory) : Directory :=
  let fixed := { d with records := d.records.map (Record.reconcile a) }
  { fixed with withdrawn := (unfitUnits a fixed).foldl (fun l u => unitInsert u l) fixed.withdrawn }

/-- A port as start-up leaves it: handles CLOSED, cache empty, notice clear (R168). -/
def PortState.initialise (q : PortState) : PortState :=
  { q with cache := none, staleNotice := false, handles := closedTable }

/-- The volatile state initialised, the headers scanned and the fields read (R163, R165, R168). -/
def State.initialise (s : State) : State :=
  { s.mapPorts fun _ q => q.initialise with
    array := s.array.scanHeaders
    dir := .empty
    store := { s.store with
      current := none, durable := 0, highest := higher s.store.copy0.field s.store.copy1.field
      dirty := false, writer := .idle }
    formatWithdrawn := []
    slots := emptyTable
    sched := .empty }

/-- Service entered with a directory: reconciled, READY, a write started if reconciliation changed it, and the first
offer of the array (R166 to R168). R168 gives both at once and no order: DESIGN CHOICE, the write captures its image
first, so that a unit withdrawn by the first offer waits for the next write (log 33). -/
def State.enterService (s : State) (d : Directory) (current : Option CopyId) (durable : Word) : State :=
  let r := d.reconcile s.array
  State.offer (State.kick { s with
    device := .ready
    dir := r
    store := { s.store with current := current, durable := durable, dirty := decide (r ≠ d) } })

/-- Start-up ends (R163 to R168). -/
def State.startup (s : State) : State :=
  match s.store.choose with
  | .load copy image => s.initialise.enterService image.working (some copy) image.sequence
  | .empty => s.initialise.enterService .empty none 0
  | .noDirectory => { s.initialise with device := .recovery }

/-- The meaning of STARTUP_COMPLETE (R168). -/
def execStartupComplete (s : State) : Host.Outcome State Fault Refusal :=
  .next (if s.device = .starting then s.startup else s)

end Sys2Proof.Machine
end

