-- ==== Sys2Proof/Machine/WriterEvents.lean ====
section
/-! DEFINITION. The events of the directory writer: a completed write, a failed attempt, an attempt that timed out (R33,
R34, R37, R172). -/

namespace Sys2Proof.Machine

/-- A successful attempt: FORMAT's write completes under R172; any other under R34, and then a set dirty flag starts
the next write, and extents that have become eligible are offered to scrub (R32, R34, R136). -/
def State.writeCompletes (s : State) : State :=
  match s.store.writer with
  | .writing job => if job.format then s.completeFormat job else (s.completeWrite job).kick.offer
  | _ => s

/-- The meaning of DIRECTORY_WRITE_COMPLETE (R34). With no write in flight nothing happens (log 22). -/
def execDirectoryWriteComplete (s : State) : Host.Outcome State Fault Refusal := .next s.writeCompletes

/-- An attempt has failed (R33). -/
def State.attemptFails (s : State) : State :=
  match s.store.writer with
  | .writing job => s.failAttempt job
  | _ => s

/-- The meaning of ATTEMPT_FAIL (R33). -/
def execAttemptFail (s : State) : Host.Outcome State Fault Refusal := .next s.attemptFails

/-- The meaning of ATTEMPT_TIMEOUT: as a failed read-back (R33). -/
def execAttemptTimeout (s : State) : Host.Outcome State Fault Refusal := .next s.attemptFails

end Sys2Proof.Machine
end

