-- ==== Sys2Proof/Machine/Dispatch.lean ====
section
/-! DEFINITION. One arm per row of the opcode table: a direct call of its meaning. -/

namespace Sys2Proof.Machine

def exec (i : Instr) (s : State) : Host.Outcome State Fault Refusal :=
  match i with
  | .selectFall p => Sys2Proof.Machine.execSelectFall p s
  | .selectRise p => Sys2Proof.Machine.execSelectRise p s
  | .frameError p frame => Sys2Proof.Machine.execFrameError p frame s
  | .unknownCommand p code tag params => Sys2Proof.Machine.execUnknownCommand p code tag params s
  | .waitingRequestTaken p => Sys2Proof.Machine.execWaitingRequestTaken p s
  | .identify p tag => Sys2Proof.Machine.execIdentify p tag s
  | .status p tag => Sys2Proof.Machine.execStatus p tag s
  | .portReset p tag => Sys2Proof.Machine.execPortReset p tag s
  | .unitInfo p tag unit => Sys2Proof.Machine.execUnitInfo p tag unit s
  | .list p tag => Sys2Proof.Machine.execList p tag s
  | .lookup p tag name => Sys2Proof.Machine.execLookup p tag name s
  | .readRecord p tag region => Sys2Proof.Machine.execReadRecord p tag region s
  | .create p tag rights placement first count name => Sys2Proof.Machine.execCreate p tag rights placement first count name s
  | .grow p tag region generation added => Sys2Proof.Machine.execGrow p tag region generation added s
  | .shrink p tag region generation newCount override => Sys2Proof.Machine.execShrink p tag region generation newCount override s
  | .retire p tag region generation override => Sys2Proof.Machine.execRetire p tag region generation override s
  | .grant p tag region generation rights override => Sys2Proof.Machine.execGrant p tag region generation rights override s
  | .hold p tag region generation override => Sys2Proof.Machine.execHold p tag region generation override s
  | .thaw p tag region generation => Sys2Proof.Machine.execThaw p tag region generation s
  | .fix p tag region generation => Sys2Proof.Machine.execFix p tag region generation s
  | .verify p tag handle => Sys2Proof.Machine.execVerify p tag handle s
  | .format p tag => Sys2Proof.Machine.execFormat p tag s
  | .openHandle p tag mode selector => Sys2Proof.Machine.execOpen p tag mode selector s
  | .close p tag handle => Sys2Proof.Machine.execClose p tag handle s
  | .read p tag handle offset length => Sys2Proof.Machine.execRead p tag handle offset length s
  | .program p tag handle offset data => Sys2Proof.Machine.execProgram p tag handle offset data s
  | .erase p tag handle unitOffset count => Sys2Proof.Machine.execErase p tag handle unitOffset count s
  | .query p tag slot useCount => Sys2Proof.Machine.execQuery p tag slot useCount s
  | .cancel p tag slot useCount => Sys2Proof.Machine.execCancel p tag slot useCount s
  | .collect p tag slot useCount => Sys2Proof.Machine.execCollect p tag slot useCount s
  | .directoryWriteComplete => Sys2Proof.Machine.execDirectoryWriteComplete s
  | .attemptFail => Sys2Proof.Machine.execAttemptFail s
  | .attemptTimeout => Sys2Proof.Machine.execAttemptTimeout s
  | .programEnd report => Sys2Proof.Machine.execProgramEnd report s
  | .programTimeout => Sys2Proof.Machine.execProgramTimeout s
  | .eraseEnd report => Sys2Proof.Machine.execEraseEnd report s
  | .eraseTimeout => Sys2Proof.Machine.execEraseTimeout s
  | .markWriteEnd report => Sys2Proof.Machine.execMarkWriteEnd report s
  | .markWriteTimeout => Sys2Proof.Machine.execMarkWriteTimeout s
  | .scanStepEnd => Sys2Proof.Machine.execScanStepEnd s
  | .runSliceExpiry => Sys2Proof.Machine.execRunSliceExpiry s
  | .resetAssert => Sys2Proof.Machine.execResetAssert s
  | .powerLoss => Sys2Proof.Machine.execPowerLoss s
  | .resetRelease => Sys2Proof.Machine.execResetRelease s
  | .powerGood => Sys2Proof.Machine.execPowerGood s
  | .startupComplete => Sys2Proof.Machine.execStartupComplete s
  | .responseSent p => Sys2Proof.Machine.execResponseSent p s
  | .inhibitInputChange p asserted => Sys2Proof.Machine.execInhibitInputChange p asserted s

end Sys2Proof.Machine
end

