-- ==== Sys2Proof/WellFormed.lean ====
section
/-! DEFINITION. Which terms of `Instr` stand for a command or event that a frame or an input of the part can carry. -/

namespace Sys2Proof

/-- A name field has a 1-byte length (R158). -/
def nameFieldFits (name : List Byte) : Bool := decide (name.length ≤ 255)

/-- The selector field of OPEN is spelled by its own form, and its bytes fit a frame (R145, R158): with a selector
neither 0 nor 1 they are at most what a port keeps (log 35). -/
def Selector.wellFormed : Selector → Bool
  | .byName name => nameFieldFits name
  | .byReference _ _ => true
  | .other sel rest => decide (sel ≠ 0 ∧ sel ≠ 1 ∧ rest.length + 2 ≤ keptParams)

/-- A command or event that can reach the part: names and data fit their fields, a FRAME_ERROR's bytes are a complete
request that R148 answers so, an UNKNOWN_COMMAND's code is outside the table of R158. -/
def Instr.wellFormed : Instr → Bool
  | .frameError p frame =>
    match decodeFrame p frame with
    | .badCrc _ => true
    | .badLength _ _ => true
    | _ => false
  | .unknownCommand _ code _ params => decide (Cmd.ofCode code = none ∧ params.length ≤ 65535)
  | .lookup _ _ name => nameFieldFits name
  | .create _ _ _ _ _ _ name => nameFieldFits name
  | .openHandle _ _ _ sel => sel.wellFormed
  | .program _ _ _ _ data => decide (data.length + 5 ≤ keptParams)
  | .selectFall _ | .selectRise _ | .waitingRequestTaken _ | .responseSent _ | .inhibitInputChange _ _ => true
  | .identify _ _ | .status _ _ | .portReset _ _ | .unitInfo _ _ _ | .list _ _ | .readRecord _ _ _ => true
  | .grow _ _ _ _ _ | .shrink _ _ _ _ _ _ | .retire _ _ _ _ _ | .grant _ _ _ _ _ _ | .hold _ _ _ _ _ => true
  | .thaw _ _ _ _ | .fix _ _ _ _ | .verify _ _ _ | .format _ _ | .close _ _ _ => true
  | .read _ _ _ _ _ | .erase _ _ _ _ _ | .query _ _ _ _ | .cancel _ _ _ _ | .collect _ _ _ _ => true
  | .directoryWriteComplete | .attemptFail | .attemptTimeout => true
  | .programEnd _ | .programTimeout | .eraseEnd _ | .eraseTimeout | .markWriteEnd _ | .markWriteTimeout => true
  | .scanStepEnd | .runSliceExpiry => true
  | .resetAssert | .powerLoss | .resetRelease | .powerGood | .startupComplete => true

end Sys2Proof
end

