-- ==== Sys2Proof/Safety.lean ====
section
/-! DEFINITION. The laws the part keeps in every state, in the terms the statements use: each is one of the laws its
chapters name, or what such a law rests on. -/

namespace Sys2Proof.Machine

/-- Held in reset, or STARTING: no directory and no array work (R160, R162). -/
def Device.down : Device → Bool
  | .inReset | .starting => true
  | .ready | .degraded | .recovery | .formatting => false

/-- The header a unit is sure to keep: while the header write of an erase's start may not be over, the header before
it, which is what RESET or power loss may leave; else the unit's header (R10, R17). -/
def State.sureHeader (s : State) (u : Nat) : Header :=
  match s.sched.activity with
  | .erase _ run => if run.unit = u ∧ run.settled = false then run.before else s.array.header u
  | _ => s.array.header u

/-- The laws of the array: the three lists in canonical form; no work while the part is out of service; the map equal to
the headers in service (R4); no erase count above the wear limit (R17); and an erase whose start may not be over has
written the header R10 gives. -/
structure State.ArrayLaw (s : State) : Prop where
  data : Memory.wf s.array.data = true
  headers : sparseWf Header.factory s.array.headers = true
  map : sparseWf UnitFacts.factory s.array.map = true
  quiet : s.device.down = true → s.sched.activity = .idle ∧ s.store.writer = .idle
  agrees : s.device.down = false → ∀ u, s.array.facts u = (s.array.header u).facts
  limit : ∀ u, (s.array.header u).eraseCount ≤ Config.wearLimit
  started : ∀ owner run, s.sched.activity = .erase owner run → run.settled = false →
    s.array.header run.unit = ⟨false, run.before.eraseCount + 1, run.before.fixedMark⟩

/-- Every unit's sure header has in `t` at least the erase count and the fixed mark it had in `s` (R17, R85). -/
def State.HeadersGrow (s t : State) : Prop :=
  ∀ u, (s.sureHeader u).eraseCount ≤ (t.sureHeader u).eraseCount ∧
    ((s.sureHeader u).fixedMark = true → (t.sureHeader u).fixedMark = true)

/-! ## Tables -/

/-- The sizes of an image's lists (R19, R28, R64). -/
def Image.Sized (i : Image) : Prop := i.records.length = Config.recordCount ∧ i.scrub.length ≤ Config.scrubDepth

/-- Whether an image is held by a copy or by the write in flight (R30, R32). -/
def Store.Holds (t : Store) (i : Image) : Prop :=
  t.copy0 = .complete i ∨ t.copy1 = .complete i ∨ ∃ job, t.writer = .writing job ∧ job.image = i

/-- Every table has its size: 32 records, at most 8 scrub extents, 8 handle entries a port, 12 slots; a port holds at
most 8 of them (R19, R64, R87, R123, R126). -/
structure State.TableLaw (s : State) : Prop where
  records : s.dir.records.length = Config.recordCount
  scrub : s.dir.scrub.length ≤ Config.scrubDepth
  images : ∀ i, s.store.Holds i → i.Sized
  handles : ∀ p, (s.port p).handles.length = Config.handleCount
  slots : s.slots.length = Config.slotCount
  quota : ∀ p, s.slots.countP (Slot.ofPort p) ≤ Config.slotQuota

/-! ## Service -/

/-- What the device state says of the rest: out of service nothing works on the array but a FORMAT pass, the writer
writes FORMAT's image alone, and no handle is OPEN; in service no FORMAT runs; in reset no replay cache holds an answer,
nor in STARTING that of a port with a request to take, so that none is replayed (R97, R160 to R162, R170 to R172; log
25). -/
structure State.ServiceLaw (s : State) : Prop where
  pass : ∀ n run, s.sched.activity = .erase (.format n) run → s.device = .formatting ∧
    (∀ job, s.store.writer ≠ .writing job) ∧ run.unit < Config.unitCount
  work : s.loaded = false → s.sched.activity = .idle ∨ ∃ n run, s.sched.activity = .erase (.format n) run
  writes : ∀ job, s.store.writer = .writing job →
    (job.format = false ∧ s.loaded = true) ∨
    (job.format = true ∧ s.device = .formatting ∧ s.sched.activity = .idle)
  closed : s.loaded = false → ∀ p h i, s.handle p h ≠ .opened i
  calm : s.loaded = false → s.sched.queue = [] ∧ s.sched.waiters = []
  fresh : ∀ p, s.device = .inReset ∨
      (s.device = .starting ∧ ((s.port p).framing = .receiving ∨ ∃ i, (s.port p).framing = .waiting i)) →
    (s.port p).cache = none

/-- The array is not idle while a READ, a slot or an eligible scrub extent waits for it (R136, R138). -/
def State.IdleLaw (s : State) : Prop :=
  s.loaded = true → s.sched.activity = .idle →
    s.sched.waiters = [] ∧ s.sched.queue = [] ∧ s.dir.eligible = none

/-! ## Handles -/

/-- No two OPEN handles on one region are in modes that conflict: at most one has mode WRITE or EXCLUSIVE, and an
EXCLUSIVE one is alone (R94). -/
def State.HandleLaw (s : State) : Prop :=
  ∀ p h i q k j, s.handle p h = .opened i → s.handle q k = .opened j → (p, h) ≠ (q, k) → i.region = j.region →
    i.mode.conflicts j.mode = false

/-- An OPEN handle names an ACTIVE record at the generation it recorded (R97). -/
def State.OpenLaw (s : State) : Prop :=
  ∀ p h i, s.handle p h = .opened i → ∃ r, s.dir.record i.region.number = ⟨i.region.generation, .active r⟩

/-! ## Names and places -/

/-- The name in an image's record. -/
def DurableRecord.name (r : DurableRecord) : Option (List Byte) := r.region.map fun g => g.ident.name

/-- No two non-FREE records have one name, in the working directory and in every image (R24). -/
structure State.NameLaw (s : State) : Prop where
  working : ∀ m n x, (s.dir.record m).body.name = some x → (s.dir.record n).body.name = some x → m = n
  images : ∀ i, s.store.Holds i → ∀ m n x,
    (i.records.getD m ⟨0, none⟩).name = some x → (i.records.getD n ⟨0, none⟩).name = some x → m = n

/-- The places of R45 exclude one another: `units n` holds the units of record `n`. -/
structure PlacesApart (units : Nat → Option Extent) (scrub : List Extent) (withdrawn : List Nat) : Prop where
  regions : ∀ (m n : Nat) (e f : Extent) (u : Nat), units m = some e → units n = some f → e.contains u = true → f.contains u = true → m = n
  scrubbed : ∀ (i j : Nat) (e f : Extent) (u : Nat), scrub[i]? = some e → scrub[j]? = some f → e.contains u = true → f.contains u = true → i = j
  apart : ∀ (n : Nat) (e : Extent) (u : Nat), units n = some e → e.contains u = true → u ∉ withdrawn ∧ ∀ f ∈ scrub, f.contains u = false
  inArray : (∀ (n : Nat) (e : Extent), units n = some e → e.first + e.count ≤ Config.unitCount) ∧
    (∀ f ∈ scrub, f.first + f.count ≤ Config.unitCount) ∧ ∀ u ∈ withdrawn, u < Config.unitCount

/-- Every unit has one place, in the working directory and in every image; a scrub erase is of a unit that lies in a
scrub extent (R45, R47). -/
structure State.PlaceLaw (s : State) : Prop where
  working : PlacesApart (fun n => (s.dir.record n).body.units) (s.dir.scrub.map (·.extent)) s.dir.withdrawn
  images : ∀ i, s.store.Holds i → PlacesApart
    (fun n => (i.records.getD n ⟨0, none⟩).region.map fun g => g.extent) i.scrub i.withdrawn
  erasing : ∀ run, s.sched.activity = .erase .scrub run → ∃ f ∈ s.dir.scrub, f.extent.contains run.unit = true
  formatted : ∀ u ∈ s.formatWithdrawn, u < Config.unitCount

/-! ## The queue -/

/-- The slot that the current activity works for (R134). -/
def Activity.slot : Activity → Option Nat
  | .idle => none
  | .program n _ => some n
  | .erase (.slot n) _ => some n
  | .erase .scrub _ => none
  | .erase (.format n) _ => some n
  | .between n _ => some n
  | .scan run => some run.slot
  | .mark run => some run.slot

/-- The kind of work an activity does for its slot (R134). -/
def Activity.Serves : Activity → Work → Prop
  | .program _ _, .program _ _ => True
  | .erase (.slot _) _, .erase _ _ => True
  | .between _ _, .erase _ _ => True
  | .erase (.format _) _, .format => True
  | .scan _, .verify => True
  | .scan _, .fix => True
  | .mark _, .fix => True
  | _, _ => False

/-- The queue holds each QUEUED slot once and no other slot; a QUEUED slot is a PROGRAM, ERASE, VERIFY or FIX; and the
array works for a slot that is RUNNING or SUSPENDED with work of its kind (R134, R135). -/
structure State.QueueLaw (s : State) : Prop where
  once : s.sched.queue.Nodup
  queued : ∀ n, n ∈ s.sched.queue ↔ ∃ b, (s.slot n).body = some b ∧ b.state = .queued
  kinds : ∀ n b, (s.slot n).body = some b → b.state = .queued →
    b.work.writes = true ∨ b.work = .verify ∨ b.work = .fix
  served : ∀ n, s.sched.activity.slot = some n →
    ∃ b, (s.slot n).body = some b ∧ b.state.onArray = true ∧ s.sched.activity.Serves b.work

/-! ## The directory store -/

/-- The current copy holds the image of the durable sequence number, no VALID copy has a higher one, a write never goes
to the current copy, and its image is numbered above every VALID copy (R30, R32, R39); in RECOVERY and FORMATTING no
copy is VALID (R164). Every image a copy or a write holds has a check that agrees (R28), so that a complete copy is a
VALID one. -/
structure State.StoreLaw (s : State) : Prop where
  checked : ∀ i, s.store.Holds i → i.agrees = true
  current : ∀ c, s.store.current = some c → ∃ i, s.store.copy c = .complete i ∧ i.sequence = s.store.durable
  newest : s.loaded = true → ∀ c i, s.store.copy c = .complete i →
    s.store.current = some c ∨ i.sequence.toNat < s.store.durable.toNat
  empty : s.store.current = none → s.store.durable = 0
  apart : ∀ i j, s.store.copy0 = .complete i → s.store.copy1 = .complete j → i.sequence ≠ j.sequence
  target : ∀ job, s.store.writer = .writing job →
    s.store.current ≠ some job.target ∧ 1 ≤ job.attempt ∧ job.attempt ≤ Config.writeAttempts
  number : ∀ job, s.store.writer = .writing job → job.format = false →
    job.image.sequence.toNat = s.store.durable.toNat + 1
  unloaded : s.device = .recovery ∨ s.device = .formatting →
    s.store.current = none ∧ ∀ c i, s.store.copy c ≠ .complete i

/-! ## Requests and answers -/

/-- The mutating commands, as R150 lists them. -/
def mutatingCommands : List Cmd :=
  [.create, .grow, .shrink, .retire, .grant, .hold, .thaw, .fix, .verify, .format, .openHandle, .close, .program,
   .erase, .cancel, .collect]

/-- The control commands, as R155 lists them. -/
def controlCommands : List Cmd := [.create, .grow, .shrink, .retire, .grant, .hold, .thaw, .fix]

/-- The port can take a request now: it is RECEIVING, no earlier command of it is undecided, and the part is out of
reset (R144, R149). -/
structure State.Listens (s : State) (p : Port) : Prop where
  framing : (s.port p).framing = .receiving
  decided : (s.port p).undecided = none
  alive : s.device ≠ .inReset

/-- The port can take a request now, and the request is no repeat of its cached one (R151). -/
structure State.Receives (s : State) (p : Port) (cmd : Cmd) (tag : Byte) : Prop extends s.Listens p where
  fresh : ∀ e, (s.port p).cache = some e → cmd ∉ mutatingCommands ∨ tag = 0 ∨ e.cmd ≠ cmd ∨ e.tag ≠ tag

/-- A response given to a port: sent, or, where the command's select period has ended, lost with the undecided command
emptied (R144). -/
def State.delivered (s : State) (p : Port) (r : Response) : State :=
  s.setPort p (if (s.port p).undecided = none then { s.port p with framing := .responding r }
    else { s.port p with undecided := none })

/-- A command decided in its own select period: the port is RESPONDING, and a mutating command with a nonzero tag is in
the replay cache, in STARTING too (R146, R148, R150). -/
def State.answered (s : State) (p : Port) (cmd : Cmd) (tag : Byte) (st : Status) (result : List Byte)
    (incompleteData : Bool := false) : State :=
  s.setPort p { s.port p with
    framing := .responding ⟨st, tag, false, s.attention p, incompleteData, result⟩
    cache := if cmd ∈ mutatingCommands ∧ tag ≠ 0 ∧ s.device ≠ .inReset
      then some ⟨cmd, tag, ⟨st, tag, false, s.attention p, incompleteData, result⟩⟩ else (s.port p).cache }

end Sys2Proof.Machine

namespace Sys2Proof

/-- A region name (R23). -/
def ValidName (name : List Byte) : Prop :=
  1 ≤ name.length ∧ name.length ≤ 12 ∧ ∀ b ∈ name, 0x21 ≤ b.toNat ∧ b.toNat ≤ 0x7E

/-- A region number (R20). -/
def RegionNumber (b : Byte) : Prop := b.toNat ≤ 31

/-- The parameter values of a request lie in the ranges its rule allows (R148 step 5; R22, R23, R44, R52, R55, R57, R61,
R70, R73, R89, R95, R107, R113, R117, R125, R158). -/
def Instr.InRange : Instr → Prop
  | .unitInfo _ _ u => u.toNat ≤ 1023
  | .lookup _ _ name => ValidName name
  | .readRecord _ _ r => RegionNumber r
  | .create _ _ rights placement first count name =>
    ValidName name ∧ rights.toNat ≤ 2 ∧ 1 ≤ count.toNat ∧ count.toNat ≤ 1024 ∧
      (placement = 0 ∨ placement = 1 ∧ first.toNat + count.toNat ≤ 1024)
  | .grow _ _ r _ n => RegionNumber r ∧ 1 ≤ n.toNat ∧ n.toNat ≤ 1023
  | .shrink _ _ r _ n o => RegionNumber r ∧ 1 ≤ n.toNat ∧ n.toNat ≤ 1023 ∧ o.toNat ≤ 1
  | .retire _ _ r _ o => RegionNumber r ∧ o.toNat ≤ 1
  | .grant _ _ r _ v o => RegionNumber r ∧ v.toNat ≤ 2 ∧ o.toNat ≤ 1
  | .hold _ _ r _ o => RegionNumber r ∧ o.toNat ≤ 1
  | .thaw _ _ r _ => RegionNumber r
  | .fix _ _ r _ => RegionNumber r
  | .verify _ _ h => h.toNat ≤ 7
  | .openHandle _ _ m (.byName name) => m.toNat ≤ 2 ∧ ValidName name
  | .openHandle _ _ m (.byReference r _) => m.toNat ≤ 2 ∧ RegionNumber r
  | .openHandle _ _ _ (.other _ _) => False
  | .close _ _ h => h.toNat ≤ 7
  | .read _ _ h _ n => h.toNat ≤ 7 ∧ 1 ≤ n.toNat ∧ n.toNat ≤ 4096
  | .program _ _ h _ d => h.toNat ≤ 7 ∧ 1 ≤ d.length ∧ d.length ≤ 512
  | .erase _ _ h u n => h.toNat ≤ 7 ∧ u.toNat ≤ 1023 ∧ 1 ≤ n.toNat ∧ n.toNat ≤ 1024
  | .query _ _ n u => n.toNat ≤ 11 ∧ u.toNat ≤ 15
  | .cancel _ _ n u => n.toNat ≤ 11 ∧ u.toNat ≤ 15
  | .collect _ _ n u => n.toNat ≤ 11 ∧ u.toNat ≤ 15
  | _ => True

/-- A frame that completes at a port: a request, a faulty request, or one with a code outside the table (R145, R148). -/
def Instr.FrameAt (i : Instr) (p : Port) : Prop :=
  (∃ tag cmd params, i.request = some (p, tag, cmd, params)) ∨
  (∃ frame, i = .frameError p frame ∧
    ((∃ tag, decodeFrame p frame = .badCrc tag) ∨ ∃ cmd tag, decodeFrame p frame = .badLength cmd tag)) ∨
  ∃ code tag params, i = .unknownCommand p code tag params ∧
    code ∉ [0x01, 0x02, 0x03, 0x04, 0x10, 0x11, 0x12, 0x13, 0x14, 0x15, 0x16, 0x17, 0x18, 0x19, 0x1A, 0x1B, 0x1F, 0x20,
      0x21, 0x30, 0x31, 0x32, 0x40, 0x41, 0x42]

/-- The owner-only region commands, with the region reference they name (R51). -/
def Instr.regionCommand : Instr → Option (Byte × Byte)
  | .grow _ _ r g _ => some (r, g)
  | .shrink _ _ r g _ _ => some (r, g)
  | .retire _ _ r g _ => some (r, g)
  | .grant _ _ r g _ _ => some (r, g)
  | .hold _ _ r g _ => some (r, g)
  | .thaw _ _ r g => some (r, g)
  | .fix _ _ r g => some (r, g)
  | _ => none

/-- The handle that a data command or a VERIFY names (R95). -/
def Instr.handleUsed : Instr → Option Byte
  | .verify _ _ h => some h
  | .read _ _ h _ _ => some h
  | .program _ _ h _ _ => some h
  | .erase _ _ h _ _ => some h
  | _ => none

/-- The ticket that a QUERY, CANCEL or COLLECT names (R125). -/
def Instr.ticketUsed : Instr → Option (Byte × Byte)
  | .query _ _ n u => some (n, u)
  | .cancel _ _ n u => some (n, u)
  | .collect _ _ n u => some (n, u)
  | _ => none

end Sys2Proof

namespace Sys2Proof.Machine

/-! ## What an acceptance rests on -/

/-- The slot check passes and gives the lowest-numbered FREE slot (R123, R126). -/
structure State.OffersSlot (s : State) (p : Port) (n : Nat) : Prop where
  inTable : n < s.slots.length
  free : (s.slot n).body = none
  lowest : ∀ m, m < n → (s.slot m).body ≠ none
  quota : s.slots.countP (Slot.ofPort p) < Config.slotQuota

/-- Units `f` to `f + n - 1` are in the array and all available: in the free pool and GOOD (R48). -/
def State.Fits (s : State) (f n : Nat) : Prop :=
  f + n ≤ Config.unitCount ∧ ∀ u, f ≤ u → u < f + n → s.dir.place u = .free ∧ (s.array.facts u).condition = .good

/-- As `Fits`, where units of scrub extents count as available (R50). -/
def State.FitsLater (s : State) (f n : Nat) : Prop :=
  f + n ≤ Config.unitCount ∧ ∀ u, f ≤ u → u < f + n →
    (s.dir.place u = .free ∧ (s.array.facts u).condition = .good) ∨ ∃ i e, s.dir.place u = .scrub i e

/-- A slot of the region whose work reaches a unit from the new count onward: a PROGRAM whose page lies in a tail unit, an
ERASE with a tail unit in its range, any VERIFY (R58). -/
def SlotBody.ReachesTail (b : SlotBody) (ref : RegionRef) (newCount : Nat) : Prop :=
  b.region = some ref ∧
    ((∃ o d, b.work = .program o d ∧ newCount ≤ o / 8192) ∨ (∃ u c, b.work = .erase u c ∧ newCount < u + c) ∨
      b.work = .verify)

/-- An OPEN handle of the other port that rights with this code invalidate: a READ handle by NONE, a WRITE or EXCLUSIVE
handle by NONE or READ (R69). -/
def HandleInfo.LostBy (i : HandleInfo) (ref : RegionRef) (owner holder : Port) (rights : Byte) : Prop :=
  holder ≠ owner ∧ i.region = ref ∧ ((i.mode = .read ∧ rights = 0) ∨ (i.mode ≠ .read ∧ rights ≠ 2))

/-- Some non-FREE slot satisfies `f`. -/
def State.SomeSlot (s : State) (f : SlotBody → Prop) : Prop := ∃ n b, (s.slot n).body = some b ∧ f b

/-- Some OPEN handle of some port satisfies `f`. -/
def State.SomeOpen (s : State) (f : Port → HandleInfo → Prop) : Prop := ∃ p h i, s.handle p h = .opened i ∧ f p i

/-- RUNNING or SUSPENDED. -/
def SlotState.Working (st : SlotState) : Prop := st = .running ∨ st = .suspended

/-- FIXING or FIXED. -/
def Freeze.Beyond (l : Freeze) : Prop := l = .fixing ∨ ∃ w, l = .fixed w

/-- The checks of its own that an owner-only region command makes, in the order of its rule, each as what refuses the
command and the answer (R55, R57, R61, R70, R73, R75, R76). -/
def State.ownChecks (s : State) (a : Region) : Instr → List (Prop × Status)
  | .grow _ _ _ _ n =>
    [(a.freeze ≠ .openLevel, .frozen), (a.growth ≠ none, .inUse),
      (¬ s.Fits (a.extent.first + a.extent.count) n.toNat, .noRoom)]
  | .shrink _ _ r g n override =>
    [(a.extent.count ≤ n.toNat, .range), (a.freeze ≠ .openLevel, .frozen), (a.growth ≠ none, .inUse),
      (s.SomeSlot fun b => b.ReachesTail ⟨r.toNat, g⟩ n.toNat ∧ b.state.Working, .inUse),
      (override = 0 ∧ s.SomeSlot fun b => b.ReachesTail ⟨r.toNat, g⟩ n.toNat ∧ b.state = .queued, .inUse),
      (8 ≤ s.dir.scrub.length, .scrubFull)]
  | .retire _ _ r g override =>
    [(a.freeze ≠ .openLevel, .frozen), (a.growth ≠ none, .inUse),
      (s.SomeSlot fun b => b.region = some ⟨r.toNat, g⟩ ∧ (b.work.writes = true ∨ b.work = .verify) ∧ b.state.Working,
        .inUse),
      (override = 0 ∧ s.SomeOpen fun _ i => i.region = ⟨r.toNat, g⟩, .inUse),
      (8 ≤ s.dir.scrub.length, .scrubFull)]
  | .grant p _ r g rights override =>
    [(s.SomeSlot fun b => b.state.Working ∧ ∃ q h i, b.port = some q ∧ b.handle = some h ∧ s.handle q h = .opened i ∧
        i.LostBy ⟨r.toNat, g⟩ p q rights, .inUse),
      (override = 0 ∧ s.SomeOpen fun q i => i.LostBy ⟨r.toNat, g⟩ p q rights, .inUse)]
  | .hold _ _ r g override =>
    [(a.freeze ≠ .openLevel, .frozen),
      (s.SomeSlot fun b => b.region = some ⟨r.toNat, g⟩ ∧ b.work.writes = true ∧ b.state.Working, .inUse),
      (override = 0 ∧ ((s.SomeOpen fun _ i => i.region = ⟨r.toNat, g⟩ ∧ i.mode ≠ .read) ∨
        s.SomeSlot fun b => b.region = some ⟨r.toNat, g⟩ ∧ b.work.writes = true ∧ b.state = .queued), .inUse)]
  | .thaw _ _ _ _ => [(a.freeze.Beyond, .frozen)]
  | .fix _ _ _ _ =>
    [(a.freeze.Beyond, .frozen), (a.freeze = .openLevel, .inUse), (a.growth ≠ none, .inUse)]
  | _ => []

/-- The slot check, the last of every command that takes a slot (R51, R126). -/
def State.slotChecks (s : State) (p : Port) : List (Prop × Status) :=
  [(∀ n, n < s.slots.length → (s.slot n).body ≠ none, .slotsFull), (8 ≤ s.slots.countP (Slot.ofPort p), .quota)]

/-- The first of the checks that refuses answers `st` (R51). -/
def FirstRefusal (checks : List (Prop × Status)) (st : Status) : Prop :=
  ∃ before refuses rest, checks = before ++ (refuses, st) :: rest ∧ refuses ∧ ∀ c ∈ before, ¬ c.1

/-- A ticket: slot number and use count (R125). -/
def State.ticketBytes (s : State) (n : Nat) : List Byte := [BitVec.ofNat 8 n, (s.slot n).useCount.setWidth 8]

/-- The slot of an accepted control command, in WAIT_DIR without a target yet (R35, R51). -/
def waitingSlot (p : Port) (work : Work) (ref : RegionRef) : SlotBody :=
  ⟨.waitDir none, some p, work, none, some ref, none, 0, 0, none, none⟩

/-- An acceptance that changes the durable content: the slot in WAIT_DIR, the dirty flag set, and a write started where
the writer is IDLE (R32, R51). -/
def State.awaitsDirectory (s : State) (p : Port) (work : Work) (ref : RegionRef) (n : Nat) : State :=
  State.markDirty { s with slots := s.slots.set n ⟨(s.slot n).useCount, some (waitingSlot p work ref)⟩ }

/-- The slot of accepted array work joins the end of the queue with the next arrival number (R135). -/
def State.joinsQueue (s : State) (p : Port) (work : Work) (handle : Option Nat) (ref : RegionRef) (n : Nat) : State :=
  { s with
    slots := s.slots.set n ⟨(s.slot n).useCount,
      some ⟨.queued, some p, work, handle, some ref, some s.sched.nextArrival, 0, 0, none, none⟩⟩
    sched := { s.sched with queue := s.sched.queue ++ [n], nextArrival := s.sched.nextArrival + 1 } }

/-- What an OPEN's selector names: a reference that resolves, or the record that holds the name (R25, R89). -/
def State.Selects (s : State) (sel : Selector) (ref : RegionRef) : Prop :=
  (s.dir.record ref.number).generation = ref.generation ∧ (s.dir.record ref.number).body ≠ .free ∧
  ((∃ r : Byte, sel = .byReference r ref.generation ∧ ref.number = r.toNat) ∨
    ∃ name, sel = .byName name ∧ (s.dir.record ref.number).body.name = some name)

/-- A slot at the end of its work: a port's takes the state, an orphan's is freed and its use count advances (R128). -/
def Slot.endedAs (useCount : BitVec 4) (b : SlotBody) (st : SlotState) : Slot :=
  if b.port = none then ⟨useCount + 1, none⟩ else ⟨useCount, some { b with state := st }⟩

/-- Every READ that waits is answered with its bytes, in the order they began waiting (R108, R136 step 1). -/
def State.readsServed (s : State) : State :=
  let t := s.sched.waiters.foldl (fun t w => t.delivered w.port
    ⟨.ok, w.tag, false, t.attention w.port, t.array.touchesIncomplete w.address w.length,
      t.array.bytes w.address w.length⟩) s
  { t with sched := { t.sched with waiters := [] } }

end Sys2Proof.Machine
end

