-- ==== Sys2Proof/Certificates/Slice0/Obligations.lean ====
section
/-! DEFINITION. The statements about the model. Each says the rules of spec/ it rests on; where it says a choice of the
model it names the log entry. -/

set_option Elab.async false

open Sys2Proof Sys2Proof.Machine

/-! ## The step -/

/-- Step runs the command at the front of the queue on the state with the queue's rest (log 1). -/
def Obligations.StepRunsTheFrontCommand : Prop :=
  ∀ c rest s, s.pending = c :: rest → step s = exec c { s with pending := rest }

/-- Every command answers a next state, and changes neither the queue (which is the model's choice, log 1) nor, but for
the RESET and power events, the two lines (that they are two lines, each moved by its own events alone, is the model's
choice, log 24). -/
def Obligations.EveryCommandAnswers : Prop :=
  ∀ i s, ∃ t, exec i s = .next t ∧ t.pending = s.pending ∧
    (i ≠ .resetAssert → i ≠ .resetRelease → t.resetAsserted = s.resetAsserted) ∧
    (i ≠ .powerLoss → i ≠ .powerGood → t.powerGood = s.powerGood)

/-! ## Frames -/

/-- The frame of every well-formed request decodes to that request, whatever bytes follow its CRC byte in the select
period (R145, R147, R148, R158). A frame carries at most 517 parameter bytes, an OPEN whose selector is neither 0 nor 1
among them: of R145 and R148 the model follows R145 there, its choice (log 35). -/
def Obligations.RequestFramesDecode : Prop :=
  ∀ (i : Instr) (p : Port) (tag : Byte) (cmd : Cmd) (params extra : List Byte), i.wellFormed = true →
    i.request = some (p, tag, cmd, params) →
    requestFrame i = some (frameBytes cmd.code tag params) ∧
    decodeFrame p (frameBytes cmd.code tag params ++ extra) = .request i

/-- The CRC-8 of two messages that differ in exactly one byte differs (R147). -/
def Obligations.CrcDetectsAChangedByte : Prop :=
  ∀ (pre post : List Byte) (b c : Byte), b ≠ c → crc8 (pre ++ b :: post) ≠ crc8 (pre ++ c :: post)

/-- A request whose CRC byte is wrong, or whose length does not fit its command and that is no repeat of the cached one,
answers FRAME_ERROR with an empty result, and the replay cache stays as it was; a code outside the table answers
UNKNOWN_COMMAND likewise. Nothing else changes (R145, R148 steps 1, 2 and 4, R150). That more than 517 parameter bytes
never fit is R145's; that this holds for a PROGRAM beside R113 is the model's reading (log 21), and for an OPEN whose
selector is neither 0 nor 1, beside R148 step 4, the model's choice (log 35). -/
def Obligations.FaultyFramesAreAnswered : Prop :=
  (∀ (s : State) (p : Port) (code tag crc : Byte) (params extra : List Byte), s.Listens p → params.length ≤ 65535 →
    crc ≠ crc8 (code :: tag :: be16 (BitVec.ofNat 16 params.length) ++ params) →
    exec (.frameError p ((code :: tag :: be16 (BitVec.ofNat 16 params.length) ++ params) ++ crc :: extra)) s =
      .next (s.delivered p ⟨.frameError, tag, false, s.attention p, false, []⟩)) ∧
  (∀ (s : State) (p : Port) (tag : Byte) (cmd : Cmd) (frame : List Byte), s.Receives p cmd tag →
    decodeFrame p frame = .badLength cmd tag →
    exec (.frameError p frame) s = .next (s.delivered p ⟨.frameError, tag, false, s.attention p, false, []⟩)) ∧
  (∀ (s : State) (p : Port) (code tag : Byte) (params : List Byte), s.Listens p →
    code ∉ [0x01, 0x02, 0x03, 0x04, 0x10, 0x11, 0x12, 0x13, 0x14, 0x15, 0x16, 0x17, 0x18, 0x19, 0x1A, 0x1B, 0x1F, 0x20,
      0x21, 0x30, 0x31, 0x32, 0x40, 0x41, 0x42] →
    exec (.unknownCommand p code tag params) s =
      .next (s.delivered p ⟨.unknownCommand, tag, false, s.attention p, false, []⟩))

/-! ## The order of R148 -/

/-- A mutating request with a nonzero tag that equals code and tag of the cached one is answered from the cache with
REPLAYED set and the ATTENTION flag as the line stands, in every device state, and nothing else changes (R151). In
STARTING no port that takes a request holds an entry (R162; log 25), as the law of service says. -/
def Obligations.RepeatsAreReplayed : Prop :=
  ∀ (i : Instr) (s : State) (p : Port) (tag : Byte) (cmd : Cmd) (params : List Byte) (e : CacheEntry),
    i.request = some (p, tag, cmd, params) → s.Listens p → cmd ∈ mutatingCommands → tag ≠ 0 →
    (s.port p).cache = some e → e.cmd = cmd → e.tag = tag →
    exec i s = .next (s.setPort p { s.port p with
      framing := .responding { e.response with replayed := true, attention := s.attention p } })

/-- A request with a parameter value outside its range answers BAD_PARAM in every device state and changes nothing but
the port's framing and cache, which takes the refusal of a mutating command with a nonzero tag (R148 step 5, R150). In
STARTING too it takes it, and the next fall of select empties it of it, so that R162 holds (the moment is log 25). -/
def Obligations.BadParametersAreRefused : Prop :=
  ∀ (i : Instr) (s : State) (p : Port) (tag : Byte) (cmd : Cmd) (params : List Byte),
    i.request = some (p, tag, cmd, params) → s.Receives p cmd tag → ¬ i.InRange →
    exec i s = .next (s.answered p cmd tag .badParam [])

/-- The refusals of the device states, before any block sees the command (R155); and, while a port's inhibit input is
asserted, INHIBITED for the commands of R152 that its device state would let through (R152). Each is placed in the
replay cache where the command is mutating and its tag not 0 (R148, R150), in STARTING too, where the next fall of
select empties it again, so that R162 holds (the moment is log 25). -/
def Obligations.DeviceStateAndInhibitRefusals : Prop :=
  (∀ (i : Instr) (s : State) (p : Port) (tag : Byte) (cmd : Cmd) (params : List Byte),
     i.request = some (p, tag, cmd, params) → s.Receives p cmd tag → i.InRange →
     (s.device = .starting → cmd ≠ .identify → cmd ≠ .status →
       exec i s = .next (s.answered p cmd tag .notReady [])) ∧
     (s.device = .ready ∨ s.device = .degraded → cmd = .format →
       exec i s = .next (s.answered p cmd tag .wrongState [])) ∧
     (s.device = .degraded → cmd ∈ controlCommands → exec i s = .next (s.answered p cmd tag .dirFault [])) ∧
     (s.device = .recovery → cmd ∉ [Cmd.identify, .status, .unitInfo, .portReset, .query, .collect, .format] →
       exec i s = .next (s.answered p cmd tag .wrongState [])) ∧
     (s.device = .formatting → cmd ∉ [Cmd.identify, .status, .unitInfo, .portReset, .query, .collect] →
       exec i s = .next (s.answered p cmd tag .wrongState []))) ∧
  (∀ (i : Instr) (s : State) (p : Port) (tag : Byte) (cmd : Cmd) (params : List Byte),
     i.request = some (p, tag, cmd, params) → s.Receives p cmd tag → i.InRange → (s.port p).inhibit = true →
     (s.device = .ready ∧ cmd ∈ controlCommands) ∨
     (s.loaded = true ∧ (cmd = .program ∨ cmd = .erase)) ∨
     (s.device = .recovery ∧ cmd = .format) ∨
     (s.loaded = true ∧ ∃ m sel, i = .openHandle p tag m sel ∧ m ≠ 0) →
     exec i s = .next (s.answered p cmd tag .inhibited []))

/-- A frame that completes while an earlier command of its port is undecided waits, whatever it asks for and whether it
is faulty or not, and changes nothing else; a frame in WAITING is taken once the earlier command has been decided, and
is then executed as it would have been on arrival, and until then nothing happens (R149; that IDENTIFY, STATUS and
faulty frames wait so too is log 26). The last part says what a waiting IDENTIFY answers. -/
def Obligations.RequestsWaitTheirTurn : Prop :=
  (∀ (i : Instr) (s : State) (p : Port) (earlier : Instr), i.FrameAt p → (s.port p).framing = .receiving →
     s.device ≠ .inReset → (s.port p).undecided = some earlier →
     exec i s = .next (s.setPort p { s.port p with framing := .waiting i })) ∧
  (∀ (i : Instr) (s : State) (p : Port), i.FrameAt p → (s.port p).framing = .waiting i → s.device ≠ .inReset →
     ((s.port p).undecided = none →
       exec (.waitingRequestTaken p) s = exec i (s.setPort p { s.port p with framing := .receiving })) ∧
     ((s.port p).undecided ≠ none → exec (.waitingRequestTaken p) s = .next s)) ∧
  (∀ (s : State) (p : Port) (tag : Byte), (s.port p).framing = .waiting (.identify p tag) →
     (s.port p).undecided = none → exec (.waitingRequestTaken p) s = .next (s.answered p .identify tag .ok
       [0x54, 0x08, 0xD2, 1, if p = .a then 0 else 1, 0x04, 0x00, 0x20, 0x00, 0x02, 0x00, 32, 8, 12, 8, 0xEA, 0x60]))

/-- A request that is answered with anything but OK changes nothing: the port's framing holds the response, its cache
may hold the command, and every other piece of state, the array and the other port among them, stays (R51, R105, R146,
R148, R150). -/
def Obligations.RefusalsChangeNothing : Prop :=
  ∀ (i : Instr) (s t : State) (p : Port) (tag : Byte) (cmd : Cmd) (params : List Byte) (r : Response),
    i.request = some (p, tag, cmd, params) → (s.port p).framing = .receiving → exec i s = .next t →
    (t.port p).framing = .responding r → r.status ≠ .ok →
    t = s.setPort p { s.port p with framing := .responding r, cache := (t.port p).cache } ∧
    ((t.port p).cache = (s.port p).cache ∨
      cmd ∈ mutatingCommands ∧ tag ≠ 0 ∧ (t.port p).cache = some ⟨cmd, tag, r⟩)

/-! ## Port commands and queries -/

/-- IDENTIFY is answered in every device state with its 17 fixed bytes, the port number among them, and changes nothing
(R156). -/
def Obligations.IdentifyAnswers : Prop :=
  ∀ (s : State) (p : Port) (tag : Byte), s.Listens p →
    exec (.identify p tag) s = .next (s.answered p .identify tag .ok
      [0x54, 0x08, 0xD2, 1, if p = .a then 0 else 1, 0x04, 0x00, 0x20, 0x00, 0x02, 0x00, 32, 8, 12, 8, 0xEA, 0x60])

/-- STATUS is answered in every device state: it reports device, writer, directory, notice, handles and slots, and
clears the port's stale-notice flag; nothing else changes (R101, R153, R157, R158; that all is read in one act is the
model's choice, log 16). -/
def Obligations.StatusAnswersAndClearsTheNotice : Prop :=
  ∀ (s : State) (p : Port) (tag : Byte), s.Listens p →
    exec (.status p tag) s = .next
      ((s.setPort p { s.port p with staleNotice := false }).answered p .status tag .ok
        ([s.device.code, s.store.writer.code] ++ be32 (if s.loaded then s.store.durable else 0) ++
          halfOf (if s.loaded then ((List.range 1024).filter fun u => s.dir.place u == .free).length else 0) ++
          [byteOf (if s.loaded then s.dir.scrub.length else 0)] ++
          halfOf (if s.loaded then s.dir.withdrawn.length else s.formatWithdrawn.length) ++
          [if (s.port p).staleNotice then (1 : Byte) else 0] ++
          ((s.port p).handles.flatMap fun h => match h with
            | .closed => [(0 : Byte), 0, 0, 0]
            | .opened i => [1, byteOf i.region.number, i.region.generation, i.mode.code]
            | .stale i => [2, byteOf i.region.number, i.region.generation, i.mode.code]) ++
          byteOf (s.slots.countP (Slot.ofPort p)) ::
          ((List.range s.slots.length).flatMap fun n => match (s.slot n).body with
            | some b => if b.port = some p
              then [byteOf n, (s.slot n).useCount.setWidth 8, b.state.code, b.work.code] else []
            | none => [])))

/-- A PORT_RESET out of STARTING closes every handle of the port, empties its cache, clears its notice, frees its QUEUED
and finished slots, makes the others orphans, returns the regions of its QUEUED FIX slots to HELD and lowers its
attention; the other port, the array, the store and the current activity stay (R77, R103, R128, R129, R154). -/
def Obligations.PortResetClearsThePort : Prop :=
  ∀ (s : State) (p : Port) (tag : Byte), s.Listens p → s.device ≠ .starting →
    ∃ t, exec (.portReset p tag) s = .next t ∧
      t.port p = { s.port p with
        framing := .responding ⟨.ok, tag, false, false, false, []⟩, cache := none, staleNotice := false,
        handles := List.replicate 8 .closed } ∧
      t.port (otherPort p) = s.port (otherPort p) ∧ t.attention p = false ∧
      (∀ n, t.slot n = match (s.slot n).body with
        | none => s.slot n
        | some b =>
          if b.port ≠ some p then s.slot n
          else if b.state = .queued ∨ b.state.finished = true then ⟨(s.slot n).useCount + 1, none⟩
          else ⟨(s.slot n).useCount, some { b with port := none, handle := none }⟩) ∧
      t.sched.queue = s.sched.queue.filter (fun n =>
        !((s.slot n).body.any fun b => b.state == .queued && b.port == some p)) ∧
      t.sched.activity = s.sched.activity ∧ t.sched.waiters = s.sched.waiters ∧
      t.sched.nextArrival = s.sched.nextArrival ∧
      (∀ n, t.dir.record n =
        match (s.dir.record n).body with
        | .active r =>
          if s.slots.any (fun x => x.body.any fun b =>
            b.port == some p && b.state == .queued && b.work == .fix && b.regionNumber == n)
          then { s.dir.record n with body := .active { r with freeze := .held } } else s.dir.record n
        | _ => s.dir.record n) ∧
      t.dir.scrub = s.dir.scrub ∧ t.dir.withdrawn = s.dir.withdrawn ∧ t.array = s.array ∧ t.store = s.store ∧
      t.device = s.device ∧ t.formatWithdrawn = s.formatWithdrawn ∧ t.draws = s.draws

/-- UNIT_INFO reports condition, erase count and fixed mark from the map, and the one place of the unit: its region, its
scrub extent, WITHDRAWN or FREE; without a loaded directory WITHDRAWN for the units of FORMAT's set and UNKNOWN for the
others. It changes nothing (R4, R44, R45, R159). -/
def Obligations.UnitInfoReportsThePlace : Prop :=
  ∀ (s : State) (p : Port) (tag : Byte) (u : Half) (x : List Byte), s.Receives p .unitInfo tag → u.toNat ≤ 1023 →
    s.device ≠ .starting → s.PlaceLaw →
    ((s.loaded = true ∧ ∃ n e, (s.dir.record n).body.units = some e ∧ e.contains u.toNat = true ∧
        x = 0 :: byteOf n :: (s.dir.record n).generation :: halfOf (u.toNat - e.first) ++
          [if (s.dir.extentOf n).contains u.toNat then (0 : Byte) else 1]) ∨
      (s.loaded = true ∧ u.toNat ∈ s.dir.withdrawn ∧ x = [2]) ∨
      (s.loaded = true ∧ u.toNat ∉ s.dir.withdrawn ∧ ∃ i f, s.dir.scrub[i]? = some f ∧
        f.extent.contains u.toNat = true ∧
        x = [1, byteOf (i + 1), if u.toNat < f.extent.first + f.progress then 1 else 0]) ∨
      (s.loaded = true ∧ u.toNat ∉ s.dir.withdrawn ∧ (∀ f ∈ s.dir.scrub, f.extent.contains u.toNat = false) ∧
        (∀ n e, (s.dir.record n).body.units = some e → e.contains u.toNat = false) ∧ x = [3]) ∨
      (s.loaded = false ∧ u.toNat ∈ s.formatWithdrawn ∧ x = [2]) ∨
      (s.loaded = false ∧ u.toNat ∉ s.formatWithdrawn ∧ x = [4])) →
    exec (.unitInfo p tag u) s = .next (s.answered p .unitInfo tag .ok
      ((s.array.facts u.toNat).condition.code :: halfOf (s.array.facts u.toNat).eraseCount ++
        (if (s.array.facts u.toNat).fixedMark then 1 else 0) :: x))

/-- The directory's queries: LIST gives every non-FREE record in ascending number; LOOKUP gives the record that holds
the name, or NO_SUCH_REGION; READ_RECORD gives the 30 bytes of a record, absent fields 0. None changes anything (R20,
R41 to R43, R159). -/
def Obligations.DirectoryQueriesAnswer : Prop :=
  ∀ (s : State) (p : Port) (tag : Byte), s.loaded = true →
    (s.Receives p .list tag →
      exec (.list p tag) s = .next (s.answered p .list tag .ok
        (byteOf (s.dir.records.countP fun r => r.body != .free) ::
          (List.range s.dir.records.length).flatMap fun n => match (s.dir.record n).body.name with
            | some x => byteOf n :: (s.dir.record n).generation :: (s.dir.record n).body.code :: byteOf x.length :: x
            | none => []))) ∧
    (∀ name, s.Receives p .lookup tag → ValidName name →
      (∀ n, s.NameLaw → (s.dir.record n).body.name = some name →
        exec (.lookup p tag name) s = .next (s.answered p .lookup tag .ok
          [byteOf n, (s.dir.record n).generation, (s.dir.record n).body.code])) ∧
      ((∀ n, (s.dir.record n).body.name ≠ some name) →
        exec (.lookup p tag name) s = .next (s.answered p .lookup tag .noSuchRegion []))) ∧
    (∀ n : Byte, s.Receives p .readRecord tag → n.toNat ≤ 31 → ∀ (g : Byte) (b : RecordBody) (x : List Byte),
      s.dir.record n.toNat = ⟨g, b⟩ →
      (b = .free ∧ x = 0 :: g :: List.replicate 27 0) ∨
      (∃ i e, b = .pending i e ∧ x = 1 :: g :: 27 :: byteOf i.name.length :: i.name ++
        List.replicate (12 - i.name.length) 0 ++ halfOf e.first ++ halfOf e.count ++ [0, 0] ++
        [if i.owner = .a then 0 else 1, i.rights.code, 0, 0, 0, 0, 0]) ∨
      (∃ i, b = .retiring i ∧ x = 3 :: g :: 25 :: byteOf i.name.length :: i.name ++
        List.replicate (12 - i.name.length) 0 ++ [0, 0, 0, 0, 0, 0] ++
        [if i.owner = .a then 0 else 1, i.rights.code, 0, 0, 0, 0, 0]) ∨
      (∃ r growth word, b = .active r ∧ r.growth = growth ∧
        (match r.freeze with | .fixed w => w | _ => none) = word ∧
        x = 2 :: g :: (27 + (if growth.isSome then 4 else 0) + (if word.isSome then 32 else 0)) ::
          byteOf r.ident.name.length :: r.ident.name ++ List.replicate (12 - r.ident.name.length) 0 ++
          halfOf r.extent.first ++ halfOf r.extent.count ++ halfOf (growth.getD 0) ++
          [if r.ident.owner = .a then 0 else 1, r.ident.rights.code, r.freeze.code] ++ be32 (word.getD 0)) →
      exec (.readRecord p tag n) s = .next (s.answered p .readRecord tag .ok (n :: x)))

/-! ## Region life -/

/-- An accepted CREATE: the lowest-numbered FREE record becomes PENDING under the name, owned by the issuing port with
the rights given, over the run that the placement gives (for LOWEST the lowest that fits), the lowest-numbered FREE slot
enters WAIT_DIR, the dirty flag is set, and the answer is ticket and region reference (R32, R48, R49, R51 to R53). -/
def Obligations.CreateMakesAPendingRegion : Prop :=
  ∀ (s : State) (p : Port) (tag rights placement : Byte) (first count : Half) (name : List Byte) (v : Rights)
    (record run slot : Nat),
    s.Receives p .create tag → s.device = .ready → (s.port p).inhibit = false →
    Instr.InRange (.create p tag rights placement first count name) → v.code = rights →
    (∀ n, (s.dir.record n).body.name ≠ some name) →
    record < s.dir.records.length → (s.dir.record record).body = .free →
    (∀ m, m < record → (s.dir.record m).body ≠ .free) →
    s.Fits run count.toNat → (placement = 0 → ∀ f, f < run → ¬ s.Fits f count.toNat) →
    (placement = 1 → run = first.toNat) → s.OffersSlot p slot →
    exec (.create p tag rights placement first count name) s = .next
      ((State.awaitsDirectory
        { s with dir := s.dir.setBody record (.pending ⟨name, p, v⟩ ⟨run, count.toNat⟩) } p .create
          ⟨record, (s.dir.record record).generation⟩ slot).answered p .create tag .ok
        (s.ticketBytes slot ++ [byteOf record, (s.dir.record record).generation]))

/-- What refuses a CREATE, in order: NAME_TAKEN, DIR_FULL, SPACE_PENDING or NO_SPACE, SLOTS_FULL or QUOTA (R24, R50,
R52, R126). -/
def Obligations.CreateRefusalsInOrder : Prop :=
  ∀ (s : State) (p : Port) (tag rights placement : Byte) (first count : Half) (name : List Byte),
    s.Receives p .create tag → s.device = .ready → (s.port p).inhibit = false →
    Instr.InRange (.create p tag rights placement first count name) →
    ∀ (i : Instr) (ok : Nat → Prop), i = .create p tag rights placement first count name →
    (∀ f, ok f ↔ (placement = 0 ∨ f = first.toNat)) →
    ((∃ n, (s.dir.record n).body.name = some name) →
      exec i s = .next (s.answered p .create tag .nameTaken [])) ∧
    ((∀ n, (s.dir.record n).body.name ≠ some name) →
      ((∀ n, n < s.dir.records.length → (s.dir.record n).body ≠ .free) →
        exec i s = .next (s.answered p .create tag .dirFull [])) ∧
      (∀ record, record < s.dir.records.length → (s.dir.record record).body = .free →
        ((∀ f, ok f → ¬ s.Fits f count.toNat) →
          ((∃ f, ok f ∧ s.FitsLater f count.toNat) →
            exec i s = .next (s.answered p .create tag .spacePending [])) ∧
          ((∀ f, ok f → ¬ s.FitsLater f count.toNat) →
            exec i s = .next (s.answered p .create tag .noSpace []))) ∧
        ((∃ f, ok f ∧ s.Fits f count.toNat) →
          ((∀ n, n < s.slots.length → (s.slot n).body ≠ none) →
            exec i s = .next (s.answered p .create tag .slotsFull [])) ∧
          ((∃ n, n < s.slots.length ∧ (s.slot n).body = none) →
            Config.slotQuota ≤ s.slots.countP (Slot.ofPort p) →
            exec i s = .next (s.answered p .create tag .quota [])))))

/-- The checks of the owner-only region commands, past those of R148, the first that refuses giving the answer: a
reference that does not resolve is NO_SUCH_REGION, a record that is not ACTIVE is NOT_ACTIVE, a region of the other port
is NOT_OWNER; then the command's own checks in the order of its rule, as `State.ownChecks` lists them (FROZEN, IN_USE,
NO_ROOM, RANGE, SCRUB_FULL), then SLOTS_FULL and QUOTA. So a FIXED region is never thawed, held, fixed again, grown,
shrunk or retired (R22, R51, R55, R57, R58, R61, R69, R70, R73, R75, R76, R86, R126). -/
def Obligations.RegionCommandHead : Prop :=
  ∀ (i : Instr) (s : State) (p : Port) (tag : Byte) (cmd : Cmd) (params : List Byte) (r g : Byte),
    i.request = some (p, tag, cmd, params) → i.regionCommand = some (r, g) → s.Receives p cmd tag →
    s.device = .ready → (s.port p).inhibit = false → i.InRange →
    (((s.dir.record r.toNat).body = .free ∨ (s.dir.record r.toNat).generation ≠ g) →
      exec i s = .next (s.answered p cmd tag .noSuchRegion [])) ∧
    (∀ b, s.dir.record r.toNat = ⟨g, b⟩ → (∃ d e, b = .pending d e) ∨ (∃ d, b = .retiring d) →
      exec i s = .next (s.answered p cmd tag .notActive [])) ∧
    (∀ a, s.dir.record r.toNat = ⟨g, .active a⟩ →
      (a.ident.owner ≠ p → exec i s = .next (s.answered p cmd tag .notOwner [])) ∧
      (a.ident.owner = p →
        (∀ st, FirstRefusal (s.ownChecks a i ++ s.slotChecks p) st → exec i s = .next (s.answered p cmd tag st [])) ∧
        (∀ w, a.freeze = .fixed w → (∀ v o, i ≠ .grant p tag r g v o) →
          (∀ n o, i = .shrink p tag r g n o → n.toNat < a.extent.count) →
          exec i s = .next (s.answered p cmd tag .frozen []))))

/-- An accepted GROW: the units after the extent, all available, become pending growth, and the extent stays (R55, R56).
-/
def Obligations.GrowMakesPendingGrowth : Prop :=
  ∀ (s : State) (p : Port) (tag r g : Byte) (added : Half) (a : Region) (slot : Nat),
    s.Receives p .grow tag → s.device = .ready → (s.port p).inhibit = false →
    Instr.InRange (.grow p tag r g added) → s.dir.record r.toNat = ⟨g, .active a⟩ → a.ident.owner = p →
    a.freeze = .openLevel → a.growth = none → s.Fits (a.extent.first + a.extent.count) added.toNat →
    s.OffersSlot p slot →
    exec (.grow p tag r g added) s = .next
      ((State.awaitsDirectory
        { s with dir := s.dir.setBody r.toNat (.active { a with growth := some added.toNat }) } p .grow
          ⟨r.toNat, g⟩ slot).answered p .grow tag .ok (s.ticketBytes slot))

/-- An accepted SHRINK: the extent is shortened and the tail becomes a scrub extent at the end of the list, not
eligible; with override every QUEUED slot that reaches the tail (a PROGRAM whose page lies in a tail unit, an ERASE with
a tail unit in its range, any VERIFY of the region, whichever port issued it) becomes CANCELLED with cause STALE and
leaves the queue, and no handle becomes STALE (R57 to R59). -/
def Obligations.ShrinkScrubsTheTail : Prop :=
  ∀ (s : State) (p : Port) (tag r g override : Byte) (count : Half) (a : Region) (slot : Nat) (tail : SlotBody → Bool)
    (slots : List Slot) (queue : List Nat),
    s.Receives p .shrink tag → s.device = .ready → (s.port p).inhibit = false →
    Instr.InRange (.shrink p tag r g count override) → s.dir.record r.toNat = ⟨g, .active a⟩ → a.ident.owner = p →
    count.toNat < a.extent.count → a.freeze = .openLevel → a.growth = none →
    (∀ b, tail b = true ↔ b.region = some ⟨r.toNat, g⟩ ∧
      ((∃ o d, b.work = .program o d ∧ count.toNat ≤ o / 8192) ∨ (∃ u c, b.work = .erase u c ∧ count.toNat < u + c) ∨
        b.work = .verify)) →
    (∀ n b, (s.slot n).body = some b → tail b = true → b.state ≠ .running ∧ b.state ≠ .suspended) →
    (override = 0 → (∀ n b, (s.slot n).body = some b → tail b = true → b.state ≠ .queued) ∧
      slots = s.slots ∧ queue = s.sched.queue) →
    (override = 1 →
      slots = s.slots.map (fun x => match x.body with
        | some b => if tail b = true ∧ b.state = .queued
          then ⟨x.useCount, some { b with state := .cancelled .stale }⟩ else x
        | none => x) ∧
      queue = s.sched.queue.filter fun n => !((s.slot n).body.any fun b => tail b && b.state == .queued)) →
    s.dir.scrub.length < 8 → s.OffersSlot p slot →
    exec (.shrink p tag r g count override) s = .next
      ((State.awaitsDirectory
        { s with
          slots := slots
          sched := { s.sched with queue := queue }
          dir := { s.dir with
            records := s.dir.records.set r.toNat ⟨g, .active { a with extent := ⟨a.extent.first, count.toNat⟩ }⟩
            scrub := s.dir.scrub ++
              [⟨⟨a.extent.first + count.toNat, a.extent.count - count.toNat⟩, 0, false⟩] } } p .shrink
          ⟨r.toNat, g⟩ slot).answered p .shrink tag .ok (s.ticketBytes slot))

/-- An accepted RETIRE: the record becomes RETIRING with its name, owner and rights, its extent becomes a scrub extent
at the end of the list, not eligible; with override every OPEN handle on the region is invalidated (R61 to R63). -/
def Obligations.RetireScrubsTheRegion : Prop :=
  ∀ (s t : State) (p : Port) (tag r g override : Byte) (a : Region) (slot : Nat),
    s.Receives p .retire tag → s.device = .ready → (s.port p).inhibit = false →
    Instr.InRange (.retire p tag r g override) → s.dir.record r.toNat = ⟨g, .active a⟩ → a.ident.owner = p →
    a.freeze = .openLevel → a.growth = none →
    (∀ n b, (s.slot n).body = some b → b.region = some ⟨r.toNat, g⟩ →
      (b.work.writes = true ∨ b.work = .verify) → b.state.onArray = false) →
    (override = 0 → ∀ q h i, s.handle q h = .opened i → i.region ≠ ⟨r.toNat, g⟩) →
    s.dir.scrub.length < 8 → s.OffersSlot p slot →
    (override = 0 → t = s) →
    (override = 1 → t = s.invalidate (fun _ i => i.region == ⟨r.toNat, g⟩)) →
    exec (.retire p tag r g override) s = .next
      ((State.awaitsDirectory
        { t with dir := { s.dir with
          records := s.dir.records.set r.toNat ⟨g, .retiring a.ident⟩
          scrub := s.dir.scrub ++ [⟨a.extent, 0, false⟩] } } p .retire
          ⟨r.toNat, g⟩ slot).answered p .retire tag .ok (s.ticketBytes slot))

/-! ## Rights and freezing -/

/-- An accepted GRANT: the rights are replaced; with override every OPEN handle of the other port on the region that the
new rights invalidate (a READ handle by NONE, a WRITE or EXCLUSIVE handle by NONE or READ) is invalidated, and no handle
of the owner is (R69 to R71). -/
def Obligations.GrantReplacesTheRights : Prop :=
  ∀ (s t : State) (p : Port) (tag r g rights override : Byte) (v : Rights) (a : Region) (slot : Nat)
    (lost : Port → HandleInfo → Bool),
    s.Receives p .grant tag → s.device = .ready → (s.port p).inhibit = false →
    Instr.InRange (.grant p tag r g rights override) → v.code = rights →
    s.dir.record r.toNat = ⟨g, .active a⟩ → a.ident.owner = p →
    (∀ q i, lost q i = true ↔ q ≠ p ∧ i.region = ⟨r.toNat, g⟩ ∧
      ((i.mode = .read ∧ v = .none) ∨ (i.mode ≠ .read ∧ v ≠ .readWrite))) →
    (∀ n b q h i, (s.slot n).body = some b → b.port = some q → b.handle = some h → s.handle q h = .opened i →
      lost q i = true → b.state.onArray = false) →
    (override = 0 → ∀ q h i, s.handle q h = .opened i → lost q i = false) →
    s.OffersSlot p slot →
    (override = 0 → t = s) → (override = 1 → t = s.invalidate lost) →
    exec (.grant p tag r g rights override) s = .next
      ((State.awaitsDirectory
        { t with dir := s.dir.setBody r.toNat (.active { a with ident := { a.ident with rights := v } }) } p .grant
          ⟨r.toNat, g⟩ slot).answered p .grant tag .ok (s.ticketBytes slot))

/-- What an override does, in one act: the OPEN handles it names become STALE with their fields kept, each port that had
one gets its stale notice, their QUEUED slots become CANCELLED with cause STALE and leave the queue, and nothing else
changes; and a port's attention is asserted exactly while its notice is set or it holds a finished slot (R62, R71, R74,
R100, R101, R153). -/
def Obligations.OverridesInvalidateHandles : Prop :=
  ∀ (s : State) (lost : Port → HandleInfo → Bool) (t : State), t = s.invalidate lost →
    (∀ p h, t.handle p h = match s.handle p h with
      | .opened i => if lost p i then .stale i else .opened i
      | x => x) ∧
    (∀ p, (t.port p).staleNotice = true ↔
      (s.port p).staleNotice = true ∨ ∃ h i, s.handle p h = .opened i ∧ lost p i = true) ∧
    (∀ p, t.port p = { s.port p with handles := (t.port p).handles, staleNotice := (t.port p).staleNotice } ∧
      (t.port p).handles.length = (s.port p).handles.length) ∧
    (∀ n, t.slot n = match (s.slot n).body with
      | some b =>
        match b.port, b.handle with
        | some p, some h =>
          match s.handle p h with
          | .opened i =>
            if lost p i ∧ b.state = .queued
            then ⟨(s.slot n).useCount, some { b with state := .cancelled .stale }⟩ else s.slot n
          | _ => s.slot n
        | _, _ => s.slot n
      | none => s.slot n) ∧
    t.sched = { s.sched with queue := s.sched.queue.filter fun n => decide (t.slot n = s.slot n) } ∧
    t = { s with portA := t.portA, portB := t.portB, slots := t.slots, sched := t.sched } ∧
    ∀ p, t.attention p = true ↔ (t.port p).staleNotice = true ∨
      ∃ n b, (t.slot n).body = some b ∧ b.port = some p ∧ b.state.finished = true

/-- An accepted HOLD makes an OPEN region HELD, with override invalidating its OPEN handles of mode WRITE or EXCLUSIVE;
an accepted THAW makes a HELD region OPEN and leaves an OPEN one OPEN (R73 to R75). -/
def Obligations.HoldAndThawSetTheLevel : Prop :=
  (∀ (s t : State) (p : Port) (tag r g override : Byte) (a : Region) (slot : Nat),
    s.Receives p .hold tag → s.device = .ready → (s.port p).inhibit = false →
    Instr.InRange (.hold p tag r g override) → s.dir.record r.toNat = ⟨g, .active a⟩ → a.ident.owner = p →
    a.freeze = .openLevel →
    (∀ n b, (s.slot n).body = some b → b.region = some ⟨r.toNat, g⟩ → b.work.writes = true →
      b.state.onArray = false ∧ (override = 0 → b.state ≠ .queued)) →
    (override = 0 → ∀ q h i, s.handle q h = .opened i → i.region = ⟨r.toNat, g⟩ → i.mode = .read) →
    s.OffersSlot p slot →
    (override = 0 → t = s) →
    (override = 1 → t = s.invalidate (fun _ i => i.region == ⟨r.toNat, g⟩ && i.mode != .read)) →
    exec (.hold p tag r g override) s = .next
      ((State.awaitsDirectory
        { t with dir := s.dir.setBody r.toNat (.active { a with freeze := .held }) } p .hold
          ⟨r.toNat, g⟩ slot).answered p .hold tag .ok (s.ticketBytes slot))) ∧
  (∀ (s : State) (p : Port) (tag r g : Byte) (a : Region) (slot : Nat),
    s.Receives p .thaw tag → s.device = .ready → (s.port p).inhibit = false →
    Instr.InRange (.thaw p tag r g) → s.dir.record r.toNat = ⟨g, .active a⟩ → a.ident.owner = p →
    a.freeze = .openLevel ∨ a.freeze = .held → s.OffersSlot p slot →
    exec (.thaw p tag r g) s = .next
      ((State.awaitsDirectory
        { s with dir := s.dir.setBody r.toNat (.active { a with freeze := .openLevel }) } p .thaw
          ⟨r.toNat, g⟩ slot).answered p .thaw tag .ok (s.ticketBytes slot)))

/-- An accepted FIX: a HELD region without pending growth becomes FIXING, the slot joins the queue, no dirty flag is
set, and an idle array makes its offer (R76, R77, R135, R136). -/
def Obligations.FixQueuesItsScan : Prop :=
  ∀ (s : State) (p : Port) (tag r g : Byte) (a : Region) (slot : Nat),
    s.Receives p .fix tag → s.device = .ready → (s.port p).inhibit = false →
    Instr.InRange (.fix p tag r g) → s.dir.record r.toNat = ⟨g, .active a⟩ → a.ident.owner = p →
    a.freeze = .held → a.growth = none → s.OffersSlot p slot →
    exec (.fix p tag r g) s = .next
      ((State.offer (State.joinsQueue
        { s with dir := s.dir.setBody r.toNat (.active { a with freeze := .fixing }) } p .fix none
          ⟨r.toNat, g⟩ slot)).answered p .fix tag .ok (s.ticketBytes slot))

/-! ## FORMAT -/

/-- An accepted FORMAT in RECOVERY: the part is FORMATTING, its withdrawn set is emptied, the slot is RUNNING, and the
pass withdraws the fixed-marked and worn-out units before the first unit `u` that can be erased, and starts its erase
(R10, R170, R171). Where no unit can be erased, all are withdrawn and the writer is handed the empty directory, numbered
one above the highest sequence-number field start-up read, or 1 where it read none; where that field was the last number
the writer enters FAULT (R172). -/
def Obligations.FormatStartsItsPass : Prop :=
  ∀ (s : State) (p : Port) (tag : Byte) (slot : Nat),
    s.Receives p .format tag → s.device = .recovery → (s.port p).inhibit = false → s.store.writer ≠ .fault →
    s.OffersSlot p slot →
    (∀ u, u < 1024 → (s.array.facts u).fixedMark = false → (s.array.facts u).eraseCount < 60000 →
      (∀ v, v < u → (s.array.facts v).fixedMark = true ∨ 60000 ≤ (s.array.facts v).eraseCount) →
      exec (.format p tag) s = .next (State.answered
        { s with
          device := .formatting
          formatWithdrawn := List.range u
          slots := s.slots.set slot ⟨(s.slot slot).useCount,
            some ⟨.running, some p, .format, none, none, none, u, 0, none, none⟩⟩
          array := s.array.writeHeader u
            ⟨false, (s.array.header u).eraseCount + 1, (s.array.header u).fixedMark⟩
          sched := { s.sched with
            activity := .erase (.format slot) ⟨u, s.array.header u, false, false, 0, false, false⟩ } }
        p .format tag .ok (s.ticketBytes slot))) ∧
    ((∀ v, v < 1024 → (s.array.facts v).fixedMark = true ∨ 60000 ≤ (s.array.facts v).eraseCount) → ∀ t : State,
      t = { s with
        device := .formatting
        formatWithdrawn := List.range 1024
        slots := s.slots.set slot ⟨(s.slot slot).useCount,
          some ⟨.running, some p, .format, none, none, none, 1024, 0, none, none⟩⟩
        sched := { s.sched with activity := .idle } } →
      (∀ q : Word, (s.store.highest = none → q = 1) → (∀ h, s.store.highest = some h → q = h + 1) →
        s.store.highest ≠ some 0xFFFFFFFF →
        exec (.format p tag) s = .next (State.answered
          { t with store := { s.store with
            writer := .writing
              ⟨Image.sealed ⟨q, List.replicate 32 ⟨0, none⟩, [], List.range 1024, 0⟩, .copy0, 1, s.dir.records, true⟩ } }
          p .format tag .ok (s.ticketBytes slot))) ∧
      (s.store.highest = some 0xFFFFFFFF →
        exec (.format p tag) s = .next (t.writerFault.answered p .format tag .ok (s.ticketBytes slot))))

/-! ## Handles -/

/-- An accepted OPEN: the lowest-numbered CLOSED entry of the port becomes OPEN with region number, generation and mode,
and nothing else changes (R68, R87 to R92). -/
def Obligations.OpenTakesTheLowestEntry : Prop :=
  ∀ (s : State) (p : Port) (tag mode : Byte) (sel : Selector) (m : Mode) (ref : RegionRef) (a : Region) (h : Nat),
    s.Receives p .openHandle tag → s.loaded = true → Instr.InRange (.openHandle p tag mode sel) → m.code = mode →
    (m ≠ .read → (s.port p).inhibit = false) → s.NameLaw → s.Selects sel ref →
    (s.dir.record ref.number).body = .active a →
    (a.ident.owner = p ∨ (m = .read ∧ a.ident.rights ≠ .none) ∨ a.ident.rights = .readWrite) →
    (m ≠ .read → a.freeze = .openLevel) →
    (∀ q k j, s.handle q k = .opened j → j.region = ref →
      (m = .read ∧ j.mode ≠ .exclusive) ∨ (m = .write ∧ j.mode = .read)) →
    h < (s.port p).handles.length → s.handle p h = .closed → (∀ k, k < h → s.handle p k ≠ .closed) →
    exec (.openHandle p tag mode sel) s = .next
      ((s.setHandle p h (.opened ⟨ref, m⟩)).answered p .openHandle tag .ok
        ([byteOf h, byteOf ref.number, ref.generation, mode] ++ halfOf a.extent.count))

/-- The checks of OPEN in order, whether it names its region by reference or by name: NO_SUCH_REGION where the selector
names none, NOT_ACTIVE, NO_RIGHT, FROZEN, CONFLICT, HANDLES_FULL (R22, R25, R89, R90). -/
def Obligations.OpenRefusalsInOrder : Prop :=
  ∀ (s : State) (p : Port) (tag mode : Byte) (sel : Selector) (m : Mode) (i : Instr),
    s.Receives p .openHandle tag → s.loaded = true → i = .openHandle p tag mode sel → i.InRange → s.NameLaw →
    m.code = mode → (m ≠ .read → (s.port p).inhibit = false) →
    ((∀ ref, ¬ s.Selects sel ref) → exec i s = .next (s.answered p .openHandle tag .noSuchRegion [])) ∧
    (∀ ref b, s.Selects sel ref → (s.dir.record ref.number).body = b →
      ((∀ a, b ≠ .active a) → exec i s = .next (s.answered p .openHandle tag .notActive [])) ∧
      (∀ a, b = .active a →
        ((a.ident.owner ≠ p ∧ (a.ident.rights = .none ∨ (m ≠ .read ∧ a.ident.rights = .read))) →
          exec i s = .next (s.answered p .openHandle tag .noRight [])) ∧
        ((a.ident.owner = p ∨ (m = .read ∧ a.ident.rights ≠ .none) ∨ a.ident.rights = .readWrite) →
          (m ≠ .read ∧ a.freeze ≠ .openLevel →
            exec i s = .next (s.answered p .openHandle tag .frozen [])) ∧
          (m = .read ∨ a.freeze = .openLevel →
            ((∃ q k j, s.handle q k = .opened j ∧ j.region = ref ∧
                (m = .exclusive ∨ j.mode = .exclusive ∨ (m = .write ∧ j.mode = .write))) →
              exec i s = .next (s.answered p .openHandle tag .conflict [])) ∧
            ((∀ q k j, s.handle q k = .opened j → j.region = ref →
                (m = .read ∧ j.mode ≠ .exclusive) ∨ (m = .write ∧ j.mode = .read)) →
              (∀ k, k < (s.port p).handles.length → s.handle p k ≠ .closed) →
              exec i s = .next (s.answered p .openHandle tag .handlesFull []))))))

/-- CLOSE of an OPEN or STALE entry without a live slot makes it CLOSED; of a CLOSED entry it answers BAD_HANDLE, and
while a slot issued through the entry is unfinished HANDLE_BUSY (R98). -/
def Obligations.CloseFreesTheEntry : Prop :=
  ∀ (s : State) (p : Port) (tag h : Byte), s.Receives p .close tag → s.loaded = true → h.toNat ≤ 7 →
    (s.handle p h.toNat = .closed → exec (.close p tag h) s = .next (s.answered p .close tag .badHandle [])) ∧
    (s.handle p h.toNat ≠ .closed →
      ((∃ n b, (s.slot n).body = some b ∧ b.port = some p ∧ b.handle = some h.toNat ∧ b.state.finished = false) →
        exec (.close p tag h) s = .next (s.answered p .close tag .handleBusy [])) ∧
      ((∀ n b, (s.slot n).body = some b → b.port = some p → b.handle = some h.toNat → b.state.finished = true) →
        exec (.close p tag h) s = .next ((s.setHandle p h.toNat .closed).answered p .close tag .ok [])))

/-- READ, PROGRAM, ERASE and VERIFY through a CLOSED entry answer BAD_HANDLE, through a STALE one STALE; PROGRAM and
ERASE through a READ handle answer NO_RIGHT (R95, R105). A QUERY, CANCEL or COLLECT whose slot is FREE, has another use
count or is not the port's answers NO_SUCH_TICKET (R125). -/
def Obligations.HandleAndTicketRefusals : Prop :=
  (∀ (i : Instr) (s : State) (p : Port) (tag h : Byte) (cmd : Cmd) (params : List Byte),
     i.request = some (p, tag, cmd, params) → i.handleUsed = some h → s.Receives p cmd tag → s.loaded = true →
     (cmd = .program ∨ cmd = .erase → (s.port p).inhibit = false) → i.InRange →
     (s.handle p h.toNat = .closed → exec i s = .next (s.answered p cmd tag .badHandle [])) ∧
     (∀ x, s.handle p h.toNat = .stale x → exec i s = .next (s.answered p cmd tag .stale [])) ∧
     (∀ x, s.handle p h.toNat = .opened x → x.mode = .read → cmd = .program ∨ cmd = .erase →
       exec i s = .next (s.answered p cmd tag .noRight []))) ∧
  (∀ (i : Instr) (s : State) (p : Port) (tag n u : Byte) (cmd : Cmd) (params : List Byte),
     i.request = some (p, tag, cmd, params) → i.ticketUsed = some (n, u) → s.Receives p cmd tag → i.InRange →
     s.device ≠ .starting → (cmd = .cancel → s.loaded = true) →
     ((s.slot n.toNat).body = none ∨ (s.slot n.toNat).useCount ≠ u.setWidth 4 ∨
       ∃ b, (s.slot n.toNat).body = some b ∧ b.port ≠ some p) →
     exec i s = .next (s.answered p cmd tag .noSuchTicket []))

/-! ## Data commands -/

/-- An accepted VERIFY, PROGRAM or ERASE takes the lowest-numbered FREE slot, which joins the queue with the next
arrival number and keeps the command's parameters, and an idle array makes its offer; the answer is the ticket (R83,
R96, R106, R113, R114, R117, R118, R135, R136). A PROGRAM or ERASE past its range answers RANGE. -/
def Obligations.DataWorkJoinsTheQueue : Prop :=
  ∀ (s : State) (p : Port) (tag h : Byte) (x : HandleInfo) (e : Extent),
    s.loaded = true → s.handle p h.toNat = .opened x → h.toNat ≤ 7 → e = s.dir.extentOf x.region.number →
    (∀ slot, s.Receives p .verify tag → s.OffersSlot p slot →
      exec (.verify p tag h) s = .next
        ((State.offer (s.joinsQueue p .verify (some h.toNat) x.region slot)).answered p .verify tag .ok
          (s.ticketBytes slot))) ∧
    (∀ (o : Word) (d : List Byte), s.Receives p .program tag → (s.port p).inhibit = false → x.mode ≠ .read →
      1 ≤ d.length → d.length ≤ 512 →
      (∀ slot, o.toNat + d.length ≤ e.count * 8192 → o.toNat / 512 = (o.toNat + d.length - 1) / 512 →
        s.OffersSlot p slot →
        exec (.program p tag h o d) s = .next
          ((State.offer (s.joinsQueue p (.program o.toNat d) (some h.toNat) x.region slot)).answered p .program tag .ok
            (s.ticketBytes slot))) ∧
      (e.count * 8192 < o.toNat + d.length ∨ o.toNat / 512 ≠ (o.toNat + d.length - 1) / 512 →
        exec (.program p tag h o d) s = .next (s.answered p .program tag .range []))) ∧
    (∀ (u n : Half), s.Receives p .erase tag → (s.port p).inhibit = false → x.mode ≠ .read →
      u.toNat ≤ 1023 → 1 ≤ n.toNat → n.toNat ≤ 1024 →
      (∀ slot, u.toNat + n.toNat ≤ e.count → s.OffersSlot p slot →
        exec (.erase p tag h u n) s = .next
          ((State.offer (s.joinsQueue p (.erase u.toNat n.toNat) (some h.toNat) x.region slot)).answered p .erase tag
            .ok (s.ticketBytes slot))) ∧
      (e.count < u.toNat + n.toNat →
        exec (.erase p tag h u n) s = .next (s.answered p .erase tag .range [])))

/-- A READ through an OPEN handle: past the extent it answers RANGE. Within it, at array address `a`: an idle array
serves it at once, with INCOMPLETE_DATA where a unit it touches is INCOMPLETE; during a page program, a scan (where R109
has it performed at once and R139 has it wait: log 34) or a mark phase, and between two units of an ERASE slot, it
waits; during an erase it is refused ERASING where it touches the unit, waits during a suspension, is refused ARRAY_BUSY
once the unit has been suspended 24 times, waits while the run slice lasts, and after the slice has the array asked to
suspend: then the erase is suspended or, if it is writing its mark (a free value, log 10), not (R5, R96, R105 to R112,
R139 to R141). -/
def Obligations.ReadIsDecidedByTheActivity : Prop :=
  ∀ (s w : State) (p : Port) (tag h : Byte) (o : Word) (n : Half) (x : HandleInfo) (e : Extent) (a : Nat),
    s.Receives p .read tag → s.loaded = true → Instr.InRange (.read p tag h o n) →
    s.handle p h.toNat = .opened x → e = s.dir.extentOf x.region.number → a = e.first * 8192 + o.toNat →
    w = State.setPort
      { s with sched := { s.sched with waiters := s.sched.waiters ++ [⟨p, tag, a, n.toNat⟩] } } p
      { s.port p with framing := .executing (.read p tag h o n) } →
    (e.count * 8192 < o.toNat + n.toNat →
      exec (.read p tag h o n) s = .next (s.answered p .read tag .range [])) ∧
    (o.toNat + n.toNat ≤ e.count * 8192 →
      (s.sched.activity = .idle → exec (.read p tag h o n) s = .next (s.answered p .read tag .ok
        ((List.range n.toNat).map fun k => s.array.byte (a + k))
        ((s.array.facts (a / 8192)).condition == .incomplete ||
          (s.array.facts ((a + n.toNat - 1) / 8192)).condition == .incomplete))) ∧
      (((∃ k y, s.sched.activity = .program k y) ∨ (∃ run, s.sched.activity = .scan run) ∨
          (∃ k v, s.sched.activity = .between k v) ∨ ∃ run, s.sched.activity = .mark run) →
        exec (.read p tag h o n) s = .next w) ∧
      (∀ owner run, s.sched.activity = .erase owner run →
        (run.unit = a / 8192 ∨ run.unit = (a + n.toNat - 1) / 8192 →
          exec (.read p tag h o n) s = .next (s.answered p .read tag .erasing [])) ∧
        (run.unit ≠ a / 8192 → run.unit ≠ (a + n.toNat - 1) / 8192 →
          (run.suspended = true → exec (.read p tag h o n) s = .next w) ∧
          (run.suspended = false → 24 ≤ run.suspensions →
            exec (.read p tag h o n) s = .next (s.answered p .read tag .arrayBusy [])) ∧
          (run.suspended = false → run.suspensions < 24 →
            (run.sliceDone = false ∨ run.markWriting = true → exec (.read p tag h o n) s = .next w) ∧
            (run.sliceDone = true → run.markWriting = false →
              exec (.read p tag h o n) s = .next
                (if Config.suspendInTime s.draws = true then
                  (match owner with
                    | .slot k => State.mapSlot
                      ({ w with draws := s.draws + 1 }.setActivity (.erase owner { run with settled := true, suspended := true }))
                      k (fun b => { b with state := .suspended })
                    | _ => { w with draws := s.draws + 1 }.setActivity
                      (.erase owner { run with settled := true, suspended := true }))
                else { w with draws := s.draws + 1 }.setActivity
                  (.erase owner { run with settled := true, markWriting := true })))))))

/-! ## Tickets -/

/-- QUERY answers the 19 bytes of the slot and changes nothing; COLLECT of a finished slot answers its 12 bytes and
frees it, its use count advanced, and of any other slot answers TOO_LATE with its state (R123, R127, R130, R133, R159).
-/
def Obligations.QueryAndCollectAnswer : Prop :=
  ∀ (s : State) (p : Port) (tag n u : Byte) (b : SlotBody) (ref : List Byte) (code : Byte),
    n.toNat ≤ 11 → u.toNat ≤ 15 → s.device ≠ .starting → (s.slot n.toNat).body = some b →
    (s.slot n.toNat).useCount = u.setWidth 4 → b.port = some p →
    (match b.region with | some r => ref = [byteOf r.number, r.generation] | none => ref = [0, 0]) →
    (match b.state with
      | .doneFail c => code = c.code
      | .cancelled c => code = c.code
      | _ => code = 0) →
    (s.Receives p .query tag → exec (.query p tag n u) s = .next (s.answered p .query tag .ok
      ([b.state.code, b.work.code, b.presence] ++ ref ++ [byteOf (b.handle.getD 0)] ++ be32 (b.arrival.getD 0) ++
        halfOf b.progress ++ [(match b.work with | .erase _ _ => byteOf b.suspensions | _ => 0), code] ++
        be32 (b.value.getD 0) ++ [(match b.comparison with
          | some .isMismatch => (1 : Byte) | some .noReference => 2 | _ => 0)]))) ∧
    (s.Receives p .collect tag →
      (b.state.finished = true → exec (.collect p tag n u) s = .next
        (State.answered { s with slots := s.slots.set n.toNat ⟨(s.slot n.toNat).useCount + 1, none⟩ } p .collect tag .ok
          ([b.work.code, b.collectPresence] ++ ref ++ halfOf b.progress ++ [code] ++ be32 (b.value.getD 0) ++
            [(match b.comparison with
              | some .isMismatch => (1 : Byte) | some .noReference => 2 | _ => 0)]))) ∧
      (b.state.finished = false →
        exec (.collect p tag n u) s = .next (s.answered p .collect tag .tooLate [b.state.code])))

/-- CANCEL by the slot's state and kind: a QUEUED slot leaves the queue CANCELLED with cause HOST, a FIX returning its
region to HELD; the unit erase of a RUNNING or SUSPENDED ERASE slot is aborted, its bits as they were or at 1 (a free
value, log 13), all at 1 where it was writing its mark, and the array becomes free; between two units of an ERASE slot
no erase is aborted, the next unit is left as it is, and the array becomes free; a RUNNING VERIFY leaves the CANCEL
undecided until its scan step ends; every other slot answers TOO_LATE with its state (R13, R121, R131, R132). -/
def Obligations.CancelActsByTheSlot : Prop :=
  ∀ (s : State) (p : Port) (tag n u : Byte) (b : SlotBody) (i : Instr),
    i = .cancel p tag n u → s.Receives p .cancel tag → s.loaded = true → n.toNat ≤ 11 → u.toNat ≤ 15 →
    (s.slot n.toNat).body = some b → (s.slot n.toNat).useCount = u.setWidth 4 → b.port = some p →
    (b.state = .queued → ∀ t : State, t = { s with
        slots := s.slots.set n.toNat ⟨(s.slot n.toNat).useCount, some { b with state := .cancelled .host }⟩
        sched := { s.sched with queue := s.sched.queue.filter fun m => m != n.toNat } } →
      (b.work ≠ .fix → exec i s = .next (t.answered p .cancel tag .ok [7])) ∧
      (b.work = .fix → ∀ r a g, b.region = some r → s.dir.record r.number = ⟨g, .active a⟩ →
        exec i s = .next (State.answered
          { t with dir := s.dir.setBody r.number (.active { a with freeze := .held }) } p .cancel tag .ok [7]))) ∧
    (b.state = .running ∨ b.state = .suspended →
      (∀ run, s.sched.activity = .erase (.slot n.toNat) run →
        exec i s = .next (State.answered
          ({ s with
            array := if run.markWriting = true then s.array.eraseData run.unit
              else s.array.partialErase (Config.eraseSets s.draws) run.unit
            slots := s.slots.set n.toNat ⟨(s.slot n.toNat).useCount, some { b with state := .cancelled .host }⟩
            draws := s.draws + 1 }.freeArray)
          p .cancel tag .ok [7])) ∧
      (∀ v, s.sched.activity = .between n.toNat v →
        exec i s = .next (State.answered
          ({ s with
            slots := s.slots.set n.toNat ⟨(s.slot n.toNat).useCount, some { b with state := .cancelled .host }⟩ }.freeArray)
          p .cancel tag .ok [7])) ∧
      (∀ run, s.sched.activity = .scan run → run.slot = n.toNat → b.work = .verify →
        exec i s = .next (State.setPort (s.setActivity (.scan { run with cancel := some (p, tag) })) p
          { s.port p with framing := .executing i })) ∧
      ((∃ y, s.sched.activity = .program n.toNat y) ∨ (∃ run, s.sched.activity = .mark run) ∨
          (∃ run, s.sched.activity = .scan run ∧ b.work = .fix) →
        exec i s = .next (s.answered p .cancel tag .tooLate [b.state.code]))) ∧
    (b.state.isWaitDir = true ∨ b.state.finished = true →
      exec i s = .next (s.answered p .cancel tag .tooLate [b.state.code]))

/-! ## The link -/

/-- A fall of select begins a select period, and in STARTING empties the port's replay cache of the refusal it may hold,
so that no request finds an entry (R162; that it is done at this moment is the model's choice, log 25); a rise ends the
period from any state, an EXECUTING command becoming the undecided one; the end of a response leaves the port FINISHED;
the inhibit input is a level the port keeps. Nothing else changes (R144, R146, R152). In reset the framing does not
follow select (R160). -/
def Obligations.LinkEventsMoveTheFraming : Prop :=
  ∀ (s : State) (p : Port),
    ((s.port p).selectLow = false → s.device ≠ .inReset → exec (.selectFall p) s =
      .next (s.setPort p { s.port p with
        selectLow := true
        framing := .receiving
        cache := if s.device = .starting then none else (s.port p).cache })) ∧
    ((s.port p).selectLow = false → s.device = .inReset → exec (.selectFall p) s =
      .next (s.setPort p { s.port p with selectLow := true })) ∧
    (∀ i, (s.port p).framing = .executing i → exec (.selectRise p) s =
      .next (s.setPort p { s.port p with selectLow := false, framing := .idle, undecided := some i })) ∧
    ((∀ i, (s.port p).framing ≠ .executing i) → exec (.selectRise p) s =
      .next (s.setPort p { s.port p with selectLow := false, framing := .idle })) ∧
    (∀ r, (s.port p).framing = .responding r → exec (.responseSent p) s =
      .next (s.setPort p { s.port p with framing := .finished })) ∧
    (∀ v, exec (.inhibitInputChange p v) s = .next (s.setPort p { s.port p with inhibit := v }))

/-! ## The directory writer -/

/-- A change to the durable content: while the writer is busy or in FAULT the dirty flag alone is set; while it is IDLE
a write starts at once, with the next sequence number, the flag cleared, the copy that is not current as its target and
every WAIT_DIR slot without a target given this write; where no number is left the writer enters FAULT. The image holds
PENDING regions and pending growth as they are to be, RETIRING records as FREE at the next generation, and a FIXING
region as FIXED with the check word its slot holds, else as HELD; its check is the CRC-32 over the rest of it (R28 to
R32, R35, R37; the layout of the bytes the CRC-32 runs over is the model's choice, log 17). -/
def Obligations.ChangesStartAWrite : Prop :=
  (∀ s : State, s.store.writer ≠ .idle → s.markDirty = { s with store := { s.store with dirty := true } }) ∧
  (∀ s : State, s.store.writer = .idle → s.store.durable ≠ 0xFFFFFFFF → s.markDirty = { s with
    store := { s.store with
      dirty := false
      writer := .writing ⟨s.capture (s.store.durable + 1),
        if s.store.current = some .copy0 then .copy1 else .copy0, 1, s.dir.records, false⟩ }
    slots := s.slots.map fun x => match x.body with
      | some b => if b.state = .waitDir none
        then ⟨x.useCount, some { b with state := .waitDir (some (s.store.durable + 1)) }⟩ else x
      | none => x }) ∧
  (∀ s : State, s.store.writer = .idle → s.store.durable = 0xFFFFFFFF →
    s.markDirty = State.writerFault { s with store := { s.store with dirty := true } }) ∧
  (∀ (s : State) (q : Word) (i : Image), i = s.capture q →
    i.sequence = q ∧ i.records.length = s.dir.records.length ∧ i.scrub = s.dir.scrub.map (·.extent) ∧
    i.withdrawn = s.dir.withdrawn ∧ i.check = crc32 i.content ∧
    ∀ n r, s.dir.records[n]? = some r → ∀ x, i.records[n]? = some x →
      (r.body = .free → x = ⟨r.generation, none⟩) ∧
      (∀ d e, r.body = .pending d e → x = ⟨r.generation, some ⟨d, e, .openLevel⟩⟩) ∧
      (∀ d, r.body = .retiring d → x = ⟨r.generation + 1, none⟩) ∧
      (∀ a, r.body = .active a → ∃ l, x = ⟨r.generation,
          some ⟨a.ident, ⟨a.extent.first, a.extent.count + a.growth.getD 0⟩, l⟩⟩ ∧
        (a.freeze = .openLevel → l = .openLevel) ∧ (a.freeze = .held → l = .held) ∧
        (∀ w, a.freeze = .fixed w → l = .fixed w) ∧
        (a.freeze = .fixing →
          (∀ w, s.fixWord ⟨n, r.generation⟩ = some w → l = .fixed (some w)) ∧
          (s.fixWord ⟨n, r.generation⟩ = none → l = .held))))

/-- A failed attempt, or one that timed out: the target copy is DAMAGED (what its sequence-number field reads is a free
value, log 15); before the third the same write is attempted again, after the third the writer enters FAULT (R33). Then
READY becomes DEGRADED and FORMATTING RECOVERY, every slot in WAIT_DIR and a RUNNING FORMAT slot end DONE_FAIL with
DIR_FAULT, orphans are freed, and everything else stays (R37, R172). -/
def Obligations.FailedAttemptsRepeatOrDegrade : Prop :=
  (∀ (s : State) (i : Instr) (job : WriteJob), i = .attemptFail ∨ i = .attemptTimeout → s.store.writer = .writing job →
     (job.attempt < 3 → exec i s = .next { s with
       store := { s.store.setCopy job.target (.damaged (Config.damagedField s.draws)) with
         writer := .writing { job with attempt := job.attempt + 1 } }
       draws := s.draws + 1 }) ∧
     (3 ≤ job.attempt → exec i s = .next (State.writerFault { s with
       store := s.store.setCopy job.target (.damaged (Config.damagedField s.draws))
       draws := s.draws + 1 }))) ∧
  (∀ (s t : State), t = s.writerFault →
     t.device = (if s.device = .ready then .degraded else if s.device = .formatting then .recovery else s.device) ∧
     (∀ n, t.slot n = match (s.slot n).body with
       | some b => if b.state.isWaitDir = true ∨ (b.work = .format ∧ b.state = .running)
         then Slot.endedAs (s.slot n).useCount b (.doneFail .dirFault) else s.slot n
       | none => s.slot n) ∧
     t.slots.length = s.slots.length ∧
     t = { s with device := t.device, slots := t.slots, store := { s.store with writer := .fault } })

/-- A completed write: the target copy holds the image and is current, its number is durable and the writer IDLE;
PENDING records become ACTIVE, RETIRING ones FREE at the next generation, carried growth joins the extent, a FIXING
region the image carried as FIXED is FIXED with its check word, carried scrub extents are eligible, and the slots of
this write are DONE_OK; then a set dirty flag starts the next write, and a free array makes its offer (R22, R32, R34,
R136). FORMAT's write enters READY with its empty directory (R172). -/
def Obligations.CompletedWritesSettleTheDirectory : Prop :=
  ∀ (s u : State) (job : WriteJob), s.store.writer = .writing job →
    (job.format = false →
      u = { s with
        store := { s.store.setCopy job.target (.complete job.image) with
          current := some job.target, durable := job.image.sequence, writer := .idle }
        dir := u.dir
        slots := u.slots } →
      u.dir.records.length = s.dir.records.length → u.dir.withdrawn = s.dir.withdrawn →
      u.dir.scrub = s.dir.scrub.map (fun f =>
        if f.extent ∈ job.image.scrub then { f with eligible := true } else f) →
      (∀ n r c x, s.dir.records[n]? = some r → c = job.captured.getD n ⟨0, .free⟩ →
        x = job.image.records.getD n ⟨0, none⟩ →
        u.dir.records[n]? = some (match c.body, r.body with
          | .pending _ _, .pending d e => ⟨r.generation, .active ⟨d, e, none, .openLevel⟩⟩
          | .retiring _, .retiring _ => ⟨r.generation + 1, .free⟩
          | .active old, .active a => ⟨r.generation, .active { a with
              extent := if old.growth.isSome then ⟨a.extent.first, a.extent.count + a.growth.getD 0⟩ else a.extent
              growth := if old.growth.isSome then none else a.growth
              freeze := match a.freeze, x.region.map DurableRegion.freeze with
                | .fixing, some (.fixed w) => .fixed w
                | l, _ => l }⟩
          | _, _ => r)) →
      u.slots = s.slots.map (fun x => match x.body with
        | some b => if b.state = .waitDir (some job.image.sequence) then Slot.endedAs x.useCount b .doneOk else x
        | none => x) →
      exec .directoryWriteComplete s = .next (State.offer (if s.store.dirty then u.markDirty else u))) ∧
    (job.format = true → exec .directoryWriteComplete s = .next { s with
      device := .ready
      store := { s.store.setCopy job.target (.complete job.image) with
        current := some job.target, durable := job.image.sequence, writer := .idle, dirty := false }
      dir := ⟨List.replicate 32 ⟨0, .free⟩, [], job.image.withdrawn⟩
      slots := s.slots.map fun x => match x.body with
        | some b => if b.work = .format ∧ b.state = .running then Slot.endedAs x.useCount b .doneOk else x
        | none => x })

/-! ## The array -/

/-- The offer of the array (R136 to R138): an array that is not free, or a part out of service, makes none; a free one
serves the waiting READs in order, then starts the head of the queue (a scan at once; a program unless its unit is
INCOMPLETE, an erase unless its unit is at the limit, which end their slots and pass the offer on; R7, R10, R115, R116,
R119, R120; that a slot whose unit is at the limit keeps its suspension count is the model's choice, log 32), then the first eligible scrub extent: its next unit is erased, or is passed over where it is withdrawn, or
is withdrawn without the array where it is at the limit; an extent whose progress has reached its count leaves the list
and sets the dirty flag (R65, R67); else it is idle. -/
def Obligations.OffersFollowTheOrder : Prop :=
  ∀ (s : State),
    (s.sched.activity ≠ .idle ∨ s.loaded = false → s.offer = s) ∧
    (s.sched.activity = .idle → s.loaded = true →
      s.offer = s.readsServed.offer ∧
      (s.sched.waiters = [] → ∀ n rest b u, s.sched.queue = n :: rest → (s.slot n).body = some b →
        n < s.slots.length →
        u = { s with sched := { s.sched with queue := rest } } →
        (b.work = .verify ∨ b.work = .fix → s.offer = { u with
          slots := s.slots.set n ⟨(s.slot n).useCount, some { b with state := .running }⟩
          sched := { u.sched with
            activity := .scan ⟨n, s.dir.extentOf b.regionNumber, 0, 0xFFFFFFFF, none⟩ } }) ∧
        (∀ o d a, b.work = .program o d → s.startChecks b = true →
          a = (s.dir.extentOf b.regionNumber).first * 8192 + o →
          ((s.array.facts (a / 8192)).condition ≠ .incomplete → s.offer = { u with
            slots := s.slots.set n ⟨(s.slot n).useCount, some { b with state := .running }⟩
            sched := { u.sched with activity := .program n a } }) ∧
          ((s.array.facts (a / 8192)).condition = .incomplete → s.offer = State.offer { u with
            slots := s.slots.set n (Slot.endedAs (s.slot n).useCount b (.doneFail .unitIncomplete)) })) ∧
        (∀ x c v, b.work = .erase x c → s.startChecks b = true →
          v = (s.dir.extentOf b.regionNumber).first + x →
          ((s.array.facts v).eraseCount < 60000 → s.offer = { u with
            slots := s.slots.set n ⟨(s.slot n).useCount, some { b with state := .running, suspensions := 0 }⟩
            array := s.array.eraseStart v
            sched := { u.sched with
              activity := .erase (.slot n) ⟨v, s.array.header v, false, false, 0, false, false⟩ } }) ∧
          (60000 ≤ (s.array.facts v).eraseCount → s.offer = State.offer { u with
            slots := s.slots.set n (Slot.endedAs (s.slot n).useCount b (.doneFail .worn)) }))) ∧
      (s.sched.waiters = [] → s.sched.queue = [] →
        (s.dir.scrub.all (fun f => !f.eligible) = true → s.offer = s) ∧
        (∀ (k : Nat) (f : ScrubExtent) (v : Nat) (scrub : List ScrubExtent) (w : State),
          s.dir.scrub[k]? = some f → f.eligible = true →
          (∀ (j : Nat) (g : ScrubExtent), j < k → s.dir.scrub[j]? = some g → g.eligible = false) →
          v = f.extent.first + f.progress → scrub = s.dir.scrub.set k { f with progress := f.progress + 1 } →
          (f.extent.count ≤ f.progress →
            s.offer = State.offer (State.markDirty { s with dir := { s.dir with scrub := s.dir.scrub.eraseIdx k } })) ∧
          (f.progress < f.extent.count → v ∉ s.dir.withdrawn → (s.array.facts v).eraseCount < 60000 →
            s.offer = { s with
              array := s.array.eraseStart v
              sched := { s.sched with
                activity := .erase .scrub ⟨v, s.array.header v, false, false, 0, false, false⟩ } }) ∧
          (f.progress < f.extent.count → v ∈ s.dir.withdrawn →
            (f.progress + 1 < f.extent.count →
              s.offer = State.offer { s with dir := { s.dir with scrub := scrub } }) ∧
            (f.extent.count = f.progress + 1 →
              s.offer = State.offer (State.markDirty
                { s with dir := { s.dir with scrub := s.dir.scrub.eraseIdx k } }))) ∧
          (f.progress < f.extent.count → v ∉ s.dir.withdrawn → 60000 ≤ (s.array.facts v).eraseCount →
            w = State.markDirty
              { s with dir := { s.dir with scrub := scrub, withdrawn := unitInsert v s.dir.withdrawn } } →
            (f.progress + 1 < f.extent.count → s.offer = w.offer) ∧
            (f.extent.count = f.progress + 1 →
              s.offer = State.offer (State.markDirty
                { w with dir := { w.dir with scrub := s.dir.scrub.eraseIdx k } }))))))

/-- What the array's operations leave: the start of an erase writes the mark absent and the count one higher, with the
fixed mark and every data byte as they were; its normal end leaves every byte 0xFF, the mark present, and the unit WORN
at the count of 60000, else GOOD; an erase that faulted or was cut can only turn bits to 1, and leaves all at 1 where
its mark was being written; a mark write changes the fixed mark alone, in the header and in the map. No other unit is
touched, and a unit joins a sorted set of units without changing its other members (R3, R4, R10, R11, R13 to R15, R18,
R47). -/
def Obligations.ArrayOperationsOnAUnit : Prop :=
  ∀ (a : ArrayState) (u v x : Nat) (sets : Nat → Byte) (run : EraseRun) (l : List Nat),
    Memory.wf a.data = true → sparseWf Header.factory a.headers = true → sparseWf UnitFacts.factory a.map = true →
    ((a.eraseStart u).header v =
        (if v = u then ⟨false, (a.header u).eraseCount + 1, (a.header u).fixedMark⟩ else a.header v) ∧
      (a.eraseStart u).facts v =
        (if v = u then ⟨.incomplete, (a.header u).eraseCount + 1, (a.header u).fixedMark⟩ else a.facts v) ∧
      (a.eraseStart u).byte x = a.byte x) ∧
    ((a.eraseDone u).header v =
        (if v = u then ⟨true, (a.header u).eraseCount, (a.header u).fixedMark⟩ else a.header v) ∧
      (a.eraseDone u).facts v = (if v = u then
        ⟨if (a.header u).eraseCount < 60000 then .good else .worn, (a.header u).eraseCount, (a.header u).fixedMark⟩
        else a.facts v) ∧
      (a.eraseDone u).byte x = (if x / 8192 = u then 0xFF else a.byte x)) ∧
    ((a.partialErase sets u).header v = a.header v ∧ (a.partialErase sets u).facts v = a.facts v ∧
      (a.partialErase sets u).byte x = (if x / 8192 = u then a.byte x ||| sets x else a.byte x)) ∧
    ((a.stopErase run sets).header v = a.header v ∧ (a.stopErase run sets).facts v = a.facts v ∧
      (a.stopErase run sets).byte x = (if x / 8192 = run.unit
        then (if run.markWriting = true then 0xFF else a.byte x ||| sets x) else a.byte x)) ∧
    ((a.markUnit u).header v = (if v = u then ⟨(a.header u).eraseMark, (a.header u).eraseCount, true⟩ else a.header v) ∧
      (a.markUnit u).facts v = (if v = u then
        ⟨if (a.header u).eraseMark = false then .incomplete
          else if (a.header u).eraseCount < 60000 then .good else .worn, (a.header u).eraseCount, true⟩
        else a.facts v) ∧
      (a.markUnit u).byte x = a.byte x) ∧
    (v ∈ unitInsert u l ↔ v = u ∨ v ∈ l)

/-- The end of a page program: with success every byte of its range is the AND of old and new and the slot is DONE_OK
with progress 1; with ARRAY_FAULT or after its timeout each byte is the AND or as it was (a free value, log 12) and the
slot is DONE_FAIL with ARRAY_FAULT; every other byte, every header and the map stay, and the array makes its offer (R6,
R8, R116, R127, R136). -/
def Obligations.ProgramsEnd : Prop :=
  ∀ (s : State) (n a : Nat) (b : SlotBody) (o : Nat) (d : List Byte) (after : ArrayState),
    s.sched.activity = .program n a → n < s.slots.length → (s.slot n).body = some b → b.work = .program o d →
    Memory.wf s.array.data = true → Memory.wf after.data = true → after.headers = s.array.headers →
    after.map = s.array.map →
    ((∀ x, after.byte x = if a ≤ x ∧ x < a + d.length then s.array.byte x &&& d.getD (x - a) 0 else s.array.byte x) →
      exec (.programEnd .success) s = .next (State.offer { s with
        array := after
        slots := s.slots.set n (Slot.endedAs (s.slot n).useCount { b with progress := 1 } .doneOk)
        sched := { s.sched with activity := .idle } })) ∧
    ((∀ x, after.byte x = if a ≤ x ∧ x < a + d.length ∧ Config.programLanded s.draws x = true
        then s.array.byte x &&& d.getD (x - a) 0 else s.array.byte x) →
      ∀ i, i = .programEnd .arrayFault ∨ i = .programTimeout →
      exec i s = .next (State.offer { s with
        array := after
        slots := s.slots.set n (Slot.endedAs (s.slot n).useCount b (.doneFail .arrayFault))
        sched := { s.sched with activity := .idle }
        draws := s.draws + 1 }))

/-- The end of a unit erase of an ERASE slot that is not suspended: with success progress advances, the READs that wait
are served, and the slot stands between two units, or after the last ends DONE_OK; with ARRAY_FAULT or after its timeout
it ends with progress as it stood, its data all at 1 where its mark was being written, else each bit as it was or at 1
(a free value, log 13) (R11, R14, R119, R120, R139). That the act ends between two units, with the next unit started by a
later act, is the model's choice (logs 2 and 19): R136 step 2 goes on with the slot as the array becomes free, and
spec/95 lists ERASE_START within ERASE_END. -/
def Obligations.SlotErasesEnd : Prop :=
  ∀ (s : State) (n : Nat) (run : EraseRun) (b : SlotBody) (u c : Nat) (done : ArrayState),
    s.sched.activity = .erase (.slot n) run → run.suspended = false → n < s.slots.length →
    (s.slot n).body = some b → b.work = .erase u c → done = s.array.eraseDone run.unit →
    (b.progress + 1 < c → exec (.eraseEnd .success) s = .next (State.setActivity
      (State.readsServed { s with
        array := done
        slots := s.slots.set n ⟨(s.slot n).useCount, some { b with progress := b.progress + 1 }⟩ })
      (.between n (run.unit + 1)))) ∧
    (c ≤ b.progress + 1 →
      exec (.eraseEnd .success) s = .next (State.offer { s with
        array := done
        slots := s.slots.set n (Slot.endedAs (s.slot n).useCount { b with progress := b.progress + 1 } .doneOk)
        sched := { s.sched with activity := .idle } })) ∧
    (∀ i, i = .eraseEnd .arrayFault ∨ i = .eraseTimeout →
      exec i s = .next (State.offer { s with
        array := if run.markWriting = true then s.array.eraseData run.unit
          else s.array.partialErase (Config.eraseSets s.draws) run.unit
        slots := s.slots.set n (Slot.endedAs (s.slot n).useCount b (.doneFail .arrayFault))
        sched := { s.sched with activity := .idle }
        draws := s.draws + 1 }))

/-- The end of a scrub erase: progress advances; a unit left below the limit by a normal end is clean, and one that
faulted or reached the limit joins the withdrawn set, which sets the dirty flag; after the last unit of an extent the
extent leaves the list, its units that are not withdrawn are in the free pool, and the dirty flag is set; the array
makes its offer. The end of an erase of the FORMAT pass: the unit joins FORMAT's set where it faulted or reached the
limit, and so do the units after it that carry a fixed mark or are at the limit, unerased; the next unit that can be
erased is started, and after unit 1023 the writer is handed the new image, or enters FAULT where no number is left (R66,
R67, R136, R171, R172; what a faulted erase leaves in its unit is a free value, log 13). -/
def Obligations.ScrubAndFormatErasesEnd : Prop :=
  (∀ (s : State) (i : Instr) (run : EraseRun) (k : Nat) (f : ScrubExtent) (scrub : List ScrubExtent) (after : ArrayState)
    (d : Nat) (clean : Bool) (t w : State),
    s.sched.activity = .erase .scrub run → run.suspended = false → s.dir.scrub[k]? = some f → f.eligible = true →
    (∀ (j : Nat) (g : ScrubExtent), j < k → s.dir.scrub[j]? = some g → g.eligible = false) →
    scrub = s.dir.scrub.set k { f with progress := f.progress + 1 } →
    (i = .eraseEnd .success ∧ after = s.array.eraseDone run.unit ∧ d = s.draws ∧
        clean = decide ((after.facts run.unit).eraseCount < 60000)) ∨
      ((i = .eraseEnd .arrayFault ∨ i = .eraseTimeout) ∧ clean = false ∧ d = s.draws + 1 ∧
        after = s.array.stopErase run (Config.eraseSets s.draws)) →
    t = { s with array := after, sched := { s.sched with activity := .idle }, draws := d } →
    w = State.markDirty
      { t with dir := { s.dir with scrub := scrub, withdrawn := unitInsert run.unit s.dir.withdrawn } } →
    (f.progress + 1 < f.extent.count →
      exec i s = .next (State.offer (if clean then { t with dir := { s.dir with scrub := scrub } } else w))) ∧
    (f.extent.count ≤ f.progress + 1 →
      exec i s = .next (State.offer (State.markDirty (if clean
        then { t with dir := { s.dir with scrub := s.dir.scrub.eraseIdx k } }
        else { w with dir := { w.dir with scrub := s.dir.scrub.eraseIdx k } }))) ∧
      (s.PlaceLaw → ∀ u, f.extent.contains u = true → u ∉ s.dir.withdrawn →
        Directory.place { s.dir with scrub := s.dir.scrub.eraseIdx k } u = .free))) ∧
  (∀ (s : State) (i : Instr) (n : Nat) (run : EraseRun) (b : SlotBody) (after : ArrayState) (d : Nat)
    (gone : List Nat) (t : Nat → State) (unfit : Nat → Prop),
    s.sched.activity = .erase (.format n) run → run.suspended = false → n < s.slots.length →
    (s.slot n).body = some b → run.unit < 1024 →
    (i = .eraseEnd .success ∧ after = s.array.eraseDone run.unit ∧ d = s.draws ∧
        gone = (if (after.facts run.unit).eraseCount < 60000 then s.formatWithdrawn
          else unitInsert run.unit s.formatWithdrawn)) ∨
      ((i = .eraseEnd .arrayFault ∨ i = .eraseTimeout) ∧ d = s.draws + 1 ∧
        after = s.array.stopErase run (Config.eraseSets s.draws) ∧
        gone = unitInsert run.unit s.formatWithdrawn) →
    (∀ u, unfit u ↔ (after.facts u).fixedMark = true ∨ 60000 ≤ (after.facts u).eraseCount) →
    (∀ u, t u = { s with
      array := after
      formatWithdrawn := (List.range' (run.unit + 1) (u - (run.unit + 1))).foldl (fun l v => unitInsert v l) gone
      slots := s.slots.set n ⟨(s.slot n).useCount, some { b with progress := b.progress + (u - run.unit) }⟩
      draws := d }) →
    (∀ u, run.unit < u → u < 1024 → (∀ v, run.unit < v → v < u → unfit v) → ¬ unfit u →
      exec i s = .next { t u with
        array := after.eraseStart u
        sched := { s.sched with
          activity := .erase (.format n) ⟨u, after.header u, false, false, 0, false, false⟩ } }) ∧
    ((∀ v, run.unit < v → v < 1024 → unfit v) →
      (∀ q : Word, (s.store.highest = none → q = 1) → (∀ h, s.store.highest = some h → q = h + 1) →
        s.store.highest ≠ some 0xFFFFFFFF →
        exec i s = .next { t 1024 with
          sched := { s.sched with activity := .idle }
          store := { s.store with
            writer := .writing
              ⟨Image.sealed ⟨q, List.replicate 32 ⟨0, none⟩, [], (t 1024).formatWithdrawn, 0⟩, .copy0, 1,
                s.dir.records, true⟩ } }) ∧
      (s.store.highest = some 0xFFFFFFFF →
        exec i s = .next (State.writerFault { t 1024 with sched := { s.sched with activity := .idle } }))))

/-- The end of a fixed-mark write: with success the unit is marked and the next is written, or after the last the slot
enters WAIT_DIR and the dirty flag is set (DONE_FAIL with DIR_FAULT while the writer is in FAULT); with ARRAY_FAULT or
after its timeout the mark is present or absent (a free value, log 14), the slot ends, and the region is FIXED without a
check word, or HELD where no unit carries its mark (R15, R35, R37, R79, R80). -/
def Obligations.MarkWritesEnd : Prop :=
  ∀ (s : State) (run : MarkRun) (b : SlotBody) (u : Nat),
    s.sched.activity = .mark run → run.slot < s.slots.length → (s.slot run.slot).body = some b →
    u = run.extent.first + run.done →
    (run.done + 1 < run.extent.count →
      exec (.markWriteEnd .success) s = .next ((State.readsServed { s with
        array := s.array.markUnit u
        slots := s.slots.set run.slot
          ⟨(s.slot run.slot).useCount, some { b with progress := b.progress + 1 }⟩ }).setActivity
        (.mark { run with done := run.done + 1 }))) ∧
    (run.extent.count ≤ run.done + 1 → s.store.writer ≠ .fault →
      exec (.markWriteEnd .success) s = .next (State.offer (State.markDirty { s with
        array := s.array.markUnit u
        slots := s.slots.set run.slot
          ⟨(s.slot run.slot).useCount, some { b with progress := b.progress + 1, state := .waitDir none }⟩
        sched := { s.sched with activity := .idle } }))) ∧
    (run.extent.count ≤ run.done + 1 → s.store.writer = .fault →
      exec (.markWriteEnd .success) s = .next (State.offer { s with
        array := s.array.markUnit u
        store := { s.store with dirty := true }
        slots := s.slots.set run.slot (Slot.endedAs (s.slot run.slot).useCount
          { b with progress := b.progress + 1 } (.doneFail .dirFault))
        sched := { s.sched with activity := .idle } })) ∧
    (∀ i after a g, i = .markWriteEnd .arrayFault ∨ i = .markWriteTimeout →
      after = (if Config.markLanded s.draws = true then s.array.markUnit u else s.array) →
      s.dir.record b.regionNumber = ⟨g, .active a⟩ →
      ((∃ v, v < run.extent.count ∧ (after.facts (run.extent.first + v)).fixedMark = true) →
        exec i s = .next (State.offer (State.markDirty { s with
          array := after
          dir := s.dir.setBody b.regionNumber (.active { a with freeze := .fixed none })
          slots := s.slots.set run.slot (Slot.endedAs (s.slot run.slot).useCount b (.doneFail .arrayFault))
          sched := { s.sched with activity := .idle }
          draws := s.draws + 1 }))) ∧
      ((∀ v, v < run.extent.count → (after.facts (run.extent.first + v)).fixedMark = false) →
        exec i s = .next (State.offer { s with
          array := after
          dir := s.dir.setBody b.regionNumber (.active { a with freeze := .held })
          slots := s.slots.set run.slot (Slot.endedAs (s.slot run.slot).useCount b (.doneFail .arrayFault))
          sched := { s.sched with activity := .idle }
          draws := s.draws + 1 })))

/-- The end of a scan step: the unit's 8192 bytes are fed into the CRC-32 and progress advances; a CANCEL that waited
takes effect here with its answer; after the last unit a VERIFY is DONE_OK with the value and its comparison with the
record's check word, and a FIX holds the check word and begins its marks (R16, R78, R79, R82, R84, R131). Nothing of the
array changes. -/
def Obligations.ScanStepsEnd : Prop :=
  ∀ (s : State) (run : ScanRun) (b : SlotBody) (crc : Word) (body : SlotBody),
    s.sched.activity = .scan run → run.slot < s.slots.length → (s.slot run.slot).body = some b →
    crc = crc32Feed run.crc
      ((List.range 8192).map fun k => s.array.byte ((run.extent.first + run.done) * 8192 + k)) →
    body = { b with progress := b.progress + 1 } →
    (run.done + 1 < run.extent.count → run.cancel = none →
      exec .scanStepEnd s = .next ((State.readsServed { s with
        slots := s.slots.set run.slot ⟨(s.slot run.slot).useCount, some body⟩ }).setActivity
        (.scan { run with done := run.done + 1, crc := crc }))) ∧
    (∀ p tag t, run.done + 1 < run.extent.count → run.cancel = some (p, tag) →
      t = { s with
        slots := s.slots.set run.slot (Slot.endedAs (s.slot run.slot).useCount body (.cancelled .host)) } →
      exec .scanStepEnd s = .next (State.offer (State.setActivity
        (State.finish p .cancel tag ⟨.ok, [7], false⟩ t) .idle))) ∧
    (∀ cmp t, run.extent.count ≤ run.done + 1 → b.work = .verify →
      cmp = (match ((s.dir.record b.regionNumber).body).freeze with
        | .fixed (some w) => if w = crc ^^^ 0xFFFFFFFF then Comparison.isMatch else .isMismatch
        | _ => .noReference) →
      t = { s with
        slots := s.slots.set run.slot (Slot.endedAs (s.slot run.slot).useCount
          { body with value := some (crc ^^^ 0xFFFFFFFF), comparison := some cmp } .doneOk) } →
      (run.cancel = none → exec .scanStepEnd s = .next (t.setActivity .idle).offer) ∧
      (∀ p tag, run.cancel = some (p, tag) → exec .scanStepEnd s = .next (State.offer (State.setActivity
        (State.finish p .cancel tag ⟨.tooLate, [5], false⟩ t) .idle)))) ∧
    (run.extent.count ≤ run.done + 1 → b.work = .fix →
      exec .scanStepEnd s = .next ((State.readsServed { s with
        slots := s.slots.set run.slot ⟨(s.slot run.slot).useCount,
          some { body with value := some (crc ^^^ 0xFFFFFFFF) }⟩ }).setActivity (.mark ⟨run.slot, run.extent, 0⟩)))

/-- 1 ms of running time of an erase has passed: while no READ waits the erase runs on and a later READ may have it
suspended at once; while one waits and the unit has been suspended fewer than 24 times the array is asked, and suspends
the erase or, where it is writing its mark, does not (a free value, log 10) (R12, R140, R141). On the empty queue a
suspended erase serves the READ that began waiting first, or, when none waits, is resumed: the suspension count advances
and the running time begins again; an ERASE slot between two units likewise serves the READ that began waiting first,
or, when none waits, has its next unit started, its suspension count at 0, or ends DONE_FAIL with WORN where that unit
is at the limit, its suspension count as the unit before left it, and the array makes its offer (R10, R119, R120, R136,
R141). Two things here are the model's choice: that these acts happen on the empty queue, apart from the end of the unit
before (logs 2 and 19), and that a unit refused WORN leaves the count as it was, where R119 and R141 return it to 0 at
each unit's start and do not say whether a refused unit has started (log 32). In every other state the part idles. -/
def Obligations.SuspensionsServeReads : Prop :=
  (∀ (s : State) (o : EraseOwner) (run after : EraseRun), s.sched.activity = .erase o run → run.suspended = false →
     after = { run with sliceDone := true, settled := true } →
     (s.sched.waiters = [] ∨ run.markWriting = true ∨ 24 ≤ run.suspensions →
       exec .runSliceExpiry s = .next (s.setActivity (.erase o after))) ∧
     (s.sched.waiters ≠ [] → run.markWriting = false → run.suspensions < 24 →
       (Config.suspendInTime s.draws = false → exec .runSliceExpiry s =
         .next ({ s with draws := s.draws + 1 }.setActivity (.erase o { after with markWriting := true }))) ∧
       (Config.suspendInTime s.draws = true →
         ((∀ n, o ≠ .slot n) → exec .runSliceExpiry s =
           .next ({ s with draws := s.draws + 1 }.setActivity (.erase o { after with suspended := true }))) ∧
         (∀ n, o = .slot n → exec .runSliceExpiry s =
           .next (State.mapSlot ({ s with draws := s.draws + 1 }.setActivity (.erase o { after with suspended := true }))
             n fun b => { b with state := .suspended }))))) ∧
  (∀ s, s.pending = [] →
     ((∀ o run, s.sched.activity = .erase o run → run.suspended = false) →
       (∀ n u, s.sched.activity ≠ .between n u) → step s = .next s) ∧
     (∀ o run, s.sched.activity = .erase o run → run.suspended = true →
       (∀ w rest, s.sched.waiters = w :: rest →
         step s = .next (State.delivered { s with sched := { s.sched with waiters := rest } } w.port
           ⟨.ok, w.tag, false, s.attention w.port, s.array.touchesIncomplete w.address w.length,
             s.array.bytes w.address w.length⟩)) ∧
       (s.sched.waiters = [] → ∀ t : State,
         t = s.setActivity (.erase o
           { run with suspended := false, suspensions := run.suspensions + 1, sliceDone := false }) →
         (∀ n, o = .slot n → step s = .next (t.mapSlot n fun b =>
           { b with state := .running, suspensions := run.suspensions + 1 })) ∧
         ((∀ n, o ≠ .slot n) → step s = .next t))) ∧
     (∀ n u b, s.sched.activity = .between n u → (s.slot n).body = some b →
       (∀ w rest, s.sched.waiters = w :: rest →
         step s = .next (State.delivered { s with sched := { s.sched with waiters := rest } } w.port
           ⟨.ok, w.tag, false, s.attention w.port, s.array.touchesIncomplete w.address w.length,
             s.array.bytes w.address w.length⟩)) ∧
       (s.sched.waiters = [] →
         ((s.array.facts u).eraseCount < 60000 → step s = .next { s with
           array := s.array.eraseStart u
           slots := s.slots.set n ⟨(s.slot n).useCount, some { b with suspensions := 0 }⟩
           sched := { s.sched with
             activity := .erase (.slot n) ⟨u, s.array.header u, false, false, 0, false, false⟩ } }) ∧
         (60000 ≤ (s.array.facts u).eraseCount → step s = .next (State.offer { s with
           slots := s.slots.set n (Slot.endedAs (s.slot n).useCount b (.doneFail .worn))
           sched := { s.sched with activity := .idle } })))))

/-! ## Reset and power -/

/-- An assertion of RESET or a loss of power abandons the work in flight and loses all volatile state: a write in flight
leaves its target copy DAMAGED, the other copy stays, a program or a mark write is cut by a free choice, and a part
already in reset only follows the line (R9, R13, R15, R38, R160, R161; logs 9, 12, 14, 15). That the inputs' levels stay
is the model's choice (log 4), and so is that in reset the directory reads blank, the map empty and the durable number 0
(log 5). A release of RESET or a return of power follows its line; with RESET released and power good a part in reset is
STARTING, and a part out of reset goes on (R160, R161; that the two lines are independent is log 24). -/
def Obligations.ResetAndPowerEvents : Prop :=
  (∀ (s : State) (i : Instr) (lines : State → State),
     (i = .resetAssert ∧ lines = fun t => { t with resetAsserted := true }) ∨
     (i = .powerLoss ∧ lines = fun t => { t with powerGood := false }) →
     (s.device = .inReset → exec i s = .next (lines s)) ∧
     (s.device ≠ .inReset → ∃ t, exec i s = .next (lines t) ∧ t.device = .inReset ∧
       t.pending = s.pending ∧ t.resetAsserted = s.resetAsserted ∧ t.powerGood = s.powerGood ∧
       (∀ p, t.port p = ⟨(s.port p).selectLow, (s.port p).inhibit, .idle, none, none, false,
         List.replicate 8 .closed⟩) ∧
       t.dir = ⟨List.replicate 32 ⟨0, .free⟩, [], []⟩ ∧ t.formatWithdrawn = [] ∧
       t.slots = List.replicate 12 ⟨0, none⟩ ∧ t.sched = ⟨[], 0, .idle, []⟩ ∧ t.array.map = [] ∧
       (∀ c, t.store.copy c = match s.store.writer with
         | .writing job => if c = job.target
           then .damaged (Config.damagedField (match s.sched.activity with
             | .idle => s.draws
             | .between _ _ => s.draws
             | .scan _ => s.draws
             | _ => s.draws + 1)) else s.store.copy c
         | _ => s.store.copy c) ∧
       t.store = ⟨t.store.copy0, t.store.copy1, none, 0, none, false, .idle⟩ ∧
       (s.sched.activity = .idle ∨ (∃ n u, s.sched.activity = .between n u) ∨ (∃ x, s.sched.activity = .scan x) →
         t.array.headers = s.array.headers ∧ t.array.data = s.array.data) ∧
       (∀ n a o d, s.sched.activity = .program n a → s.slotWork n = some (.program o d) →
         Memory.wf s.array.data = true → t.array.headers = s.array.headers ∧
         ∀ x, t.array.byte x = if a ≤ x ∧ x < a + d.length ∧ Config.programLanded s.draws x = true
           then s.array.byte x &&& d.getD (x - a) 0 else s.array.byte x) ∧
       (∀ run, s.sched.activity = .mark run → t.array.data = s.array.data ∧
         (sparseWf Header.factory s.array.headers = true → ∀ v, t.array.header v =
           if v = run.extent.first + run.done ∧ Config.markLanded s.draws = true
           then { s.array.header v with fixedMark := true } else s.array.header v)))) ∧
  (∀ (s : State) (i : Instr) (t : State),
     (i = .resetRelease ∧ t = { s with resetAsserted := false }) ∨ (i = .powerGood ∧ t = { s with powerGood := true }) →
     (s.device = .inReset ∧ t.resetAsserted = false ∧ t.powerGood = true →
       exec i s = .next { t with device := .starting }) ∧
     (s.device ≠ .inReset ∨ t.resetAsserted = true ∨ t.powerGood = false → exec i s = .next t))

/-- RESET or power loss finds a unit erase at one of its points, a free value (log 9): in the header write of its start,
with the old header still whole; in its data bits, each as it was or 1 (all at 1 once it was writing its mark), the mark
absent; or, where it was not suspended, with all data 1 and the mark absent or present. The count is the advanced one in
every case but the first, and no other unit changes (R10, R13, R17). -/
def Obligations.ResetCutsAnErase : Prop :=
  ∀ (s t : State) (i : Instr) (o : EraseOwner) (run : EraseRun),
    i = .resetAssert ∨ i = .powerLoss → s.device ≠ .inReset → s.ArrayLaw → s.sched.activity = .erase o run →
    exec i s = .next t →
    (∀ v, v ≠ run.unit → t.array.header v = s.array.header v) ∧
    (∀ x, x / 8192 ≠ run.unit → t.array.byte x = s.array.byte x) ∧
    ((run.settled = false ∧ t.array.header run.unit = run.before ∧
        ∀ x, t.array.byte x = s.array.byte x) ∨
      (t.array.header run.unit = s.array.header run.unit ∧
        ∀ x, x / 8192 = run.unit → s.array.byte x &&& t.array.byte x = s.array.byte x ∧
          (run.markWriting = true → t.array.byte x = 0xFF)) ∨
      (run.suspended = false ∧ t.array.header run.unit = { s.array.header run.unit with eraseMark := true } ∧
        ∀ x, x / 8192 = run.unit → t.array.byte x = 0xFF))

/-- The end of start-up: the newer VALID copy (complete, with a check that agrees with the rest of it) is loaded, its
records in working form, its scrub extents eligible; an OPEN or HELD region with a marked unit becomes FIXED without a
check word, and free units that are not GOOD or carry a mark are withdrawn; such a change sets the dirty flag and starts
a write; the part is READY and makes its first offer. Two BLANK copies give the empty directory; anything else gives
RECOVERY with no directory (R19, R31, R163 to R168; that the write captures its image before the first offer is the
model's choice, log 33). -/
def Obligations.StartUpChoosesTheDirectory : Prop :=
  ∀ (s base : State), s.device = .starting →
    base = { s with
      portA := { s.portA with cache := none, staleNotice := false, handles := List.replicate 8 .closed }
      portB := { s.portB with cache := none, staleNotice := false, handles := List.replicate 8 .closed }
      array := { s.array with map := s.array.headers.map fun c => (c.1, c.2.facts) }
      dir := ⟨List.replicate 32 ⟨0, .free⟩, [], []⟩
      store := ⟨s.store.copy0, s.store.copy1, none, 0, higher s.store.copy0.field s.store.copy1.field, false, .idle⟩
      formatWithdrawn := []
      slots := List.replicate 12 ⟨0, none⟩
      sched := ⟨[], 0, .idle, []⟩ } →
    (∀ c i, s.store.copy c = .complete i → i.check = i.crc →
      (∀ d j, d ≠ c → s.store.copy d = .complete j → j.check = j.crc → j.sequence.toNat < i.sequence.toNat) →
      ∃ dir : Directory,
        dir.records.length = i.records.length ∧ dir.scrub = i.scrub.map (fun e => ⟨e, 0, true⟩) ∧
        (∀ (n : Nat) (x : DurableRecord), i.records[n]? = some x →
          ∃ y : Record, dir.records[n]? = some y ∧ y.generation = x.generation ∧
          (x.region = none → y.body = .free) ∧
          ∀ g, x.region = some g → ∃ l : Freeze, y.body = .active ⟨g.ident, g.extent, none, l⟩ ∧
            (∀ w, g.freeze = .fixed w → l = .fixed w) ∧
            ((∀ w, g.freeze ≠ .fixed w) →
              ((∃ v, v < g.extent.count ∧ (s.array.header (g.extent.first + v)).fixedMark = true) →
                l = .fixed none) ∧
              ((∀ v, v < g.extent.count → (s.array.header (g.extent.first + v)).fixedMark = false) →
                l = if g.freeze = .openLevel then .openLevel else .held))) ∧
        (∀ u, u ∈ dir.withdrawn ↔ u ∈ i.withdrawn ∨ u < 1024 ∧
          ((s.array.header u).condition ≠ .good ∨ (s.array.header u).fixedMark = true) ∧
          (∀ x ∈ i.records, ∀ g, x.region = some g → g.extent.contains u = false) ∧
          ∀ e ∈ i.scrub, e.contains u = false) ∧
        ∀ v : State, v = { base with
            device := .ready, dir := dir
            store := { base.store with current := some c, durable := i.sequence } } →
          exec .startupComplete s = .next (State.offer
            (if dir = ⟨i.records.map DurableRecord.working, i.scrub.map (fun e => ⟨e, 0, true⟩), i.withdrawn⟩
              then v else v.markDirty))) ∧
    (s.store.copy0 = .blank → s.store.copy1 = .blank →
      (∀ u, u < 1024 → (s.array.header u).condition = .good ∧ (s.array.header u).fixedMark = false) →
      exec .startupComplete s = .next { base with device := .ready }) ∧
    ((∀ c i, s.store.copy c = .complete i → i.check ≠ i.crc) → (s.store.copy0 ≠ .blank ∨ s.store.copy1 ≠ .blank) →
      exec .startupComplete s = .next { base with device := .recovery })

/-! ## The laws of the part -/

/-- The state after reset keeps every law (R4, R17, R24, R45, R94, R97, R126, R135, R136; the values of the reset state
the manual does not give are logs 3 to 7). -/
def Obligations.ResetKeepsTheLaws : Prop :=
  State.reset.ArrayLaw ∧ State.reset.TableLaw ∧ State.reset.ServiceLaw ∧ State.reset.IdleLaw ∧
  State.reset.HandleLaw ∧ State.reset.OpenLaw ∧ State.reset.NameLaw ∧ State.reset.PlaceLaw ∧ State.reset.QueueLaw ∧
  State.reset.StoreLaw

/-- Every step keeps the laws of the array: its lists in canonical form, in service the map equal to the headers, no
erase count above 60000; and no step lowers an erase count or removes a fixed mark that RESET could not take back with
the header write of an erase's start (R4, R10, R17, R85). -/
def Obligations.StepsKeepTheArrayLaw : Prop :=
  ∀ s t, s.ArrayLaw → step s = .next t → t.ArrayLaw ∧ s.HeadersGrow t

/-- A data bit changes from 1 to 0 only by a program that is on the array and covers its byte, and from 0 to 1 only by
an erase of its unit that is on the array, or by an erase of its unit and no other that this step starts out of an ERASE
slot's pause between two units and that ends in it (R18; that an end ends the pause first is the model's choice, log 2). -/
def Obligations.DataBitsChangeByProgramOrErase : Prop :=
  ∀ (s t : State) (x : Nat), s.ArrayLaw → step s = .next t → t.array.byte x ≠ s.array.byte x →
    (∃ n a o d, s.sched.activity = .program n a ∧ s.slotWork n = some (.program o d) ∧ a ≤ x ∧ x < a + d.length ∧
      t.array.byte x = s.array.byte x &&& d.getD (x - a) 0) ∨
    (∃ o run, s.sched.activity = .erase o run ∧ x / 8192 = run.unit ∧
      s.array.byte x &&& t.array.byte x = s.array.byte x) ∨
    (∃ n u rest, s.sched.activity = .between n u ∧
      (s.pending = .eraseTimeout :: rest ∨ ∃ r, s.pending = .eraseEnd r :: rest) ∧
      s.array.byte x &&& t.array.byte x = s.array.byte x ∧
      ∀ y, y / 8192 ≠ x / 8192 → t.array.byte y = s.array.byte y)

/-- Every step keeps the sizes of the tables, and no port ever holds more than 8 slots (R19, R64, R87, R123, R126); and
it keeps device state, array work, writer, handles and replay caches in agreement, so that in STARTING no request is
replayed (R160 to R162, R170 to R172; log 25). -/
def Obligations.StepsKeepTablesAndService : Prop :=
  (∀ s t, s.TableLaw → step s = .next t → t.TableLaw) ∧
  (∀ s t, s.ServiceLaw → step s = .next t → t.ServiceLaw)

/-- No step leaves the array idle while a READ, a QUEUED slot or an eligible scrub extent waits (R136, R138). -/
def Obligations.StepsLeaveNoWorkWaiting : Prop :=
  ∀ s t, s.ServiceLaw → s.IdleLaw → step s = .next t → t.IdleLaw

/-- On any one region at most one OPEN handle has mode WRITE or EXCLUSIVE, and an EXCLUSIVE one is alone, after every
step; an entry becomes OPEN only by an OPEN, taken on arrival or from WAITING (R94); and an OPEN handle names an ACTIVE
record at the generation it recorded (R97). -/
def Obligations.StepsKeepTheHandles : Prop :=
  (∀ s t, step s = .next t →
     (s.HandleLaw → t.HandleLaw) ∧
     (∀ p h i, t.handle p h = .opened i → s.handle p h ≠ .opened i →
       ∃ tag m sel rest, s.pending = .openHandle p tag m sel :: rest ∨
         ∃ q, s.pending = .waitingRequestTaken q :: rest ∧ (s.port q).framing = .waiting (.openHandle p tag m sel))) ∧
  (∀ s t, s.ServiceLaw → s.OpenLaw → step s = .next t → t.OpenLaw)

/-- No step gives two non-FREE records one name, in the working directory or in an image (R24). -/
def Obligations.StepsKeepNamesUnique : Prop := ∀ s t, s.NameLaw → step s = .next t → t.NameLaw

/-- After every step each unit lies in at most one region, in no region while it is withdrawn or in a scrub extent, and
in at most one scrub extent, in the working directory and in every image (R45). -/
def Obligations.StepsKeepUnitsInOnePlace : Prop :=
  ∀ s t, s.ServiceLaw → s.PlaceLaw → step s = .next t → t.PlaceLaw

/-- After every step the queue holds each QUEUED slot once and nothing else, and the array works for a slot that is
RUNNING or SUSPENDED (R123, R124, R134, R135). -/
def Obligations.StepsKeepTheQueue : Prop :=
  ∀ s t, s.ServiceLaw → s.QueueLaw → step s = .next t → t.QueueLaw

/-- After every step the current copy holds the durable image, no VALID copy is newer, a write in flight goes to the
other copy with the next number, and every image held by a copy or a write has a check that agrees (R28, R30, R32, R39).
-/
def Obligations.StepsKeepTheStore : Prop :=
  ∀ s t, s.ServiceLaw → s.StoreLaw → step s = .next t → t.StoreLaw

/-- Whatever is in flight, a RESET followed by its release and start-up loads the image of the last completed write: the
current copy and the durable sequence number are as they were, the records of the directory in service are that image's
in working form (an OPEN or HELD region that has a marked unit FIXED without a check word), every scrub extent is one of
the image's and eligible, and every unit the image withdrew is withdrawn (R19, R30, R38, R39, R161, R164, R166, R167).
-/
def Obligations.DurableDirectorySurvivesReset : Prop :=
  ∀ (s : State) (c : CopyId) (i : Image), s.ServiceLaw → s.StoreLaw → s.loaded = true → s.powerGood = true →
    s.store.current = some c → s.store.copy c = .complete i →
    ∃ t u v, exec .resetAssert s = .next t ∧ exec .resetRelease t = .next u ∧ exec .startupComplete u = .next v ∧
      v.loaded = true ∧ v.store.current = some c ∧ v.store.durable = s.store.durable ∧
      i.sequence = s.store.durable ∧ v.store.copy c = s.store.copy c ∧
      v.dir.records.length = i.records.length ∧
      (∀ (n : Nat) (x : DurableRecord), i.records[n]? = some x →
        ∃ y : Record, v.dir.records[n]? = some y ∧ y.generation = x.generation ∧
        (x.region = none → y.body = .free) ∧
        ∀ g, x.region = some g → ∃ l : Freeze, y.body = .active ⟨g.ident, g.extent, none, l⟩ ∧
          (∀ w, g.freeze = .fixed w → l = .fixed w) ∧
          ((∀ w, g.freeze ≠ .fixed w) →
            ((∃ k, k < g.extent.count ∧ (u.array.header (g.extent.first + k)).fixedMark = true) → l = .fixed none) ∧
            ((∀ k, k < g.extent.count → (u.array.header (g.extent.first + k)).fixedMark = false) →
              l = if g.freeze = .openLevel then .openLevel else .held))) ∧
      (∀ e ∈ v.dir.scrub, e.extent ∈ i.scrub ∧ e.eligible = true) ∧
      (∀ w ∈ i.withdrawn, w ∈ v.dir.withdrawn)
end

