-- ==== Sys2Proof/Laws/State.lean ====
section
/-! SUPPORT. One lemma per field per update of the state, so that no later proof unfolds a record update. -/

set_option Elab.async false

namespace Sys2Proof.Machine

/-! ### `setPort` -/
@[simp] theorem State.setPort_pending (s : State) (p : Port) (q : PortState) :
    (s.setPort p q).pending = s.pending := by cases p <;> rfl
@[simp] theorem State.setPort_resetAsserted (s : State) (p : Port) (q : PortState) :
    (s.setPort p q).resetAsserted = s.resetAsserted := by cases p <;> rfl
@[simp] theorem State.setPort_powerGood (s : State) (p : Port) (q : PortState) :
    (s.setPort p q).powerGood = s.powerGood := by cases p <;> rfl
@[simp] theorem State.setPort_device (s : State) (p : Port) (q : PortState) :
    (s.setPort p q).device = s.device := by cases p <;> rfl
@[simp] theorem State.setPort_array (s : State) (p : Port) (q : PortState) :
    (s.setPort p q).array = s.array := by cases p <;> rfl
@[simp] theorem State.setPort_dir (s : State) (p : Port) (q : PortState) :
    (s.setPort p q).dir = s.dir := by cases p <;> rfl
@[simp] theorem State.setPort_store (s : State) (p : Port) (q : PortState) :
    (s.setPort p q).store = s.store := by cases p <;> rfl
@[simp] theorem State.setPort_formatWithdrawn (s : State) (p : Port) (q : PortState) :
    (s.setPort p q).formatWithdrawn = s.formatWithdrawn := by cases p <;> rfl
@[simp] theorem State.setPort_slots (s : State) (p : Port) (q : PortState) :
    (s.setPort p q).slots = s.slots := by cases p <;> rfl
@[simp] theorem State.setPort_sched (s : State) (p : Port) (q : PortState) :
    (s.setPort p q).sched = s.sched := by cases p <;> rfl
@[simp] theorem State.setPort_draws (s : State) (p : Port) (q : PortState) :
    (s.setPort p q).draws = s.draws := by cases p <;> rfl
/-! ### `mapPorts` -/
@[simp] theorem State.mapPorts_pending (s : State) (f : Port → PortState → PortState) :
    (s.mapPorts f).pending = s.pending := rfl
@[simp] theorem State.mapPorts_resetAsserted (s : State) (f : Port → PortState → PortState) :
    (s.mapPorts f).resetAsserted = s.resetAsserted := rfl
@[simp] theorem State.mapPorts_powerGood (s : State) (f : Port → PortState → PortState) :
    (s.mapPorts f).powerGood = s.powerGood := rfl
@[simp] theorem State.mapPorts_device (s : State) (f : Port → PortState → PortState) :
    (s.mapPorts f).device = s.device := rfl
@[simp] theorem State.mapPorts_array (s : State) (f : Port → PortState → PortState) :
    (s.mapPorts f).array = s.array := rfl
@[simp] theorem State.mapPorts_dir (s : State) (f : Port → PortState → PortState) :
    (s.mapPorts f).dir = s.dir := rfl
@[simp] theorem State.mapPorts_store (s : State) (f : Port → PortState → PortState) :
    (s.mapPorts f).store = s.store := rfl
@[simp] theorem State.mapPorts_formatWithdrawn (s : State) (f : Port → PortState → PortState) :
    (s.mapPorts f).formatWithdrawn = s.formatWithdrawn := rfl
@[simp] theorem State.mapPorts_slots (s : State) (f : Port → PortState → PortState) :
    (s.mapPorts f).slots = s.slots := rfl
@[simp] theorem State.mapPorts_sched (s : State) (f : Port → PortState → PortState) :
    (s.mapPorts f).sched = s.sched := rfl
@[simp] theorem State.mapPorts_draws (s : State) (f : Port → PortState → PortState) :
    (s.mapPorts f).draws = s.draws := rfl
/-! ### `setHandle` -/
@[simp] theorem State.setHandle_pending (s : State) (p : Port) (h : Nat) (x : Handle) :
    (s.setHandle p h x).pending = s.pending := by cases p <;> rfl
@[simp] theorem State.setHandle_resetAsserted (s : State) (p : Port) (h : Nat) (x : Handle) :
    (s.setHandle p h x).resetAsserted = s.resetAsserted := by cases p <;> rfl
@[simp] theorem State.setHandle_powerGood (s : State) (p : Port) (h : Nat) (x : Handle) :
    (s.setHandle p h x).powerGood = s.powerGood := by cases p <;> rfl
@[simp] theorem State.setHandle_device (s : State) (p : Port) (h : Nat) (x : Handle) :
    (s.setHandle p h x).device = s.device := by cases p <;> rfl
@[simp] theorem State.setHandle_array (s : State) (p : Port) (h : Nat) (x : Handle) :
    (s.setHandle p h x).array = s.array := by cases p <;> rfl
@[simp] theorem State.setHandle_dir (s : State) (p : Port) (h : Nat) (x : Handle) :
    (s.setHandle p h x).dir = s.dir := by cases p <;> rfl
@[simp] theorem State.setHandle_store (s : State) (p : Port) (h : Nat) (x : Handle) :
    (s.setHandle p h x).store = s.store := by cases p <;> rfl
@[simp] theorem State.setHandle_formatWithdrawn (s : State) (p : Port) (h : Nat) (x : Handle) :
    (s.setHandle p h x).formatWithdrawn = s.formatWithdrawn := by cases p <;> rfl
@[simp] theorem State.setHandle_slots (s : State) (p : Port) (h : Nat) (x : Handle) :
    (s.setHandle p h x).slots = s.slots := by cases p <;> rfl
@[simp] theorem State.setHandle_sched (s : State) (p : Port) (h : Nat) (x : Handle) :
    (s.setHandle p h x).sched = s.sched := by cases p <;> rfl
@[simp] theorem State.setHandle_draws (s : State) (p : Port) (h : Nat) (x : Handle) :
    (s.setHandle p h x).draws = s.draws := by cases p <;> rfl
/-! ### `clearNotice` -/
@[simp] theorem State.clearNotice_pending (s : State) (p : Port) :
    (s.clearNotice p).pending = s.pending := by cases p <;> rfl
@[simp] theorem State.clearNotice_resetAsserted (s : State) (p : Port) :
    (s.clearNotice p).resetAsserted = s.resetAsserted := by cases p <;> rfl
@[simp] theorem State.clearNotice_powerGood (s : State) (p : Port) :
    (s.clearNotice p).powerGood = s.powerGood := by cases p <;> rfl
@[simp] theorem State.clearNotice_device (s : State) (p : Port) :
    (s.clearNotice p).device = s.device := by cases p <;> rfl
@[simp] theorem State.clearNotice_array (s : State) (p : Port) :
    (s.clearNotice p).array = s.array := by cases p <;> rfl
@[simp] theorem State.clearNotice_dir (s : State) (p : Port) :
    (s.clearNotice p).dir = s.dir := by cases p <;> rfl
@[simp] theorem State.clearNotice_store (s : State) (p : Port) :
    (s.clearNotice p).store = s.store := by cases p <;> rfl
@[simp] theorem State.clearNotice_formatWithdrawn (s : State) (p : Port) :
    (s.clearNotice p).formatWithdrawn = s.formatWithdrawn := by cases p <;> rfl
@[simp] theorem State.clearNotice_slots (s : State) (p : Port) :
    (s.clearNotice p).slots = s.slots := by cases p <;> rfl
@[simp] theorem State.clearNotice_sched (s : State) (p : Port) :
    (s.clearNotice p).sched = s.sched := by cases p <;> rfl
@[simp] theorem State.clearNotice_draws (s : State) (p : Port) :
    (s.clearNotice p).draws = s.draws := by cases p <;> rfl
/-! ### `endSlot` -/
@[simp] theorem State.endSlot_pending (s : State) (n : Nat) (st : SlotState) :
    (s.endSlot n st).pending = s.pending := rfl
@[simp] theorem State.endSlot_resetAsserted (s : State) (n : Nat) (st : SlotState) :
    (s.endSlot n st).resetAsserted = s.resetAsserted := rfl
@[simp] theorem State.endSlot_powerGood (s : State) (n : Nat) (st : SlotState) :
    (s.endSlot n st).powerGood = s.powerGood := rfl
@[simp] theorem State.endSlot_device (s : State) (n : Nat) (st : SlotState) :
    (s.endSlot n st).device = s.device := rfl
@[simp] theorem State.endSlot_portA (s : State) (n : Nat) (st : SlotState) :
    (s.endSlot n st).portA = s.portA := rfl
@[simp] theorem State.endSlot_portB (s : State) (n : Nat) (st : SlotState) :
    (s.endSlot n st).portB = s.portB := rfl
@[simp] theorem State.endSlot_array (s : State) (n : Nat) (st : SlotState) :
    (s.endSlot n st).array = s.array := rfl
@[simp] theorem State.endSlot_dir (s : State) (n : Nat) (st : SlotState) :
    (s.endSlot n st).dir = s.dir := rfl
@[simp] theorem State.endSlot_store (s : State) (n : Nat) (st : SlotState) :
    (s.endSlot n st).store = s.store := rfl
@[simp] theorem State.endSlot_formatWithdrawn (s : State) (n : Nat) (st : SlotState) :
    (s.endSlot n st).formatWithdrawn = s.formatWithdrawn := rfl
@[simp] theorem State.endSlot_sched (s : State) (n : Nat) (st : SlotState) :
    (s.endSlot n st).sched = s.sched := rfl
@[simp] theorem State.endSlot_draws (s : State) (n : Nat) (st : SlotState) :
    (s.endSlot n st).draws = s.draws := rfl
@[simp] theorem State.endSlot_port (s : State) (n : Nat) (st : SlotState) (p' : Port) :
    (s.endSlot n st).port p' = s.port p' := by cases p' <;> rfl
/-! ### `mapSlot` -/
@[simp] theorem State.mapSlot_pending (s : State) (n : Nat) (f : SlotBody → SlotBody) :
    (s.mapSlot n f).pending = s.pending := rfl
@[simp] theorem State.mapSlot_resetAsserted (s : State) (n : Nat) (f : SlotBody → SlotBody) :
    (s.mapSlot n f).resetAsserted = s.resetAsserted := rfl
@[simp] theorem State.mapSlot_powerGood (s : State) (n : Nat) (f : SlotBody → SlotBody) :
    (s.mapSlot n f).powerGood = s.powerGood := rfl
@[simp] theorem State.mapSlot_device (s : State) (n : Nat) (f : SlotBody → SlotBody) :
    (s.mapSlot n f).device = s.device := rfl
@[simp] theorem State.mapSlot_portA (s : State) (n : Nat) (f : SlotBody → SlotBody) :
    (s.mapSlot n f).portA = s.portA := rfl
@[simp] theorem State.mapSlot_portB (s : State) (n : Nat) (f : SlotBody → SlotBody) :
    (s.mapSlot n f).portB = s.portB := rfl
@[simp] theorem State.mapSlot_array (s : State) (n : Nat) (f : SlotBody → SlotBody) :
    (s.mapSlot n f).array = s.array := rfl
@[simp] theorem State.mapSlot_dir (s : State) (n : Nat) (f : SlotBody → SlotBody) :
    (s.mapSlot n f).dir = s.dir := rfl
@[simp] theorem State.mapSlot_store (s : State) (n : Nat) (f : SlotBody → SlotBody) :
    (s.mapSlot n f).store = s.store := rfl
@[simp] theorem State.mapSlot_formatWithdrawn (s : State) (n : Nat) (f : SlotBody → SlotBody) :
    (s.mapSlot n f).formatWithdrawn = s.formatWithdrawn := rfl
@[simp] theorem State.mapSlot_sched (s : State) (n : Nat) (f : SlotBody → SlotBody) :
    (s.mapSlot n f).sched = s.sched := rfl
@[simp] theorem State.mapSlot_draws (s : State) (n : Nat) (f : SlotBody → SlotBody) :
    (s.mapSlot n f).draws = s.draws := rfl
@[simp] theorem State.mapSlot_port (s : State) (n : Nat) (f : SlotBody → SlotBody) (p' : Port) :
    (s.mapSlot n f).port p' = s.port p' := by cases p' <;> rfl
/-! ### `freeSlot` -/
@[simp] theorem State.freeSlot_pending (s : State) (n : Nat) :
    (s.freeSlot n).pending = s.pending := rfl
@[simp] theorem State.freeSlot_resetAsserted (s : State) (n : Nat) :
    (s.freeSlot n).resetAsserted = s.resetAsserted := rfl
@[simp] theorem State.freeSlot_powerGood (s : State) (n : Nat) :
    (s.freeSlot n).powerGood = s.powerGood := rfl
@[simp] theorem State.freeSlot_device (s : State) (n : Nat) :
    (s.freeSlot n).device = s.device := rfl
@[simp] theorem State.freeSlot_portA (s : State) (n : Nat) :
    (s.freeSlot n).portA = s.portA := rfl
@[simp] theorem State.freeSlot_portB (s : State) (n : Nat) :
    (s.freeSlot n).portB = s.portB := rfl
@[simp] theorem State.freeSlot_array (s : State) (n : Nat) :
    (s.freeSlot n).array = s.array := rfl
@[simp] theorem State.freeSlot_dir (s : State) (n : Nat) :
    (s.freeSlot n).dir = s.dir := rfl
@[simp] theorem State.freeSlot_store (s : State) (n : Nat) :
    (s.freeSlot n).store = s.store := rfl
@[simp] theorem State.freeSlot_formatWithdrawn (s : State) (n : Nat) :
    (s.freeSlot n).formatWithdrawn = s.formatWithdrawn := rfl
@[simp] theorem State.freeSlot_sched (s : State) (n : Nat) :
    (s.freeSlot n).sched = s.sched := rfl
@[simp] theorem State.freeSlot_draws (s : State) (n : Nat) :
    (s.freeSlot n).draws = s.draws := rfl
@[simp] theorem State.freeSlot_port (s : State) (n : Nat) (p' : Port) :
    (s.freeSlot n).port p' = s.port p' := by cases p' <;> rfl
/-! ### `fillSlot` -/
@[simp] theorem State.fillSlot_pending (s : State) (n : Nat) (b : SlotBody) :
    (s.fillSlot n b).pending = s.pending := rfl
@[simp] theorem State.fillSlot_resetAsserted (s : State) (n : Nat) (b : SlotBody) :
    (s.fillSlot n b).resetAsserted = s.resetAsserted := rfl
@[simp] theorem State.fillSlot_powerGood (s : State) (n : Nat) (b : SlotBody) :
    (s.fillSlot n b).powerGood = s.powerGood := rfl
@[simp] theorem State.fillSlot_device (s : State) (n : Nat) (b : SlotBody) :
    (s.fillSlot n b).device = s.device := rfl
@[simp] theorem State.fillSlot_portA (s : State) (n : Nat) (b : SlotBody) :
    (s.fillSlot n b).portA = s.portA := rfl
@[simp] theorem State.fillSlot_portB (s : State) (n : Nat) (b : SlotBody) :
    (s.fillSlot n b).portB = s.portB := rfl
@[simp] theorem State.fillSlot_array (s : State) (n : Nat) (b : SlotBody) :
    (s.fillSlot n b).array = s.array := rfl
@[simp] theorem State.fillSlot_dir (s : State) (n : Nat) (b : SlotBody) :
    (s.fillSlot n b).dir = s.dir := rfl
@[simp] theorem State.fillSlot_store (s : State) (n : Nat) (b : SlotBody) :
    (s.fillSlot n b).store = s.store := rfl
@[simp] theorem State.fillSlot_formatWithdrawn (s : State) (n : Nat) (b : SlotBody) :
    (s.fillSlot n b).formatWithdrawn = s.formatWithdrawn := rfl
@[simp] theorem State.fillSlot_sched (s : State) (n : Nat) (b : SlotBody) :
    (s.fillSlot n b).sched = s.sched := rfl
@[simp] theorem State.fillSlot_draws (s : State) (n : Nat) (b : SlotBody) :
    (s.fillSlot n b).draws = s.draws := rfl
@[simp] theorem State.fillSlot_port (s : State) (n : Nat) (b : SlotBody) (p' : Port) :
    (s.fillSlot n b).port p' = s.port p' := by cases p' <;> rfl
/-! ### `setActivity` -/
@[simp] theorem State.setActivity_pending (s : State) (a : Activity) :
    (s.setActivity a).pending = s.pending := rfl
@[simp] theorem State.setActivity_resetAsserted (s : State) (a : Activity) :
    (s.setActivity a).resetAsserted = s.resetAsserted := rfl
@[simp] theorem State.setActivity_powerGood (s : State) (a : Activity) :
    (s.setActivity a).powerGood = s.powerGood := rfl
@[simp] theorem State.setActivity_device (s : State) (a : Activity) :
    (s.setActivity a).device = s.device := rfl
@[simp] theorem State.setActivity_portA (s : State) (a : Activity) :
    (s.setActivity a).portA = s.portA := rfl
@[simp] theorem State.setActivity_portB (s : State) (a : Activity) :
    (s.setActivity a).portB = s.portB := rfl
@[simp] theorem State.setActivity_array (s : State) (a : Activity) :
    (s.setActivity a).array = s.array := rfl
@[simp] theorem State.setActivity_dir (s : State) (a : Activity) :
    (s.setActivity a).dir = s.dir := rfl
@[simp] theorem State.setActivity_store (s : State) (a : Activity) :
    (s.setActivity a).store = s.store := rfl
@[simp] theorem State.setActivity_formatWithdrawn (s : State) (a : Activity) :
    (s.setActivity a).formatWithdrawn = s.formatWithdrawn := rfl
@[simp] theorem State.setActivity_slots (s : State) (a : Activity) :
    (s.setActivity a).slots = s.slots := rfl
@[simp] theorem State.setActivity_draws (s : State) (a : Activity) :
    (s.setActivity a).draws = s.draws := rfl
@[simp] theorem State.setActivity_sched_queue (s : State) (a : Activity) :
    (s.setActivity a).sched.queue = s.sched.queue := rfl
@[simp] theorem State.setActivity_sched_nextArrival (s : State) (a : Activity) :
    (s.setActivity a).sched.nextArrival = s.sched.nextArrival := rfl
@[simp] theorem State.setActivity_sched_waiters (s : State) (a : Activity) :
    (s.setActivity a).sched.waiters = s.sched.waiters := rfl
@[simp] theorem State.setActivity_port (s : State) (a : Activity) (p' : Port) :
    (s.setActivity a).port p' = s.port p' := by cases p' <;> rfl
/-! ### `drawn` -/
@[simp] theorem State.drawn_pending (s : State) :
    (s.drawn).pending = s.pending := rfl
@[simp] theorem State.drawn_resetAsserted (s : State) :
    (s.drawn).resetAsserted = s.resetAsserted := rfl
@[simp] theorem State.drawn_powerGood (s : State) :
    (s.drawn).powerGood = s.powerGood := rfl
@[simp] theorem State.drawn_device (s : State) :
    (s.drawn).device = s.device := rfl
@[simp] theorem State.drawn_portA (s : State) :
    (s.drawn).portA = s.portA := rfl
@[simp] theorem State.drawn_portB (s : State) :
    (s.drawn).portB = s.portB := rfl
@[simp] theorem State.drawn_array (s : State) :
    (s.drawn).array = s.array := rfl
@[simp] theorem State.drawn_dir (s : State) :
    (s.drawn).dir = s.dir := rfl
@[simp] theorem State.drawn_store (s : State) :
    (s.drawn).store = s.store := rfl
@[simp] theorem State.drawn_formatWithdrawn (s : State) :
    (s.drawn).formatWithdrawn = s.formatWithdrawn := rfl
@[simp] theorem State.drawn_slots (s : State) :
    (s.drawn).slots = s.slots := rfl
@[simp] theorem State.drawn_sched (s : State) :
    (s.drawn).sched = s.sched := rfl
@[simp] theorem State.drawn_port (s : State) (p' : Port) :
    (s.drawn).port p' = s.port p' := by cases p' <;> rfl
/-! ### `enqueue` -/
@[simp] theorem State.enqueue_pending (s : State) (n : Nat) (p : Port) (w : Work) (h : Option Nat) (r : RegionRef) :
    (s.enqueue n p w h r).pending = s.pending := rfl
@[simp] theorem State.enqueue_resetAsserted (s : State) (n : Nat) (p : Port) (w : Work) (h : Option Nat) (r : RegionRef) :
    (s.enqueue n p w h r).resetAsserted = s.resetAsserted := rfl
@[simp] theorem State.enqueue_powerGood (s : State) (n : Nat) (p : Port) (w : Work) (h : Option Nat) (r : RegionRef) :
    (s.enqueue n p w h r).powerGood = s.powerGood := rfl
@[simp] theorem State.enqueue_device (s : State) (n : Nat) (p : Port) (w : Work) (h : Option Nat) (r : RegionRef) :
    (s.enqueue n p w h r).device = s.device := rfl
@[simp] theorem State.enqueue_portA (s : State) (n : Nat) (p : Port) (w : Work) (h : Option Nat) (r : RegionRef) :
    (s.enqueue n p w h r).portA = s.portA := rfl
@[simp] theorem State.enqueue_portB (s : State) (n : Nat) (p : Port) (w : Work) (h : Option Nat) (r : RegionRef) :
    (s.enqueue n p w h r).portB = s.portB := rfl
@[simp] theorem State.enqueue_array (s : State) (n : Nat) (p : Port) (w : Work) (h : Option Nat) (r : RegionRef) :
    (s.enqueue n p w h r).array = s.array := rfl
@[simp] theorem State.enqueue_dir (s : State) (n : Nat) (p : Port) (w : Work) (h : Option Nat) (r : RegionRef) :
    (s.enqueue n p w h r).dir = s.dir := rfl
@[simp] theorem State.enqueue_store (s : State) (n : Nat) (p : Port) (w : Work) (h : Option Nat) (r : RegionRef) :
    (s.enqueue n p w h r).store = s.store := rfl
@[simp] theorem State.enqueue_formatWithdrawn (s : State) (n : Nat) (p : Port) (w : Work) (h : Option Nat) (r : RegionRef) :
    (s.enqueue n p w h r).formatWithdrawn = s.formatWithdrawn := rfl
@[simp] theorem State.enqueue_draws (s : State) (n : Nat) (p : Port) (w : Work) (h : Option Nat) (r : RegionRef) :
    (s.enqueue n p w h r).draws = s.draws := rfl
@[simp] theorem State.enqueue_sched_activity (s : State) (n : Nat) (p : Port) (w : Work) (h : Option Nat) (r : RegionRef) :
    (s.enqueue n p w h r).sched.activity = s.sched.activity := rfl
@[simp] theorem State.enqueue_sched_waiters (s : State) (n : Nat) (p : Port) (w : Work) (h : Option Nat) (r : RegionRef) :
    (s.enqueue n p w h r).sched.waiters = s.sched.waiters := rfl
@[simp] theorem State.enqueue_port (s : State) (n : Nat) (p : Port) (w : Work) (h : Option Nat) (r : RegionRef) (p' : Port) :
    (s.enqueue n p w h r).port p' = s.port p' := by cases p' <;> rfl
/-! ### `dequeue` -/
@[simp] theorem State.dequeue_pending (s : State) (n : Nat) :
    (s.dequeue n).pending = s.pending := rfl
@[simp] theorem State.dequeue_resetAsserted (s : State) (n : Nat) :
    (s.dequeue n).resetAsserted = s.resetAsserted := rfl
@[simp] theorem State.dequeue_powerGood (s : State) (n : Nat) :
    (s.dequeue n).powerGood = s.powerGood := rfl
@[simp] theorem State.dequeue_device (s : State) (n : Nat) :
    (s.dequeue n).device = s.device := rfl
@[simp] theorem State.dequeue_portA (s : State) (n : Nat) :
    (s.dequeue n).portA = s.portA := rfl
@[simp] theorem State.dequeue_portB (s : State) (n : Nat) :
    (s.dequeue n).portB = s.portB := rfl
@[simp] theorem State.dequeue_array (s : State) (n : Nat) :
    (s.dequeue n).array = s.array := rfl
@[simp] theorem State.dequeue_dir (s : State) (n : Nat) :
    (s.dequeue n).dir = s.dir := rfl
@[simp] theorem State.dequeue_store (s : State) (n : Nat) :
    (s.dequeue n).store = s.store := rfl
@[simp] theorem State.dequeue_formatWithdrawn (s : State) (n : Nat) :
    (s.dequeue n).formatWithdrawn = s.formatWithdrawn := rfl
@[simp] theorem State.dequeue_slots (s : State) (n : Nat) :
    (s.dequeue n).slots = s.slots := rfl
@[simp] theorem State.dequeue_draws (s : State) (n : Nat) :
    (s.dequeue n).draws = s.draws := rfl
@[simp] theorem State.dequeue_sched_nextArrival (s : State) (n : Nat) :
    (s.dequeue n).sched.nextArrival = s.sched.nextArrival := rfl
@[simp] theorem State.dequeue_sched_activity (s : State) (n : Nat) :
    (s.dequeue n).sched.activity = s.sched.activity := rfl
@[simp] theorem State.dequeue_sched_waiters (s : State) (n : Nat) :
    (s.dequeue n).sched.waiters = s.sched.waiters := rfl
@[simp] theorem State.dequeue_port (s : State) (n : Nat) (p' : Port) :
    (s.dequeue n).port p' = s.port p' := by cases p' <;> rfl
/-! ### `cancelQueued` -/
@[simp] theorem State.cancelQueued_pending (s : State) (f : SlotBody → Bool) (c : Status) :
    (s.cancelQueued f c).pending = s.pending := rfl
@[simp] theorem State.cancelQueued_resetAsserted (s : State) (f : SlotBody → Bool) (c : Status) :
    (s.cancelQueued f c).resetAsserted = s.resetAsserted := rfl
@[simp] theorem State.cancelQueued_powerGood (s : State) (f : SlotBody → Bool) (c : Status) :
    (s.cancelQueued f c).powerGood = s.powerGood := rfl
@[simp] theorem State.cancelQueued_device (s : State) (f : SlotBody → Bool) (c : Status) :
    (s.cancelQueued f c).device = s.device := rfl
@[simp] theorem State.cancelQueued_portA (s : State) (f : SlotBody → Bool) (c : Status) :
    (s.cancelQueued f c).portA = s.portA := rfl
@[simp] theorem State.cancelQueued_portB (s : State) (f : SlotBody → Bool) (c : Status) :
    (s.cancelQueued f c).portB = s.portB := rfl
@[simp] theorem State.cancelQueued_array (s : State) (f : SlotBody → Bool) (c : Status) :
    (s.cancelQueued f c).array = s.array := rfl
@[simp] theorem State.cancelQueued_dir (s : State) (f : SlotBody → Bool) (c : Status) :
    (s.cancelQueued f c).dir = s.dir := rfl
@[simp] theorem State.cancelQueued_store (s : State) (f : SlotBody → Bool) (c : Status) :
    (s.cancelQueued f c).store = s.store := rfl
@[simp] theorem State.cancelQueued_formatWithdrawn (s : State) (f : SlotBody → Bool) (c : Status) :
    (s.cancelQueued f c).formatWithdrawn = s.formatWithdrawn := rfl
@[simp] theorem State.cancelQueued_draws (s : State) (f : SlotBody → Bool) (c : Status) :
    (s.cancelQueued f c).draws = s.draws := rfl
@[simp] theorem State.cancelQueued_sched_nextArrival (s : State) (f : SlotBody → Bool) (c : Status) :
    (s.cancelQueued f c).sched.nextArrival = s.sched.nextArrival := rfl
@[simp] theorem State.cancelQueued_sched_activity (s : State) (f : SlotBody → Bool) (c : Status) :
    (s.cancelQueued f c).sched.activity = s.sched.activity := rfl
@[simp] theorem State.cancelQueued_sched_waiters (s : State) (f : SlotBody → Bool) (c : Status) :
    (s.cancelQueued f c).sched.waiters = s.sched.waiters := rfl
@[simp] theorem State.cancelQueued_port (s : State) (f : SlotBody → Bool) (c : Status) (p' : Port) :
    (s.cancelQueued f c).port p' = s.port p' := by cases p' <;> rfl
/-! ### `setFreeze` -/
@[simp] theorem State.setFreeze_pending (s : State) (n : Nat) (l : Freeze) :
    (s.setFreeze n l).pending = s.pending := rfl
@[simp] theorem State.setFreeze_resetAsserted (s : State) (n : Nat) (l : Freeze) :
    (s.setFreeze n l).resetAsserted = s.resetAsserted := rfl
@[simp] theorem State.setFreeze_powerGood (s : State) (n : Nat) (l : Freeze) :
    (s.setFreeze n l).powerGood = s.powerGood := rfl
@[simp] theorem State.setFreeze_device (s : State) (n : Nat) (l : Freeze) :
    (s.setFreeze n l).device = s.device := rfl
@[simp] theorem State.setFreeze_portA (s : State) (n : Nat) (l : Freeze) :
    (s.setFreeze n l).portA = s.portA := rfl
@[simp] theorem State.setFreeze_portB (s : State) (n : Nat) (l : Freeze) :
    (s.setFreeze n l).portB = s.portB := rfl
@[simp] theorem State.setFreeze_array (s : State) (n : Nat) (l : Freeze) :
    (s.setFreeze n l).array = s.array := rfl
@[simp] theorem State.setFreeze_store (s : State) (n : Nat) (l : Freeze) :
    (s.setFreeze n l).store = s.store := rfl
@[simp] theorem State.setFreeze_formatWithdrawn (s : State) (n : Nat) (l : Freeze) :
    (s.setFreeze n l).formatWithdrawn = s.formatWithdrawn := rfl
@[simp] theorem State.setFreeze_slots (s : State) (n : Nat) (l : Freeze) :
    (s.setFreeze n l).slots = s.slots := rfl
@[simp] theorem State.setFreeze_sched (s : State) (n : Nat) (l : Freeze) :
    (s.setFreeze n l).sched = s.sched := rfl
@[simp] theorem State.setFreeze_draws (s : State) (n : Nat) (l : Freeze) :
    (s.setFreeze n l).draws = s.draws := rfl
@[simp] theorem State.setFreeze_port (s : State) (n : Nat) (l : Freeze) (p' : Port) :
    (s.setFreeze n l).port p' = s.port p' := by cases p' <;> rfl
/-! ### `await` -/
@[simp] theorem State.await_pending (s : State) (w : ReadWait) :
    (s.await w).pending = s.pending := rfl
@[simp] theorem State.await_resetAsserted (s : State) (w : ReadWait) :
    (s.await w).resetAsserted = s.resetAsserted := rfl
@[simp] theorem State.await_powerGood (s : State) (w : ReadWait) :
    (s.await w).powerGood = s.powerGood := rfl
@[simp] theorem State.await_device (s : State) (w : ReadWait) :
    (s.await w).device = s.device := rfl
@[simp] theorem State.await_portA (s : State) (w : ReadWait) :
    (s.await w).portA = s.portA := rfl
@[simp] theorem State.await_portB (s : State) (w : ReadWait) :
    (s.await w).portB = s.portB := rfl
@[simp] theorem State.await_array (s : State) (w : ReadWait) :
    (s.await w).array = s.array := rfl
@[simp] theorem State.await_dir (s : State) (w : ReadWait) :
    (s.await w).dir = s.dir := rfl
@[simp] theorem State.await_store (s : State) (w : ReadWait) :
    (s.await w).store = s.store := rfl
@[simp] theorem State.await_formatWithdrawn (s : State) (w : ReadWait) :
    (s.await w).formatWithdrawn = s.formatWithdrawn := rfl
@[simp] theorem State.await_slots (s : State) (w : ReadWait) :
    (s.await w).slots = s.slots := rfl
@[simp] theorem State.await_draws (s : State) (w : ReadWait) :
    (s.await w).draws = s.draws := rfl
@[simp] theorem State.await_sched_queue (s : State) (w : ReadWait) :
    (s.await w).sched.queue = s.sched.queue := rfl
@[simp] theorem State.await_sched_nextArrival (s : State) (w : ReadWait) :
    (s.await w).sched.nextArrival = s.sched.nextArrival := rfl
@[simp] theorem State.await_sched_activity (s : State) (w : ReadWait) :
    (s.await w).sched.activity = s.sched.activity := rfl
@[simp] theorem State.await_port (s : State) (w : ReadWait) (p' : Port) :
    (s.await w).port p' = s.port p' := by cases p' <;> rfl
/-! ### `formatWithdraw` -/
@[simp] theorem State.formatWithdraw_pending (s : State) (u : Nat) :
    (s.formatWithdraw u).pending = s.pending := rfl
@[simp] theorem State.formatWithdraw_resetAsserted (s : State) (u : Nat) :
    (s.formatWithdraw u).resetAsserted = s.resetAsserted := rfl
@[simp] theorem State.formatWithdraw_powerGood (s : State) (u : Nat) :
    (s.formatWithdraw u).powerGood = s.powerGood := rfl
@[simp] theorem State.formatWithdraw_device (s : State) (u : Nat) :
    (s.formatWithdraw u).device = s.device := rfl
@[simp] theorem State.formatWithdraw_portA (s : State) (u : Nat) :
    (s.formatWithdraw u).portA = s.portA := rfl
@[simp] theorem State.formatWithdraw_portB (s : State) (u : Nat) :
    (s.formatWithdraw u).portB = s.portB := rfl
@[simp] theorem State.formatWithdraw_array (s : State) (u : Nat) :
    (s.formatWithdraw u).array = s.array := rfl
@[simp] theorem State.formatWithdraw_dir (s : State) (u : Nat) :
    (s.formatWithdraw u).dir = s.dir := rfl
@[simp] theorem State.formatWithdraw_store (s : State) (u : Nat) :
    (s.formatWithdraw u).store = s.store := rfl
@[simp] theorem State.formatWithdraw_slots (s : State) (u : Nat) :
    (s.formatWithdraw u).slots = s.slots := rfl
@[simp] theorem State.formatWithdraw_sched (s : State) (u : Nat) :
    (s.formatWithdraw u).sched = s.sched := rfl
@[simp] theorem State.formatWithdraw_draws (s : State) (u : Nat) :
    (s.formatWithdraw u).draws = s.draws := rfl
@[simp] theorem State.formatWithdraw_port (s : State) (u : Nat) (p' : Port) :
    (s.formatWithdraw u).port p' = s.port p' := by cases p' <;> rfl

/-! ### What the updates write -/

@[simp] theorem State.setActivity_activity (s : State) (a : Activity) : (s.setActivity a).sched.activity = a := rfl
@[simp] theorem State.drawn_draws (s : State) : s.drawn.draws = s.draws + 1 := rfl
@[simp] theorem State.await_waiters (s : State) (w : ReadWait) :
    (s.await w).sched.waiters = s.sched.waiters ++ [w] := rfl
@[simp] theorem State.enqueue_queue (s : State) (n : Nat) (p : Port) (w : Work) (h : Option Nat) (r : RegionRef) :
    (s.enqueue n p w h r).sched.queue = s.sched.queue ++ [n] := rfl
@[simp] theorem State.enqueue_nextArrival (s : State) (n : Nat) (p : Port) (w : Work) (h : Option Nat)
    (r : RegionRef) : (s.enqueue n p w h r).sched.nextArrival = s.sched.nextArrival + 1 := rfl
@[simp] theorem State.dequeue_queue (s : State) (n : Nat) :
    (s.dequeue n).sched.queue = s.sched.queue.filter fun m => m != n := rfl
@[simp] theorem State.setFreeze_dir (s : State) (n : Nat) (l : Freeze) :
    (s.setFreeze n l).dir = s.dir.mapRegion n fun r => { r with freeze := l } := rfl
@[simp] theorem State.formatWithdraw_formatWithdrawn (s : State) (u : Nat) :
    (s.formatWithdraw u).formatWithdrawn = unitInsert u s.formatWithdrawn := rfl
@[simp] theorem State.endSlot_slots (s : State) (n : Nat) (st : SlotState) :
    (s.endSlot n st).slots = s.slots.modify n (Slot.ended st) := rfl
@[simp] theorem State.mapSlot_slots (s : State) (n : Nat) (f : SlotBody → SlotBody) :
    (s.mapSlot n f).slots = s.slots.modify n fun x => { x with body := x.body.map f } := rfl
@[simp] theorem State.freeSlot_slots (s : State) (n : Nat) : (s.freeSlot n).slots = s.slots.modify n Slot.freed := rfl
@[simp] theorem State.fillSlot_slots (s : State) (n : Nat) (b : SlotBody) :
    (s.fillSlot n b).slots = s.slots.modify n fun x => { x with body := some b } := rfl

/-! ### Ports -/

@[simp] theorem State.port_a (s : State) : s.port .a = s.portA := rfl
@[simp] theorem State.port_b (s : State) : s.port .b = s.portB := rfl
@[simp] theorem State.setPort_port_self (s : State) (p : Port) (q : PortState) : (s.setPort p q).port p = q := by
  cases p <;> rfl
theorem State.setPort_port_of_ne (s : State) {p p' : Port} (h : p' ≠ p) (q : PortState) :
    (s.setPort p q).port p' = s.port p' := by
  cases p <;> cases p' <;> first | rfl | exact absurd rfl h
theorem State.setPort_port (s : State) (p p' : Port) (q : PortState) :
    (s.setPort p q).port p' = if p' = p then q else s.port p' := by
  cases p <;> cases p' <;> rfl
@[simp] theorem State.setPort_port_other (s : State) (p : Port) (q : PortState) :
    (s.setPort p q).port (otherPort p) = s.port (otherPort p) := by cases p <;> rfl
@[simp] theorem State.setPort_setPort (s : State) (p : Port) (q q' : PortState) :
    (s.setPort p q).setPort p q' = s.setPort p q' := by cases p <;> rfl
@[simp] theorem State.setPort_self (s : State) (p : Port) : s.setPort p (s.port p) = s := by cases p <;> rfl
@[simp] theorem State.mapPorts_port (s : State) (f : Port → PortState → PortState) (p : Port) :
    (s.mapPorts f).port p = f p (s.port p) := by cases p <;> rfl
@[simp] theorem State.mapPorts_portA (s : State) (f : Port → PortState → PortState) :
    (s.mapPorts f).portA = f .a s.portA := rfl
@[simp] theorem State.mapPorts_portB (s : State) (f : Port → PortState → PortState) :
    (s.mapPorts f).portB = f .b s.portB := rfl

/-- A property of both ports is one of each. -/
theorem forall_port {P : Port → Prop} : (∀ p, P p) ↔ P .a ∧ P .b :=
  ⟨fun h => ⟨h .a, h .b⟩, fun ⟨a, b⟩ p => by cases p <;> assumption⟩

/-! ### The array -/

@[simp] theorem ArrayState.writeHeader_data (a : ArrayState) (u : Nat) (h : Header) :
    (a.writeHeader u h).data = a.data := rfl
@[simp] theorem ArrayState.setHeader_data (a : ArrayState) (u : Nat) (h : Header) :
    (a.setHeader u h).data = a.data := rfl
@[simp] theorem ArrayState.setHeader_map (a : ArrayState) (u : Nat) (h : Header) :
    (a.setHeader u h).map = a.map := rfl
@[simp] theorem ArrayState.eraseStart_data (a : ArrayState) (u : Nat) : (a.eraseStart u).data = a.data := rfl
@[simp] theorem ArrayState.markUnit_data (a : ArrayState) (u : Nat) : (a.markUnit u).data = a.data := rfl
@[simp] theorem ArrayState.eraseDone_data (a : ArrayState) (u : Nat) :
    (a.eraseDone u).data = (a.eraseData u).data := rfl
@[simp] theorem ArrayState.eraseData_headers (a : ArrayState) (u : Nat) : (a.eraseData u).headers = a.headers := rfl
@[simp] theorem ArrayState.eraseData_map (a : ArrayState) (u : Nat) : (a.eraseData u).map = a.map := rfl
@[simp] theorem ArrayState.partialErase_headers (a : ArrayState) (f : Nat → Byte) (u : Nat) :
    (a.partialErase f u).headers = a.headers := rfl
@[simp] theorem ArrayState.partialErase_map (a : ArrayState) (f : Nat → Byte) (u : Nat) :
    (a.partialErase f u).map = a.map := rfl
@[simp] theorem ArrayState.stopErase_headers (a : ArrayState) (r : EraseRun) (f : Nat → Byte) :
    (a.stopErase r f).headers = a.headers := by unfold ArrayState.stopErase; split <;> rfl
@[simp] theorem ArrayState.stopErase_map (a : ArrayState) (r : EraseRun) (f : Nat → Byte) :
    (a.stopErase r f).map = a.map := by unfold ArrayState.stopErase; split <;> rfl
@[simp] theorem ArrayState.programByte_headers (a : ArrayState) (x : Nat) (b : Byte) :
    (a.programByte x b).headers = a.headers := rfl
@[simp] theorem ArrayState.programByte_map (a : ArrayState) (x : Nat) (b : Byte) :
    (a.programByte x b).map = a.map := rfl
@[simp] theorem ArrayState.scanHeaders_data (a : ArrayState) : a.scanHeaders.data = a.data := rfl
@[simp] theorem ArrayState.scanHeaders_headers (a : ArrayState) : a.scanHeaders.headers = a.headers := rfl
@[simp] theorem ArrayState.programBytes_headers (f : Nat → Bool) (l : List Byte) :
    ∀ (x : Nat) (a : ArrayState), (ArrayState.programBytes f x l a).headers = a.headers := by
  induction l with
  | nil => intros; rfl
  | cons b rest ih => intro x a; rw [ArrayState.programBytes, ih]; split <;> rfl
@[simp] theorem ArrayState.programBytes_map (f : Nat → Bool) (l : List Byte) :
    ∀ (x : Nat) (a : ArrayState), (ArrayState.programBytes f x l a).map = a.map := by
  induction l with
  | nil => intros; rfl
  | cons b rest ih => intro x a; rw [ArrayState.programBytes, ih]; split <;> rfl

/-! ### The directory and the store -/

@[simp] theorem Directory.setBody_scrub (d : Directory) (n : Nat) (b : RecordBody) : (d.setBody n b).scrub = d.scrub := rfl
@[simp] theorem Directory.setBody_withdrawn (d : Directory) (n : Nat) (b : RecordBody) :
    (d.setBody n b).withdrawn = d.withdrawn := rfl
@[simp] theorem Directory.mapRegion_scrub (d : Directory) (n : Nat) (f : Region → Region) :
    (d.mapRegion n f).scrub = d.scrub := by unfold Directory.mapRegion; split <;> rfl
@[simp] theorem Directory.mapRegion_withdrawn (d : Directory) (n : Nat) (f : Region → Region) :
    (d.mapRegion n f).withdrawn = d.withdrawn := by unfold Directory.mapRegion; split <;> rfl
@[simp] theorem Directory.addScrub_records (d : Directory) (e : Extent) : (d.addScrub e).records = d.records := rfl
@[simp] theorem Directory.addScrub_withdrawn (d : Directory) (e : Extent) : (d.addScrub e).withdrawn = d.withdrawn := rfl
@[simp] theorem Directory.advance_records (d : Directory) (i : Nat) : (d.advance i).records = d.records := rfl
@[simp] theorem Directory.advance_withdrawn (d : Directory) (i : Nat) : (d.advance i).withdrawn = d.withdrawn := rfl
@[simp] theorem Directory.withdraw_records (d : Directory) (u : Nat) : (d.withdraw u).records = d.records := rfl
@[simp] theorem Directory.withdraw_scrub (d : Directory) (u : Nat) : (d.withdraw u).scrub = d.scrub := rfl
@[simp] theorem Directory.withdraw_withdrawn (d : Directory) (u : Nat) :
    (d.withdraw u).withdrawn = unitInsert u d.withdrawn := rfl
@[simp] theorem Directory.settle_withdrawn (d : Directory) (j : WriteJob) : (d.settle j).withdrawn = d.withdrawn := rfl

@[simp] theorem Store.setCopy_current (t : Store) (c : CopyId) (x : Copy) : (t.setCopy c x).current = t.current := by
  cases c <;> rfl
@[simp] theorem Store.setCopy_durable (t : Store) (c : CopyId) (x : Copy) : (t.setCopy c x).durable = t.durable := by
  cases c <;> rfl
@[simp] theorem Store.setCopy_highest (t : Store) (c : CopyId) (x : Copy) : (t.setCopy c x).highest = t.highest := by
  cases c <;> rfl
@[simp] theorem Store.setCopy_dirty (t : Store) (c : CopyId) (x : Copy) : (t.setCopy c x).dirty = t.dirty := by
  cases c <;> rfl
@[simp] theorem Store.setCopy_writer (t : Store) (c : CopyId) (x : Copy) : (t.setCopy c x).writer = t.writer := by
  cases c <;> rfl
@[simp] theorem Store.copy_setCopy_self (t : Store) (c : CopyId) (x : Copy) : (t.setCopy c x).copy c = x := by
  cases c <;> rfl
theorem Store.copy_setCopy_of_ne (t : Store) {c c' : CopyId} (h : c' ≠ c) (x : Copy) :
    (t.setCopy c x).copy c' = t.copy c' := by
  cases c <;> cases c' <;> first | rfl | exact absurd rfl h

end Sys2Proof.Machine
end

