-- ==== Sys2Proof/Laws/Memory.lean ====
section
/-! SUPPORT. The laws of the array: read after write, the canonical form kept by every memory operation, and what each
array operation leaves in every byte, header and map entry. -/

namespace Sys2Proof.Machine

/-! ## Sparse lists -/

section
variable {α : Type} [DecidableEq α] {d : α}

theorem sparseWf_cons {k : Nat} {v : α} {rest : List (Nat × α)} :
    sparseWf d ((k, v) :: rest) = true ↔ v ≠ d ∧ (∀ c ∈ rest, k < c.1) ∧ sparseWf d rest = true := by
  simp [sparseWf, and_assoc]

omit [DecidableEq α] in
/-- A key below every listed key reads as the default. -/
theorem sparseGet_of_lt {key : Nat} : ∀ {l : List (Nat × α)}, (∀ c ∈ l, key < c.1) → sparseGet d l key = d
  | [], _ => rfl
  | (k, v) :: rest, h => by
    have hk := h _ (List.mem_cons_self ..)
    rw [sparseGet, if_neg (by simp at hk; omega)]
    exact sparseGet_of_lt fun c hc => h c (List.mem_cons_of_mem _ hc)

theorem sparseGet_sparseSet_of_ne {key key' : Nat} {v : α} (hne : key' ≠ key) :
    ∀ l : List (Nat × α), sparseGet d (sparseSet d l key v) key' = sparseGet d l key'
  | [] => by
    rw [sparseSet]; split
    · rfl
    · simp [sparseGet, Ne.symm hne]
  | (k, w) :: rest => by
    have ih := sparseGet_sparseSet_of_ne (v := v) hne rest
    rw [sparseSet]
    split
    · split
      · rfl
      · simp [sparseGet, Ne.symm hne]
    · split
      · next h => subst h; split <;> simp [sparseGet, Ne.symm hne]
      · simp only [sparseGet, ih]

theorem sparseGet_sparseSet_self {key : Nat} {v : α} :
    ∀ {l : List (Nat × α)}, sparseWf d l = true → sparseGet d (sparseSet d l key v) key = v
  | [], _ => by
    rw [sparseSet]; split
    · next h => simp [sparseGet, h]
    · simp [sparseGet]
  | (k, w) :: rest, h => by
    obtain ⟨_, hlt, hrest⟩ := sparseWf_cons.1 h
    rw [sparseSet]
    split
    · next hk =>
      split
      · next hv =>
        rw [hv, sparseGet_of_lt]
        intro c hc
        rcases List.mem_cons.1 hc with rfl | hc
        · exact hk
        · exact lt_trans hk (hlt c hc)
      · simp [sparseGet]
    · split
      · next hk =>
        subst hk
        split
        · next hv => rw [hv, sparseGet_of_lt hlt]
        · simp [sparseGet]
      · next hk =>
        rw [sparseGet, if_neg (Ne.symm hk)]
        exact sparseGet_sparseSet_self hrest

theorem sparseGet_sparseSet {key key' : Nat} {v : α} {l : List (Nat × α)} (h : sparseWf d l = true) :
    sparseGet d (sparseSet d l key v) key' = if key' = key then v else sparseGet d l key' := by
  split
  · next hk => rw [hk, sparseGet_sparseSet_self h]
  · next hk => exact sparseGet_sparseSet_of_ne hk l

theorem lt_of_mem_sparseSet {key n : Nat} {v : α} (hn : n < key) :
    ∀ {l : List (Nat × α)}, (∀ c ∈ l, n < c.1) → ∀ c ∈ sparseSet d l key v, n < c.1
  | [], _, c, hc => by
    rw [sparseSet] at hc; split at hc
    · simp at hc
    · simp at hc; simp [hc, hn]
  | (k, w) :: rest, h, c, hc => by
    have hk : n < k := h _ (List.mem_cons_self ..)
    have hr : ∀ c ∈ rest, n < c.1 := fun c hc => h c (List.mem_cons_of_mem _ hc)
    rw [sparseSet] at hc
    split at hc
    · split at hc
      · exact h c hc
      · rcases List.mem_cons.1 hc with rfl | hc
        · exact hn
        · exact h c hc
    · split at hc
      · split at hc
        · exact hr c hc
        · rcases List.mem_cons.1 hc with rfl | hc
          · exact hn
          · exact hr c hc
      · rcases List.mem_cons.1 hc with rfl | hc
        · exact hk
        · exact lt_of_mem_sparseSet hn hr c hc

/-- A write keeps the canonical form. -/
theorem sparseWf_sparseSet {key : Nat} {v : α} :
    ∀ {l : List (Nat × α)}, sparseWf d l = true → sparseWf d (sparseSet d l key v) = true
  | [], _ => by
    rw [sparseSet]; split
    · rfl
    · next h => simp [sparseWf, h]
  | (k, w) :: rest, h => by
    obtain ⟨hw, hlt, hrest⟩ := sparseWf_cons.1 h
    rw [sparseSet]
    split
    · next hk =>
      split
      · exact h
      · next hv =>
        refine sparseWf_cons.2 ⟨hv, fun c hc => ?_, h⟩
        rcases List.mem_cons.1 hc with rfl | hc
        · exact hk
        · exact lt_trans hk (hlt c hc)
    · split
      · next hk =>
        split
        · exact hrest
        · next hv => subst hk; exact sparseWf_cons.2 ⟨hv, hlt, hrest⟩
      · exact sparseWf_cons.2 ⟨hw, lt_of_mem_sparseSet (by omega) hlt, sparseWf_sparseSet hrest⟩

theorem sparseWf_filter (f : Nat × α → Bool) : ∀ {l : List (Nat × α)}, sparseWf d l = true →
    sparseWf d (l.filter f) = true
  | [], _ => rfl
  | (k, w) :: rest, h => by
    obtain ⟨hw, hlt, hrest⟩ := sparseWf_cons.1 h
    rw [List.filter_cons]
    split
    · exact sparseWf_cons.2 ⟨hw, fun c hc => hlt c (List.mem_filter.1 hc).1, sparseWf_filter f hrest⟩
    · exact sparseWf_filter f hrest

omit [DecidableEq α] in
/-- Filtering out a set of keys makes them read as the default, and leaves the others. -/
theorem sparseGet_filter (f : Nat → Bool) (key : Nat) : ∀ l : List (Nat × α),
    sparseGet d (l.filter fun c => f c.1) key = if f key then sparseGet d l key else d
  | [] => by simp [sparseGet]
  | (k, w) :: rest => by
    have ih := sparseGet_filter f key rest
    rw [List.filter_cons]
    by_cases hk : k = key
    · subst hk
      by_cases hf : f k = true
      · simp [sparseGet, hf]
      · simp only [hf, if_false, Bool.false_eq_true] at ih ⊢
        exact ih
    · by_cases hf : f k = true
      · simp only [hf, if_true, sparseGet, if_neg hk, ih]
      · simp only [hf, if_false, Bool.false_eq_true, sparseGet, if_neg hk, ih]

end

theorem unlisted_map {α β : Type} [DecidableEq α] [DecidableEq β] {d : α} {e : β} (g : α → β) (hd : g d = e) (key : Nat) :
    ∀ l : List (Nat × α), sparseGet e (l.map fun c => (c.1, g c.2)) key = g (sparseGet d l key)
  | [] => by simp [sparseGet, hd]
  | (k, w) :: rest => by
    simp only [List.map_cons, sparseGet]
    split
    · rfl
    · exact unlisted_map g hd key rest

theorem sparseWf_map {α β : Type} [DecidableEq α] [DecidableEq β] {d : α} {e : β} (g : α → β) (hg : ∀ v, g v = e → v = d) :
    ∀ {l : List (Nat × α)}, sparseWf d l = true → sparseWf e (l.map fun c => (c.1, g c.2)) = true
  | [], _ => rfl
  | (k, w) :: rest, h => by
    obtain ⟨hw, hlt, hrest⟩ := sparseWf_cons.1 h
    refine sparseWf_cons.2 ⟨fun he => hw (hg w he), fun c hc => ?_, sparseWf_map g hg hrest⟩
    obtain ⟨c', hc', rfl⟩ := List.mem_map.1 hc
    exact hlt c' hc'

/-! ## Bytes -/

theorem State.reset_memory_wf : Memory.wf State.reset.array.data = true := by decide

/-- Read after write of one byte (R6). -/
theorem ArrayState.byte_programByte {a : ArrayState} (h : Memory.wf a.data = true) (x y : Nat) (b : Byte) :
    (a.programByte x b).byte y = if y = x then a.byte x &&& b else a.byte y :=
  sparseGet_sparseSet h

theorem ArrayState.wf_programByte {a : ArrayState} (h : Memory.wf a.data = true) (x : Nat) (b : Byte) :
    Memory.wf (a.programByte x b).data = true := sparseWf_sparseSet h

theorem ArrayState.wf_programBytes (f : Nat → Bool) (l : List Byte) :
    ∀ (x : Nat) {a : ArrayState}, Memory.wf a.data = true → Memory.wf (ArrayState.programBytes f x l a).data = true := by
  induction l with
  | nil => intro x a h; exact h
  | cons b rest ih =>
    intro x a h
    rw [ArrayState.programBytes]
    refine ih _ ?_
    split
    · exact ArrayState.wf_programByte h x b
    · exact h

/-- What a program leaves in each byte: the AND where it landed inside its range, the old value elsewhere
(R6, R8, R9). -/
theorem ArrayState.byte_programBytes (f : Nat → Bool) (l : List Byte) :
    ∀ (x : Nat) {a : ArrayState}, Memory.wf a.data = true → ∀ y,
      (ArrayState.programBytes f x l a).byte y =
        if x ≤ y ∧ y < x + l.length ∧ f y = true then a.byte y &&& l.getD (y - x) 0 else a.byte y := by
  induction l with
  | nil => intro x a _ y; simp [ArrayState.programBytes]; omega
  | cons b rest ih =>
    intro x a h y
    rw [ArrayState.programBytes]
    have hw : Memory.wf (if f x = true then a.programByte x b else a).data = true := by
      split
      · exact ArrayState.wf_programByte h x b
      · exact h
    rw [ih (x + 1) hw y]
    have hb : (if f x = true then a.programByte x b else a).byte y =
        if y = x ∧ f x = true then a.byte x &&& b else a.byte y := by
      by_cases hf : f x = true
      · rw [if_pos hf, ArrayState.byte_programByte h]; simp [hf]
      · simp [hf]
    rw [hb]
    by_cases hyx : y = x
    · subst hyx
      simp
    · have : y ≠ x := hyx
      by_cases hle : x + 1 ≤ y
      · have e : y - x = (y - (x + 1)) + 1 := by omega
        simp only [hyx, false_and, if_false, e, List.getD_cons_succ, List.length_cons]
        have : (x + 1 ≤ y ∧ y < x + 1 + rest.length ∧ f y = true) ↔
            (x ≤ y ∧ y < x + (rest.length + 1) ∧ f y = true) := by
          constructor <;> rintro ⟨h1, h2, h3⟩ <;> exact ⟨by omega, by omega, h3⟩
        simp only [this]
      · have h1 : ¬ (x + 1 ≤ y ∧ y < x + 1 + rest.length ∧ f y = true) := fun h => hle h.1
        have h2 : ¬ (x ≤ y ∧ y < x + (b :: rest).length ∧ f y = true) := fun h => by omega
        rw [if_neg h1, if_neg h2]; simp [hyx]

theorem ArrayState.wf_eraseData {a : ArrayState} (h : Memory.wf a.data = true) (u : Nat) :
    Memory.wf (a.eraseData u).data = true := sparseWf_filter _ h

/-- What an erase that ends normally leaves in each byte (R11). -/
theorem ArrayState.byte_eraseData (a : ArrayState) (u y : Nat) :
    (a.eraseData u).byte y = if inUnit u y then erasedByte else a.byte y := by
  have := sparseGet_filter (d := erasedByte) (fun x => !inUnit u x) y a.data
  unfold ArrayState.byte ArrayState.eraseData
  rw [this]
  by_cases h : inUnit u y = true <;> simp [h]

theorem partialErase_data (sets : Nat → Byte) (u : Nat) : ∀ {l : List Host.Cell}, Memory.wf l = true →
    Memory.wf (l.filterMap fun c =>
      if inUnit u c.1 then (if c.2 ||| sets c.1 = erasedByte then none else some (c.1, c.2 ||| sets c.1))
      else some c) = true ∧
    ∀ y, sparseGet erasedByte (l.filterMap fun c =>
      if inUnit u c.1 then (if c.2 ||| sets c.1 = erasedByte then none else some (c.1, c.2 ||| sets c.1))
      else some c) y = if inUnit u y then sparseGet erasedByte l y ||| sets y else sparseGet erasedByte l y
  | [], _ => by
    refine ⟨rfl, fun y => ?_⟩
    simp only [List.filterMap_nil, sparseGet]
    split
    · exact (BitVec.allOnes_or (x := sets y)).symm
    · rfl
  | (k, w) :: rest, h => by
    obtain ⟨hw, hlt, hrest⟩ := sparseWf_cons.1 h
    obtain ⟨ih1, ih2⟩ := partialErase_data sets u hrest
    have hlt' : ∀ c ∈ rest.filterMap (fun c : Host.Cell =>
        if inUnit u c.1 then (if c.2 ||| sets c.1 = erasedByte then none else some (c.1, c.2 ||| sets c.1))
        else some c), k < c.1 := by
      intro c hc
      obtain ⟨c', hc', he⟩ := List.mem_filterMap.1 hc
      have : c.1 = c'.1 := by
        split at he
        · split at he
          · cases he
          · cases he; rfl
        · cases he; rfl
      rw [this]; exact hlt c' hc'
    rw [List.filterMap_cons]
    by_cases hu : inUnit u k = true
    · by_cases hv : w ||| sets k = erasedByte
      · simp only [hu, if_true, hv]
        refine ⟨ih1, fun y => ?_⟩
        rw [ih2 y]
        by_cases hy : k = y
        · subst hy
          simp only [hu, if_true, sparseGet]
          rw [sparseGet_of_lt hlt, hv]
          exact BitVec.allOnes_or (x := sets k)
        · simp only [sparseGet, if_neg hy]
      · simp only [hu, if_true, hv, if_false]
        refine ⟨sparseWf_cons.2 ⟨hv, hlt', ih1⟩, fun y => ?_⟩
        by_cases hy : k = y
        · subst hy; simp only [sparseGet, hu, if_true]
        · simp only [sparseGet, if_neg hy]; exact ih2 y
    · simp only [hu, if_false, Bool.false_eq_true]
      refine ⟨sparseWf_cons.2 ⟨hw, hlt', ih1⟩, fun y => ?_⟩
      by_cases hy : k = y
      · subst hy; simp only [sparseGet, hu, if_true, if_false, Bool.false_eq_true]
      · simp only [sparseGet, if_neg hy]; exact ih2 y

theorem ArrayState.wf_partialErase {a : ArrayState} (h : Memory.wf a.data = true) (sets : Nat → Byte) (u : Nat) :
    Memory.wf (a.partialErase sets u).data = true := (partialErase_data sets u h).1

/-- What an erase that did not end normally leaves in each byte: bits as they were or turned to 1 (R13, R14). -/
theorem ArrayState.byte_partialErase {a : ArrayState} (h : Memory.wf a.data = true) (sets : Nat → Byte) (u y : Nat) :
    (a.partialErase sets u).byte y = if inUnit u y then a.byte y ||| sets y else a.byte y :=
  (partialErase_data sets u h).2 y

theorem ArrayState.wf_stopErase {a : ArrayState} (h : Memory.wf a.data = true) (run : EraseRun) (sets : Nat → Byte) :
    Memory.wf (a.stopErase run sets).data = true := by
  unfold ArrayState.stopErase; split
  · exact ArrayState.wf_eraseData h _
  · exact ArrayState.wf_partialErase h _ _

/-- What an erase stopped where it stands leaves in each byte: all at 1 where its mark was being written, else bits as
they were or turned to 1 (R13, R14). -/
theorem ArrayState.byte_stopErase {a : ArrayState} (h : Memory.wf a.data = true) (run : EraseRun) (sets : Nat → Byte)
    (y : Nat) : (a.stopErase run sets).byte y =
      if inUnit run.unit y then (if run.markWriting then erasedByte else a.byte y ||| sets y) else a.byte y := by
  unfold ArrayState.stopErase
  cases run.markWriting
  · simp only [Bool.false_eq_true, if_false]; exact ArrayState.byte_partialErase h _ _ _
  · simp only [if_true]; exact ArrayState.byte_eraseData _ _ _

/-! ## Headers and the map -/

theorem Header.facts_factory : Header.factory.facts = UnitFacts.factory := by decide

theorem Header.eq_factory_of_facts {h : Header} (e : h.facts = UnitFacts.factory) : h = Header.factory := by
  obtain ⟨m, n, f⟩ := h
  simp only [Header.facts, Header.condition, UnitFacts.mk.injEq] at e
  obtain ⟨h1, rfl, rfl⟩ := e
  cases m
  · simp at h1
  · rfl

@[simp] theorem ArrayState.header_writeHeader {a : ArrayState} (h : sparseWf Header.factory a.headers = true)
    (u v : Nat) (x : Header) : (a.writeHeader u x).header v = if v = u then x else a.header v :=
  sparseGet_sparseSet h

@[simp] theorem ArrayState.header_setHeader {a : ArrayState} (h : sparseWf Header.factory a.headers = true)
    (u v : Nat) (x : Header) : (a.setHeader u x).header v = if v = u then x else a.header v :=
  sparseGet_sparseSet h

@[simp] theorem ArrayState.facts_writeHeader {a : ArrayState} (h : sparseWf UnitFacts.factory a.map = true)
    (u v : Nat) (x : Header) : (a.writeHeader u x).facts v = if v = u then x.facts else a.facts v :=
  sparseGet_sparseSet h

theorem ArrayState.facts_scanHeaders (a : ArrayState) (u : Nat) : a.scanHeaders.facts u = (a.header u).facts :=
  unlisted_map Header.facts Header.facts_factory u a.headers

theorem ArrayState.wf_scanHeaders {a : ArrayState} (h : sparseWf Header.factory a.headers = true) :
    sparseWf UnitFacts.factory a.scanHeaders.map = true :=
  sparseWf_map Header.facts (fun _ => Header.eq_factory_of_facts) h

/-- Two lists in canonical form that read alike are one list. -/
theorem sparse_ext {α : Type} [DecidableEq α] (d : α) : ∀ (l m : List (Nat × α)), sparseWf d l = true → sparseWf d m = true →
    (∀ k, sparseGet d l k = sparseGet d m k) → l = m := by
  have low : ∀ (l : List (Nat × α)) (k : Nat), (l.all fun c => decide (k < c.1)) = true → sparseGet d l k = d := by
    intro l; induction l with
    | nil => intro k _; rfl
    | cons c rest ih =>
      obtain ⟨j, w⟩ := c
      intro k hk; simp only [List.all_cons, Bool.and_eq_true, decide_eq_true_eq] at hk
      simp only [sparseGet]; rw [if_neg (by omega)]; exact ih k hk.2
  have lowtrans : ∀ (l : List (Nat × α)) (k j : Nat), k ≤ j → (l.all fun c => decide (j < c.1)) = true → (l.all fun c => decide (k < c.1)) = true := by
    intro l k j hkj h; rw [List.all_eq_true] at *; intro x hx; have := h x hx; simp at *; omega
  intro l
  induction l with
  | nil =>
    intro m _ hm h
    cases m with
    | nil => rfl
    | cons c rest =>
      obtain ⟨j, w⟩ := c
      simp only [sparseWf, Bool.and_eq_true, decide_eq_true_eq] at hm
      have := h j; simp only [sparseGet, if_true] at this
      exact absurd this.symm hm.1.1
  | cons c rest ih =>
    obtain ⟨k, v⟩ := c
    intro m hl hm h
    have hl' := hl
    simp only [sparseWf, Bool.and_eq_true, decide_eq_true_eq] at hl
    cases m with
    | nil => have := h k; simp only [sparseGet, if_true] at this; exact absurd this hl.1.1
    | cons c2 rest2 =>
      obtain ⟨j, w⟩ := c2
      simp only [sparseWf, Bool.and_eq_true, decide_eq_true_eq] at hm
      have hkj : k = j := by
        rcases Nat.lt_trichotomy k j with hlt | he | hlt
        · have := h k; simp only [sparseGet, if_true] at this
          rw [if_neg (by omega), low rest2 k (lowtrans _ _ _ (by omega) hm.1.2)] at this
          exact absurd this hl.1.1
        · exact he
        · have := h j; simp only [sparseGet, if_true] at this
          rw [if_neg (by omega), low rest j (lowtrans _ _ _ (by omega) hl.1.2)] at this
          exact absurd this.symm hm.1.1
      subst hkj
      have hv : v = w := by have := h k; simpa [sparseGet] using this
      subst hv
      rw [ih rest2 hl.2 hm.2 (fun i => by
        have := h i; simp only [sparseGet] at this
        by_cases e : k = i
        · subst e; rw [low rest k hl.1.2, low rest2 k hm.1.2]
        · simpa [e] using this)]

end Sys2Proof.Machine
end

