-- ==== Sys2Proof/Laws/Frames.lean ====
section
/-! SUPPORT. What each shared operation leaves alone, field by field. -/

set_option Elab.async false

namespace Sys2Proof.Machine

/-! ### One port's answers -/

@[simp] theorem PortState.keep_handles (q : PortState) (b : Bool) (cmd : Cmd) (t : Byte) (r : Response) :
    (q.keep b cmd t r).handles = q.handles := rfl
@[simp] theorem PortState.keep_staleNotice (q : PortState) (b : Bool) (cmd : Cmd) (t : Byte) (r : Response) :
    (q.keep b cmd t r).staleNotice = q.staleNotice := rfl
@[simp] theorem PortState.keep_inhibit (q : PortState) (b : Bool) (cmd : Cmd) (t : Byte) (r : Response) :
    (q.keep b cmd t r).inhibit = q.inhibit := rfl
@[simp] theorem PortState.keep_selectLow (q : PortState) (b : Bool) (cmd : Cmd) (t : Byte) (r : Response) :
    (q.keep b cmd t r).selectLow = q.selectLow := rfl
@[simp] theorem PortState.beginPeriod_handles (q : PortState) (d : Device) : (q.beginPeriod d).handles = q.handles := rfl
@[simp] theorem PortState.beginPeriod_staleNotice (q : PortState) (d : Device) :
    (q.beginPeriod d).staleNotice = q.staleNotice := rfl
@[simp] theorem PortState.beginPeriod_inhibit (q : PortState) (d : Device) : (q.beginPeriod d).inhibit = q.inhibit := rfl
@[simp] theorem PortState.beginPeriod_undecided (q : PortState) (d : Device) :
    (q.beginPeriod d).undecided = q.undecided := rfl
/-- In STARTING no request finds an entry (R162). -/
@[simp] theorem PortState.beginPeriod_cache_starting (q : PortState) : (q.beginPeriod .starting).cache = none := rfl
@[simp] theorem PortState.deliver_handles (q : PortState) (r : Response) : (q.deliver r).handles = q.handles := by
  unfold PortState.deliver; split <;> rfl
@[simp] theorem PortState.deliver_staleNotice (q : PortState) (r : Response) : (q.deliver r).staleNotice = q.staleNotice := by
  unfold PortState.deliver; split <;> rfl
@[simp] theorem PortState.deliver_inhibit (q : PortState) (r : Response) : (q.deliver r).inhibit = q.inhibit := by
  unfold PortState.deliver; split <;> rfl
@[simp] theorem PortState.deliver_selectLow (q : PortState) (r : Response) : (q.deliver r).selectLow = q.selectLow := by
  unfold PortState.deliver; split <;> rfl
@[simp] theorem PortState.keep_framing (q : PortState) (b : Bool) (cmd : Cmd) (t : Byte) (r : Response) :
    (q.keep b cmd t r).framing = q.framing := rfl
@[simp] theorem PortState.keep_undecided (q : PortState) (b : Bool) (cmd : Cmd) (t : Byte) (r : Response) :
    (q.keep b cmd t r).undecided = q.undecided := rfl
@[simp] theorem PortState.deliver_cache (q : PortState) (r : Response) : (q.deliver r).cache = q.cache := by
  unfold PortState.deliver; split <;> rfl
@[simp] theorem PortState.deliver_undecided (q : PortState) (r : Response) : (q.deliver r).undecided = none := by
  unfold PortState.deliver; split
  · rfl
  · next h => simpa using h
@[simp] theorem PortState.makeStale_inhibit (g : HandleInfo → Bool) (q : PortState) :
    (q.makeStale g).inhibit = q.inhibit := rfl
@[simp] theorem PortState.makeStale_selectLow (g : HandleInfo → Bool) (q : PortState) :
    (q.makeStale g).selectLow = q.selectLow := rfl
@[simp] theorem PortState.makeStale_cache (g : HandleInfo → Bool) (q : PortState) :
    (q.makeStale g).cache = q.cache := rfl
@[simp] theorem PortState.makeStale_framing (g : HandleInfo → Bool) (q : PortState) :
    (q.makeStale g).framing = q.framing := rfl
@[simp] theorem PortState.makeStale_undecided (g : HandleInfo → Bool) (q : PortState) :
    (q.makeStale g).undecided = q.undecided := rfl
/-! ### `writerFault` -/
@[simp] theorem State.writerFault_pending (s : State) :
    (s.writerFault).pending = s.pending := rfl
@[simp] theorem State.writerFault_resetAsserted (s : State) :
    (s.writerFault).resetAsserted = s.resetAsserted := rfl
@[simp] theorem State.writerFault_powerGood (s : State) :
    (s.writerFault).powerGood = s.powerGood := rfl
@[simp] theorem State.writerFault_array (s : State) :
    (s.writerFault).array = s.array := rfl
@[simp] theorem State.writerFault_dir (s : State) :
    (s.writerFault).dir = s.dir := rfl
@[simp] theorem State.writerFault_formatWithdrawn (s : State) :
    (s.writerFault).formatWithdrawn = s.formatWithdrawn := rfl
@[simp] theorem State.writerFault_draws (s : State) :
    (s.writerFault).draws = s.draws := rfl
@[simp] theorem State.writerFault_sched (s : State) : (s.writerFault).sched = s.sched := rfl
@[simp] theorem State.writerFault_port (s : State) (q : Port) :
    (s.writerFault).port q = s.port q := by rfl
@[simp] theorem State.writerFault_portA (s : State) :
    (s.writerFault).portA = s.portA := rfl
@[simp] theorem State.writerFault_portB (s : State) :
    (s.writerFault).portB = s.portB := rfl
/-! ### `startWrite` -/
@[simp] theorem State.startWrite_pending (s : State) :
    (s.startWrite).pending = s.pending := by unfold State.startWrite; split <;> first | rfl
@[simp] theorem State.startWrite_resetAsserted (s : State) :
    (s.startWrite).resetAsserted = s.resetAsserted := by unfold State.startWrite; split <;> first | rfl
@[simp] theorem State.startWrite_powerGood (s : State) :
    (s.startWrite).powerGood = s.powerGood := by unfold State.startWrite; split <;> first | rfl
@[simp] theorem State.startWrite_array (s : State) :
    (s.startWrite).array = s.array := by unfold State.startWrite; split <;> first | rfl
@[simp] theorem State.startWrite_dir (s : State) :
    (s.startWrite).dir = s.dir := by unfold State.startWrite; split <;> first | rfl
@[simp] theorem State.startWrite_formatWithdrawn (s : State) :
    (s.startWrite).formatWithdrawn = s.formatWithdrawn := by unfold State.startWrite; split <;> first | rfl
@[simp] theorem State.startWrite_draws (s : State) :
    (s.startWrite).draws = s.draws := by unfold State.startWrite; split <;> first | rfl
@[simp] theorem State.startWrite_sched (s : State) : (s.startWrite).sched = s.sched := by unfold State.startWrite; split <;> first | rfl
@[simp] theorem State.startWrite_port (s : State) (q : Port) :
    (s.startWrite).port q = s.port q := by unfold State.startWrite; split <;> rfl
@[simp] theorem State.startWrite_portA (s : State) :
    (s.startWrite).portA = s.portA := by unfold State.startWrite; split <;> first | rfl
@[simp] theorem State.startWrite_portB (s : State) :
    (s.startWrite).portB = s.portB := by unfold State.startWrite; split <;> first | rfl
/-! ### `kick` -/
@[simp] theorem State.kick_pending (s : State) :
    (s.kick).pending = s.pending := by unfold State.kick; split <;> simp
@[simp] theorem State.kick_resetAsserted (s : State) :
    (s.kick).resetAsserted = s.resetAsserted := by unfold State.kick; split <;> simp
@[simp] theorem State.kick_powerGood (s : State) :
    (s.kick).powerGood = s.powerGood := by unfold State.kick; split <;> simp
@[simp] theorem State.kick_array (s : State) :
    (s.kick).array = s.array := by unfold State.kick; split <;> simp
@[simp] theorem State.kick_dir (s : State) :
    (s.kick).dir = s.dir := by unfold State.kick; split <;> simp
@[simp] theorem State.kick_formatWithdrawn (s : State) :
    (s.kick).formatWithdrawn = s.formatWithdrawn := by unfold State.kick; split <;> simp
@[simp] theorem State.kick_draws (s : State) :
    (s.kick).draws = s.draws := by unfold State.kick; split <;> simp
@[simp] theorem State.kick_sched (s : State) : (s.kick).sched = s.sched := by unfold State.kick; split <;> simp
@[simp] theorem State.kick_port (s : State) (q : Port) :
    (s.kick).port q = s.port q := by unfold State.kick; split <;> simp
@[simp] theorem State.kick_portA (s : State) :
    (s.kick).portA = s.portA := by unfold State.kick; split <;> simp
@[simp] theorem State.kick_portB (s : State) :
    (s.kick).portB = s.portB := by unfold State.kick; split <;> simp
/-! ### `markDirty` -/
@[simp] theorem State.markDirty_pending (s : State) :
    (s.markDirty).pending = s.pending := State.kick_pending _
@[simp] theorem State.markDirty_resetAsserted (s : State) :
    (s.markDirty).resetAsserted = s.resetAsserted := State.kick_resetAsserted _
@[simp] theorem State.markDirty_powerGood (s : State) :
    (s.markDirty).powerGood = s.powerGood := State.kick_powerGood _
@[simp] theorem State.markDirty_array (s : State) :
    (s.markDirty).array = s.array := State.kick_array _
@[simp] theorem State.markDirty_dir (s : State) :
    (s.markDirty).dir = s.dir := State.kick_dir _
@[simp] theorem State.markDirty_formatWithdrawn (s : State) :
    (s.markDirty).formatWithdrawn = s.formatWithdrawn := State.kick_formatWithdrawn _
@[simp] theorem State.markDirty_draws (s : State) :
    (s.markDirty).draws = s.draws := State.kick_draws _
@[simp] theorem State.markDirty_sched (s : State) : (s.markDirty).sched = s.sched := State.kick_sched _
@[simp] theorem State.markDirty_port (s : State) (q : Port) :
    (s.markDirty).port q = s.port q := (State.kick_port _ q).trans (by cases q <;> rfl)
@[simp] theorem State.markDirty_portA (s : State) :
    (s.markDirty).portA = s.portA := State.kick_portA _
@[simp] theorem State.markDirty_portB (s : State) :
    (s.markDirty).portB = s.portB := State.kick_portB _
/-! ### `completeWrite` -/
@[simp] theorem State.completeWrite_pending (s : State) (j : WriteJob) :
    (s.completeWrite j).pending = s.pending := rfl
@[simp] theorem State.completeWrite_resetAsserted (s : State) (j : WriteJob) :
    (s.completeWrite j).resetAsserted = s.resetAsserted := rfl
@[simp] theorem State.completeWrite_powerGood (s : State) (j : WriteJob) :
    (s.completeWrite j).powerGood = s.powerGood := rfl
@[simp] theorem State.completeWrite_device (s : State) (j : WriteJob) :
    (s.completeWrite j).device = s.device := rfl
@[simp] theorem State.completeWrite_array (s : State) (j : WriteJob) :
    (s.completeWrite j).array = s.array := rfl
@[simp] theorem State.completeWrite_formatWithdrawn (s : State) (j : WriteJob) :
    (s.completeWrite j).formatWithdrawn = s.formatWithdrawn := rfl
@[simp] theorem State.completeWrite_draws (s : State) (j : WriteJob) :
    (s.completeWrite j).draws = s.draws := rfl
@[simp] theorem State.completeWrite_sched (s : State) (j : WriteJob) : (s.completeWrite j).sched = s.sched := rfl
@[simp] theorem State.completeWrite_port (s : State) (j : WriteJob) (q : Port) :
    (s.completeWrite j).port q = s.port q := by rfl
@[simp] theorem State.completeWrite_portA (s : State) (j : WriteJob) :
    (s.completeWrite j).portA = s.portA := rfl
@[simp] theorem State.completeWrite_portB (s : State) (j : WriteJob) :
    (s.completeWrite j).portB = s.portB := rfl
/-! ### `completeFormat` -/
@[simp] theorem State.completeFormat_pending (s : State) (j : WriteJob) :
    (s.completeFormat j).pending = s.pending := rfl
@[simp] theorem State.completeFormat_resetAsserted (s : State) (j : WriteJob) :
    (s.completeFormat j).resetAsserted = s.resetAsserted := rfl
@[simp] theorem State.completeFormat_powerGood (s : State) (j : WriteJob) :
    (s.completeFormat j).powerGood = s.powerGood := rfl
@[simp] theorem State.completeFormat_array (s : State) (j : WriteJob) :
    (s.completeFormat j).array = s.array := rfl
@[simp] theorem State.completeFormat_formatWithdrawn (s : State) (j : WriteJob) :
    (s.completeFormat j).formatWithdrawn = s.formatWithdrawn := rfl
@[simp] theorem State.completeFormat_draws (s : State) (j : WriteJob) :
    (s.completeFormat j).draws = s.draws := rfl
@[simp] theorem State.completeFormat_sched (s : State) (j : WriteJob) : (s.completeFormat j).sched = s.sched := rfl
@[simp] theorem State.completeFormat_port (s : State) (j : WriteJob) (q : Port) :
    (s.completeFormat j).port q = s.port q := by rfl
@[simp] theorem State.completeFormat_portA (s : State) (j : WriteJob) :
    (s.completeFormat j).portA = s.portA := rfl
@[simp] theorem State.completeFormat_portB (s : State) (j : WriteJob) :
    (s.completeFormat j).portB = s.portB := rfl
/-! ### `failAttempt` -/
@[simp] theorem State.failAttempt_pending (s : State) (j : WriteJob) :
    (s.failAttempt j).pending = s.pending := by unfold State.failAttempt; simp only; split <;> first | rfl
@[simp] theorem State.failAttempt_resetAsserted (s : State) (j : WriteJob) :
    (s.failAttempt j).resetAsserted = s.resetAsserted := by unfold State.failAttempt; simp only; split <;> first | rfl
@[simp] theorem State.failAttempt_powerGood (s : State) (j : WriteJob) :
    (s.failAttempt j).powerGood = s.powerGood := by unfold State.failAttempt; simp only; split <;> first | rfl
@[simp] theorem State.failAttempt_array (s : State) (j : WriteJob) :
    (s.failAttempt j).array = s.array := by unfold State.failAttempt; simp only; split <;> first | rfl
@[simp] theorem State.failAttempt_dir (s : State) (j : WriteJob) :
    (s.failAttempt j).dir = s.dir := by unfold State.failAttempt; simp only; split <;> first | rfl
@[simp] theorem State.failAttempt_formatWithdrawn (s : State) (j : WriteJob) :
    (s.failAttempt j).formatWithdrawn = s.formatWithdrawn := by unfold State.failAttempt; simp only; split <;> first | rfl
@[simp] theorem State.failAttempt_sched (s : State) (j : WriteJob) : (s.failAttempt j).sched = s.sched := by unfold State.failAttempt; simp only; split <;> first | rfl
@[simp] theorem State.failAttempt_port (s : State) (j : WriteJob) (q : Port) :
    (s.failAttempt j).port q = s.port q := by unfold State.failAttempt; simp only; split <;> rfl
@[simp] theorem State.failAttempt_portA (s : State) (j : WriteJob) :
    (s.failAttempt j).portA = s.portA := by unfold State.failAttempt; simp only; split <;> first | rfl
@[simp] theorem State.failAttempt_portB (s : State) (j : WriteJob) :
    (s.failAttempt j).portB = s.portB := by unfold State.failAttempt; simp only; split <;> first | rfl
/-! ### `waitDirectory` -/
@[simp] theorem State.waitDirectory_pending (s : State) (p : Port) (w : Work) (r : RegionRef) (n : Nat) :
    (s.waitDirectory p w r n).pending = s.pending := by unfold State.waitDirectory; simp
@[simp] theorem State.waitDirectory_resetAsserted (s : State) (p : Port) (w : Work) (r : RegionRef) (n : Nat) :
    (s.waitDirectory p w r n).resetAsserted = s.resetAsserted := by unfold State.waitDirectory; simp
@[simp] theorem State.waitDirectory_powerGood (s : State) (p : Port) (w : Work) (r : RegionRef) (n : Nat) :
    (s.waitDirectory p w r n).powerGood = s.powerGood := by unfold State.waitDirectory; simp
@[simp] theorem State.waitDirectory_array (s : State) (p : Port) (w : Work) (r : RegionRef) (n : Nat) :
    (s.waitDirectory p w r n).array = s.array := by unfold State.waitDirectory; simp
@[simp] theorem State.waitDirectory_dir (s : State) (p : Port) (w : Work) (r : RegionRef) (n : Nat) :
    (s.waitDirectory p w r n).dir = s.dir := by unfold State.waitDirectory; simp
@[simp] theorem State.waitDirectory_formatWithdrawn (s : State) (p : Port) (w : Work) (r : RegionRef) (n : Nat) :
    (s.waitDirectory p w r n).formatWithdrawn = s.formatWithdrawn := by unfold State.waitDirectory; simp
@[simp] theorem State.waitDirectory_draws (s : State) (p : Port) (w : Work) (r : RegionRef) (n : Nat) :
    (s.waitDirectory p w r n).draws = s.draws := by unfold State.waitDirectory; simp
@[simp] theorem State.waitDirectory_sched (s : State) (p : Port) (w : Work) (r : RegionRef) (n : Nat) : (s.waitDirectory p w r n).sched = s.sched := by unfold State.waitDirectory; simp
@[simp] theorem State.waitDirectory_port (s : State) (p : Port) (w : Work) (r : RegionRef) (n : Nat) (q : Port) :
    (s.waitDirectory p w r n).port q = s.port q := by unfold State.waitDirectory; simp
@[simp] theorem State.waitDirectory_portA (s : State) (p : Port) (w : Work) (r : RegionRef) (n : Nat) :
    (s.waitDirectory p w r n).portA = s.portA := by unfold State.waitDirectory; simp
@[simp] theorem State.waitDirectory_portB (s : State) (p : Port) (w : Work) (r : RegionRef) (n : Nat) :
    (s.waitDirectory p w r n).portB = s.portB := by unfold State.waitDirectory; simp
/-! ### `kept` -/
@[simp] theorem State.kept_handles (s : State) (p : Port) (cmd : Cmd) (t : Byte) (r : Response) :
    (s.kept p cmd t r).handles = (s.port p).handles := rfl
@[simp] theorem State.kept_staleNotice (s : State) (p : Port) (cmd : Cmd) (t : Byte) (r : Response) :
    (s.kept p cmd t r).staleNotice = (s.port p).staleNotice := rfl
@[simp] theorem State.kept_inhibit (s : State) (p : Port) (cmd : Cmd) (t : Byte) (r : Response) :
    (s.kept p cmd t r).inhibit = (s.port p).inhibit := rfl
@[simp] theorem State.kept_selectLow (s : State) (p : Port) (cmd : Cmd) (t : Byte) (r : Response) :
    (s.kept p cmd t r).selectLow = (s.port p).selectLow := rfl
@[simp] theorem State.kept_framing (s : State) (p : Port) (cmd : Cmd) (t : Byte) (r : Response) :
    (s.kept p cmd t r).framing = (s.port p).framing := rfl
@[simp] theorem State.kept_undecided (s : State) (p : Port) (cmd : Cmd) (t : Byte) (r : Response) :
    (s.kept p cmd t r).undecided = (s.port p).undecided := rfl
/-! ### `finish` -/
@[simp] theorem State.finish_pending (p : Port) (cmd : Cmd) (t : Byte) (r : Reply) (s : State) : (s.finish p cmd t r).pending = s.pending := by unfold State.finish; simp
@[simp] theorem State.finish_resetAsserted (p : Port) (cmd : Cmd) (t : Byte) (r : Reply) (s : State) : (s.finish p cmd t r).resetAsserted = s.resetAsserted := by unfold State.finish; simp
@[simp] theorem State.finish_powerGood (p : Port) (cmd : Cmd) (t : Byte) (r : Reply) (s : State) : (s.finish p cmd t r).powerGood = s.powerGood := by unfold State.finish; simp
@[simp] theorem State.finish_device (p : Port) (cmd : Cmd) (t : Byte) (r : Reply) (s : State) : (s.finish p cmd t r).device = s.device := by unfold State.finish; simp
@[simp] theorem State.finish_array (p : Port) (cmd : Cmd) (t : Byte) (r : Reply) (s : State) : (s.finish p cmd t r).array = s.array := by unfold State.finish; simp
@[simp] theorem State.finish_dir (p : Port) (cmd : Cmd) (t : Byte) (r : Reply) (s : State) : (s.finish p cmd t r).dir = s.dir := by unfold State.finish; simp
@[simp] theorem State.finish_store (p : Port) (cmd : Cmd) (t : Byte) (r : Reply) (s : State) : (s.finish p cmd t r).store = s.store := by unfold State.finish; simp
@[simp] theorem State.finish_formatWithdrawn (p : Port) (cmd : Cmd) (t : Byte) (r : Reply) (s : State) : (s.finish p cmd t r).formatWithdrawn = s.formatWithdrawn := by unfold State.finish; simp
@[simp] theorem State.finish_slots (p : Port) (cmd : Cmd) (t : Byte) (r : Reply) (s : State) : (s.finish p cmd t r).slots = s.slots := by unfold State.finish; simp
@[simp] theorem State.finish_draws (p : Port) (cmd : Cmd) (t : Byte) (r : Reply) (s : State) : (s.finish p cmd t r).draws = s.draws := by unfold State.finish; simp
@[simp] theorem State.finish_sched (p : Port) (cmd : Cmd) (t : Byte) (r : Reply) (s : State) : (s.finish p cmd t r).sched = s.sched := by unfold State.finish; simp
@[simp] theorem State.finish_port_handles (p : Port) (cmd : Cmd) (t : Byte) (r : Reply) (s : State) (q : Port) : ((s.finish p cmd t r).port q).handles = (s.port q).handles := by
  unfold State.finish; rw [State.setPort_port]; split
  · next h => subst h; simp
  · rfl
@[simp] theorem State.finish_port_staleNotice (p : Port) (cmd : Cmd) (t : Byte) (r : Reply) (s : State) (q : Port) : ((s.finish p cmd t r).port q).staleNotice = (s.port q).staleNotice := by
  unfold State.finish; rw [State.setPort_port]; split
  · next h => subst h; simp
  · rfl
@[simp] theorem State.finish_port_inhibit (p : Port) (cmd : Cmd) (t : Byte) (r : Reply) (s : State) (q : Port) : ((s.finish p cmd t r).port q).inhibit = (s.port q).inhibit := by
  unfold State.finish; rw [State.setPort_port]; split
  · next h => subst h; simp
  · rfl
@[simp] theorem State.finish_port_selectLow (p : Port) (cmd : Cmd) (t : Byte) (r : Reply) (s : State) (q : Port) : ((s.finish p cmd t r).port q).selectLow = (s.port q).selectLow := by
  unfold State.finish; rw [State.setPort_port]; split
  · next h => subst h; simp
  · rfl
theorem State.finish_port_of_ne (p : Port) (cmd : Cmd) (t : Byte) (r : Reply) (s : State) (q : Port) (h : q ≠ p) : (s.finish p cmd t r).port q = s.port q := by
  unfold State.finish; rw [State.setPort_port_of_ne _ h]
/-! ### `answerFrame` -/
@[simp] theorem State.answerFrame_pending (s : State) (p : Port) (t : Byte) (st : Status) : (s.answerFrame p t st).pending = s.pending := by unfold State.answerFrame; simp
@[simp] theorem State.answerFrame_resetAsserted (s : State) (p : Port) (t : Byte) (st : Status) : (s.answerFrame p t st).resetAsserted = s.resetAsserted := by unfold State.answerFrame; simp
@[simp] theorem State.answerFrame_powerGood (s : State) (p : Port) (t : Byte) (st : Status) : (s.answerFrame p t st).powerGood = s.powerGood := by unfold State.answerFrame; simp
@[simp] theorem State.answerFrame_device (s : State) (p : Port) (t : Byte) (st : Status) : (s.answerFrame p t st).device = s.device := by unfold State.answerFrame; simp
@[simp] theorem State.answerFrame_array (s : State) (p : Port) (t : Byte) (st : Status) : (s.answerFrame p t st).array = s.array := by unfold State.answerFrame; simp
@[simp] theorem State.answerFrame_dir (s : State) (p : Port) (t : Byte) (st : Status) : (s.answerFrame p t st).dir = s.dir := by unfold State.answerFrame; simp
@[simp] theorem State.answerFrame_store (s : State) (p : Port) (t : Byte) (st : Status) : (s.answerFrame p t st).store = s.store := by unfold State.answerFrame; simp
@[simp] theorem State.answerFrame_formatWithdrawn (s : State) (p : Port) (t : Byte) (st : Status) : (s.answerFrame p t st).formatWithdrawn = s.formatWithdrawn := by unfold State.answerFrame; simp
@[simp] theorem State.answerFrame_slots (s : State) (p : Port) (t : Byte) (st : Status) : (s.answerFrame p t st).slots = s.slots := by unfold State.answerFrame; simp
@[simp] theorem State.answerFrame_draws (s : State) (p : Port) (t : Byte) (st : Status) : (s.answerFrame p t st).draws = s.draws := by unfold State.answerFrame; simp
@[simp] theorem State.answerFrame_sched (s : State) (p : Port) (t : Byte) (st : Status) : (s.answerFrame p t st).sched = s.sched := by unfold State.answerFrame; simp
@[simp] theorem State.answerFrame_port_handles (s : State) (p : Port) (t : Byte) (st : Status) (q : Port) : ((s.answerFrame p t st).port q).handles = (s.port q).handles := by
  unfold State.answerFrame; rw [State.setPort_port]; split
  · next h => subst h; simp
  · rfl
@[simp] theorem State.answerFrame_port_staleNotice (s : State) (p : Port) (t : Byte) (st : Status) (q : Port) : ((s.answerFrame p t st).port q).staleNotice = (s.port q).staleNotice := by
  unfold State.answerFrame; rw [State.setPort_port]; split
  · next h => subst h; simp
  · rfl
@[simp] theorem State.answerFrame_port_inhibit (s : State) (p : Port) (t : Byte) (st : Status) (q : Port) : ((s.answerFrame p t st).port q).inhibit = (s.port q).inhibit := by
  unfold State.answerFrame; rw [State.setPort_port]; split
  · next h => subst h; simp
  · rfl
@[simp] theorem State.answerFrame_port_selectLow (s : State) (p : Port) (t : Byte) (st : Status) (q : Port) : ((s.answerFrame p t st).port q).selectLow = (s.port q).selectLow := by
  unfold State.answerFrame; rw [State.setPort_port]; split
  · next h => subst h; simp
  · rfl
theorem State.answerFrame_port_of_ne (s : State) (p : Port) (t : Byte) (st : Status) (q : Port) (h : q ≠ p) : (s.answerFrame p t st).port q = s.port q := by
  unfold State.answerFrame; rw [State.setPort_port_of_ne _ h]
/-! ### `sendReplay` -/
@[simp] theorem State.sendReplay_pending (s : State) (p : Port) (r : Response) : (s.sendReplay p r).pending = s.pending := by unfold State.sendReplay; simp
@[simp] theorem State.sendReplay_resetAsserted (s : State) (p : Port) (r : Response) : (s.sendReplay p r).resetAsserted = s.resetAsserted := by unfold State.sendReplay; simp
@[simp] theorem State.sendReplay_powerGood (s : State) (p : Port) (r : Response) : (s.sendReplay p r).powerGood = s.powerGood := by unfold State.sendReplay; simp
@[simp] theorem State.sendReplay_device (s : State) (p : Port) (r : Response) : (s.sendReplay p r).device = s.device := by unfold State.sendReplay; simp
@[simp] theorem State.sendReplay_array (s : State) (p : Port) (r : Response) : (s.sendReplay p r).array = s.array := by unfold State.sendReplay; simp
@[simp] theorem State.sendReplay_dir (s : State) (p : Port) (r : Response) : (s.sendReplay p r).dir = s.dir := by unfold State.sendReplay; simp
@[simp] theorem State.sendReplay_store (s : State) (p : Port) (r : Response) : (s.sendReplay p r).store = s.store := by unfold State.sendReplay; simp
@[simp] theorem State.sendReplay_formatWithdrawn (s : State) (p : Port) (r : Response) : (s.sendReplay p r).formatWithdrawn = s.formatWithdrawn := by unfold State.sendReplay; simp
@[simp] theorem State.sendReplay_slots (s : State) (p : Port) (r : Response) : (s.sendReplay p r).slots = s.slots := by unfold State.sendReplay; simp
@[simp] theorem State.sendReplay_draws (s : State) (p : Port) (r : Response) : (s.sendReplay p r).draws = s.draws := by unfold State.sendReplay; simp
@[simp] theorem State.sendReplay_sched (s : State) (p : Port) (r : Response) : (s.sendReplay p r).sched = s.sched := by unfold State.sendReplay; simp
@[simp] theorem State.sendReplay_port_handles (s : State) (p : Port) (r : Response) (q : Port) : ((s.sendReplay p r).port q).handles = (s.port q).handles := by
  unfold State.sendReplay; rw [State.setPort_port]; split
  · next h => subst h; simp
  · rfl
@[simp] theorem State.sendReplay_port_staleNotice (s : State) (p : Port) (r : Response) (q : Port) : ((s.sendReplay p r).port q).staleNotice = (s.port q).staleNotice := by
  unfold State.sendReplay; rw [State.setPort_port]; split
  · next h => subst h; simp
  · rfl
@[simp] theorem State.sendReplay_port_inhibit (s : State) (p : Port) (r : Response) (q : Port) : ((s.sendReplay p r).port q).inhibit = (s.port q).inhibit := by
  unfold State.sendReplay; rw [State.setPort_port]; split
  · next h => subst h; simp
  · rfl
@[simp] theorem State.sendReplay_port_selectLow (s : State) (p : Port) (r : Response) (q : Port) : ((s.sendReplay p r).port q).selectLow = (s.port q).selectLow := by
  unfold State.sendReplay; rw [State.setPort_port]; split
  · next h => subst h; simp
  · rfl
theorem State.sendReplay_port_of_ne (s : State) (p : Port) (r : Response) (q : Port) (h : q ≠ p) : (s.sendReplay p r).port q = s.port q := by
  unfold State.sendReplay; rw [State.setPort_port_of_ne _ h]
/-! ### `serve` -/
@[simp] theorem State.serve_pending (s : State) (w : ReadWait) : (s.serve w).pending = s.pending := by
  unfold State.serve; simp
@[simp] theorem State.serve_resetAsserted (s : State) (w : ReadWait) : (s.serve w).resetAsserted = s.resetAsserted := by
  unfold State.serve; simp
@[simp] theorem State.serve_powerGood (s : State) (w : ReadWait) : (s.serve w).powerGood = s.powerGood := by
  unfold State.serve; simp
@[simp] theorem State.serve_device (s : State) (w : ReadWait) : (s.serve w).device = s.device := by
  unfold State.serve; simp
@[simp] theorem State.serve_array (s : State) (w : ReadWait) : (s.serve w).array = s.array := by
  unfold State.serve; simp
@[simp] theorem State.serve_dir (s : State) (w : ReadWait) : (s.serve w).dir = s.dir := by
  unfold State.serve; simp
@[simp] theorem State.serve_store (s : State) (w : ReadWait) : (s.serve w).store = s.store := by
  unfold State.serve; simp
@[simp] theorem State.serve_formatWithdrawn (s : State) (w : ReadWait) : (s.serve w).formatWithdrawn = s.formatWithdrawn := by
  unfold State.serve; simp
@[simp] theorem State.serve_slots (s : State) (w : ReadWait) : (s.serve w).slots = s.slots := by
  unfold State.serve; simp
@[simp] theorem State.serve_draws (s : State) (w : ReadWait) : (s.serve w).draws = s.draws := by
  unfold State.serve; simp
@[simp] theorem State.serve_sched (s : State) (w : ReadWait) : (s.serve w).sched = s.sched := by
  unfold State.serve; simp
@[simp] theorem State.serve_port_handles (s : State) (w : ReadWait) (q : Port) : ((s.serve w).port q).handles = (s.port q).handles := by
  unfold State.serve; simp
@[simp] theorem State.serve_port_staleNotice (s : State) (w : ReadWait) (q : Port) : ((s.serve w).port q).staleNotice = (s.port q).staleNotice := by
  unfold State.serve; simp
@[simp] theorem State.serve_port_inhibit (s : State) (w : ReadWait) (q : Port) : ((s.serve w).port q).inhibit = (s.port q).inhibit := by
  unfold State.serve; simp
@[simp] theorem State.serve_port_selectLow (s : State) (w : ReadWait) (q : Port) : ((s.serve w).port q).selectLow = (s.port q).selectLow := by
  unfold State.serve; simp
theorem State.serve_port_of_ne (s : State) (w : ReadWait) (q : Port) (h : q ≠ w.port) : (s.serve w).port q = s.port q := by
  unfold State.serve; exact State.finish_port_of_ne _ _ _ _ _ _ h

/-! ### `serveAll` -/

/-- What serving keeps, one waiter after another. -/
theorem State.foldl_serve {β : Type} (g : State → β) (h : ∀ t w, g (State.serve t w) = g t) (l : List ReadWait) :
    ∀ s : State, g (l.foldl State.serve s) = g s := by
  induction l with
  | nil => intro s; rfl
  | cons w rest ih => intro s; rw [List.foldl_cons, ih, h]

@[simp] theorem State.serveAll_pending (s : State) : s.serveAll.pending = s.pending :=
  State.foldl_serve (fun t => t.pending) (by simp) _ s
@[simp] theorem State.serveAll_resetAsserted (s : State) : s.serveAll.resetAsserted = s.resetAsserted :=
  State.foldl_serve (fun t => t.resetAsserted) (by simp) _ s
@[simp] theorem State.serveAll_powerGood (s : State) : s.serveAll.powerGood = s.powerGood :=
  State.foldl_serve (fun t => t.powerGood) (by simp) _ s
@[simp] theorem State.serveAll_device (s : State) : s.serveAll.device = s.device :=
  State.foldl_serve (fun t => t.device) (by simp) _ s
@[simp] theorem State.serveAll_array (s : State) : s.serveAll.array = s.array :=
  State.foldl_serve (fun t => t.array) (by simp) _ s
@[simp] theorem State.serveAll_dir (s : State) : s.serveAll.dir = s.dir :=
  State.foldl_serve (fun t => t.dir) (by simp) _ s
@[simp] theorem State.serveAll_store (s : State) : s.serveAll.store = s.store :=
  State.foldl_serve (fun t => t.store) (by simp) _ s
@[simp] theorem State.serveAll_formatWithdrawn (s : State) : s.serveAll.formatWithdrawn = s.formatWithdrawn :=
  State.foldl_serve (fun t => t.formatWithdrawn) (by simp) _ s
@[simp] theorem State.serveAll_slots (s : State) : s.serveAll.slots = s.slots :=
  State.foldl_serve (fun t => t.slots) (by simp) _ s
@[simp] theorem State.serveAll_draws (s : State) : s.serveAll.draws = s.draws :=
  State.foldl_serve (fun t => t.draws) (by simp) _ s
@[simp] theorem State.serveAll_sched_queue (s : State) : s.serveAll.sched.queue = s.sched.queue :=
  State.foldl_serve (fun t => t.sched.queue) (by simp) _ s
@[simp] theorem State.serveAll_sched_nextArrival (s : State) : s.serveAll.sched.nextArrival = s.sched.nextArrival :=
  State.foldl_serve (fun t => t.sched.nextArrival) (by simp) _ s
@[simp] theorem State.serveAll_sched_activity (s : State) : s.serveAll.sched.activity = s.sched.activity :=
  State.foldl_serve (fun t => t.sched.activity) (by simp) _ s
@[simp] theorem State.serveAll_waiters (s : State) : s.serveAll.sched.waiters = [] := rfl
@[simp] theorem State.serveAll_port_handles (s : State) (q : Port) : (s.serveAll.port q).handles = (s.port q).handles := by
  have := State.foldl_serve (fun t => (t.port q).handles) (by simp) s.sched.waiters s
  cases q <;> exact this
@[simp] theorem State.serveAll_port_staleNotice (s : State) (q : Port) : (s.serveAll.port q).staleNotice = (s.port q).staleNotice := by
  have := State.foldl_serve (fun t => (t.port q).staleNotice) (by simp) s.sched.waiters s
  cases q <;> exact this
@[simp] theorem State.serveAll_port_inhibit (s : State) (q : Port) : (s.serveAll.port q).inhibit = (s.port q).inhibit := by
  have := State.foldl_serve (fun t => (t.port q).inhibit) (by simp) s.sched.waiters s
  cases q <;> exact this
@[simp] theorem State.serveAll_port_selectLow (s : State) (q : Port) : (s.serveAll.port q).selectLow = (s.port q).selectLow := by
  have := State.foldl_serve (fun t => (t.port q).selectLow) (by simp) s.sched.waiters s
  cases q <;> exact this
/-! ### `startErase` -/
@[simp] theorem State.startErase_pending (s : State) (o : EraseOwner) (u : Nat) :
    (s.startErase o u).pending = s.pending := rfl
@[simp] theorem State.startErase_resetAsserted (s : State) (o : EraseOwner) (u : Nat) :
    (s.startErase o u).resetAsserted = s.resetAsserted := rfl
@[simp] theorem State.startErase_powerGood (s : State) (o : EraseOwner) (u : Nat) :
    (s.startErase o u).powerGood = s.powerGood := rfl
@[simp] theorem State.startErase_device (s : State) (o : EraseOwner) (u : Nat) :
    (s.startErase o u).device = s.device := rfl
@[simp] theorem State.startErase_dir (s : State) (o : EraseOwner) (u : Nat) :
    (s.startErase o u).dir = s.dir := rfl
@[simp] theorem State.startErase_store (s : State) (o : EraseOwner) (u : Nat) :
    (s.startErase o u).store = s.store := rfl
@[simp] theorem State.startErase_formatWithdrawn (s : State) (o : EraseOwner) (u : Nat) :
    (s.startErase o u).formatWithdrawn = s.formatWithdrawn := rfl
@[simp] theorem State.startErase_slots (s : State) (o : EraseOwner) (u : Nat) :
    (s.startErase o u).slots = s.slots := rfl
@[simp] theorem State.startErase_draws (s : State) (o : EraseOwner) (u : Nat) :
    (s.startErase o u).draws = s.draws := rfl
@[simp] theorem State.startErase_sched_queue (s : State) (o : EraseOwner) (u : Nat) :
    (s.startErase o u).sched.queue = s.sched.queue := rfl
@[simp] theorem State.startErase_sched_nextArrival (s : State) (o : EraseOwner) (u : Nat) :
    (s.startErase o u).sched.nextArrival = s.sched.nextArrival := rfl
@[simp] theorem State.startErase_sched_waiters (s : State) (o : EraseOwner) (u : Nat) :
    (s.startErase o u).sched.waiters = s.sched.waiters := rfl
@[simp] theorem State.startErase_port (s : State) (o : EraseOwner) (u : Nat) (q : Port) :
    (s.startErase o u).port q = s.port q := by rfl
@[simp] theorem State.startErase_portA (s : State) (o : EraseOwner) (u : Nat) :
    (s.startErase o u).portA = s.portA := rfl
@[simp] theorem State.startErase_portB (s : State) (o : EraseOwner) (u : Nat) :
    (s.startErase o u).portB = s.portB := rfl
/-! ### `eraseUnit` -/
@[simp] theorem State.eraseUnit_pending (s : State) (n u : Nat) :
    (s.eraseUnit n u).pending = s.pending := by unfold State.eraseUnit; split <;> simp
@[simp] theorem State.eraseUnit_resetAsserted (s : State) (n u : Nat) :
    (s.eraseUnit n u).resetAsserted = s.resetAsserted := by unfold State.eraseUnit; split <;> simp
@[simp] theorem State.eraseUnit_powerGood (s : State) (n u : Nat) :
    (s.eraseUnit n u).powerGood = s.powerGood := by unfold State.eraseUnit; split <;> simp
@[simp] theorem State.eraseUnit_device (s : State) (n u : Nat) :
    (s.eraseUnit n u).device = s.device := by unfold State.eraseUnit; split <;> simp
@[simp] theorem State.eraseUnit_dir (s : State) (n u : Nat) :
    (s.eraseUnit n u).dir = s.dir := by unfold State.eraseUnit; split <;> simp
@[simp] theorem State.eraseUnit_store (s : State) (n u : Nat) :
    (s.eraseUnit n u).store = s.store := by unfold State.eraseUnit; split <;> simp
@[simp] theorem State.eraseUnit_formatWithdrawn (s : State) (n u : Nat) :
    (s.eraseUnit n u).formatWithdrawn = s.formatWithdrawn := by unfold State.eraseUnit; split <;> simp
@[simp] theorem State.eraseUnit_draws (s : State) (n u : Nat) :
    (s.eraseUnit n u).draws = s.draws := by unfold State.eraseUnit; split <;> simp
@[simp] theorem State.eraseUnit_sched_queue (s : State) (n u : Nat) :
    (s.eraseUnit n u).sched.queue = s.sched.queue := by unfold State.eraseUnit; split <;> simp
@[simp] theorem State.eraseUnit_sched_nextArrival (s : State) (n u : Nat) :
    (s.eraseUnit n u).sched.nextArrival = s.sched.nextArrival := by unfold State.eraseUnit; split <;> simp
@[simp] theorem State.eraseUnit_sched_waiters (s : State) (n u : Nat) :
    (s.eraseUnit n u).sched.waiters = s.sched.waiters := by unfold State.eraseUnit; split <;> simp
@[simp] theorem State.eraseUnit_port (s : State) (n u : Nat) (q : Port) :
    (s.eraseUnit n u).port q = s.port q := by unfold State.eraseUnit; split <;> simp
@[simp] theorem State.eraseUnit_portA (s : State) (n u : Nat) :
    (s.eraseUnit n u).portA = s.portA := by unfold State.eraseUnit; split <;> simp
@[simp] theorem State.eraseUnit_portB (s : State) (n u : Nat) :
    (s.eraseUnit n u).portB = s.portB := by unfold State.eraseUnit; split <;> simp
/-! ### `startProgram` -/
@[simp] theorem State.startProgram_pending (s : State) (n a : Nat) :
    (s.startProgram n a).pending = s.pending := by unfold State.startProgram; split <;> simp
@[simp] theorem State.startProgram_resetAsserted (s : State) (n a : Nat) :
    (s.startProgram n a).resetAsserted = s.resetAsserted := by unfold State.startProgram; split <;> simp
@[simp] theorem State.startProgram_powerGood (s : State) (n a : Nat) :
    (s.startProgram n a).powerGood = s.powerGood := by unfold State.startProgram; split <;> simp
@[simp] theorem State.startProgram_device (s : State) (n a : Nat) :
    (s.startProgram n a).device = s.device := by unfold State.startProgram; split <;> simp
@[simp] theorem State.startProgram_array (s : State) (n a : Nat) :
    (s.startProgram n a).array = s.array := by unfold State.startProgram; split <;> simp
@[simp] theorem State.startProgram_dir (s : State) (n a : Nat) :
    (s.startProgram n a).dir = s.dir := by unfold State.startProgram; split <;> simp
@[simp] theorem State.startProgram_store (s : State) (n a : Nat) :
    (s.startProgram n a).store = s.store := by unfold State.startProgram; split <;> simp
@[simp] theorem State.startProgram_formatWithdrawn (s : State) (n a : Nat) :
    (s.startProgram n a).formatWithdrawn = s.formatWithdrawn := by unfold State.startProgram; split <;> simp
@[simp] theorem State.startProgram_draws (s : State) (n a : Nat) :
    (s.startProgram n a).draws = s.draws := by unfold State.startProgram; split <;> simp
@[simp] theorem State.startProgram_sched_queue (s : State) (n a : Nat) :
    (s.startProgram n a).sched.queue = s.sched.queue := by unfold State.startProgram; split <;> simp
@[simp] theorem State.startProgram_sched_nextArrival (s : State) (n a : Nat) :
    (s.startProgram n a).sched.nextArrival = s.sched.nextArrival := by unfold State.startProgram; split <;> simp
@[simp] theorem State.startProgram_sched_waiters (s : State) (n a : Nat) :
    (s.startProgram n a).sched.waiters = s.sched.waiters := by unfold State.startProgram; split <;> simp
@[simp] theorem State.startProgram_port (s : State) (n a : Nat) (q : Port) :
    (s.startProgram n a).port q = s.port q := by unfold State.startProgram; split <;> simp
@[simp] theorem State.startProgram_portA (s : State) (n a : Nat) :
    (s.startProgram n a).portA = s.portA := by unfold State.startProgram; split <;> simp
@[simp] theorem State.startProgram_portB (s : State) (n a : Nat) :
    (s.startProgram n a).portB = s.portB := by unfold State.startProgram; split <;> simp
/-! ### `runSlot` -/
@[simp] theorem State.runSlot_pending (s : State) (n : Nat) :
    (s.runSlot n).pending = s.pending := by unfold State.runSlot; simp
@[simp] theorem State.runSlot_resetAsserted (s : State) (n : Nat) :
    (s.runSlot n).resetAsserted = s.resetAsserted := by unfold State.runSlot; simp
@[simp] theorem State.runSlot_powerGood (s : State) (n : Nat) :
    (s.runSlot n).powerGood = s.powerGood := by unfold State.runSlot; simp
@[simp] theorem State.runSlot_device (s : State) (n : Nat) :
    (s.runSlot n).device = s.device := by unfold State.runSlot; simp
@[simp] theorem State.runSlot_array (s : State) (n : Nat) :
    (s.runSlot n).array = s.array := by unfold State.runSlot; simp
@[simp] theorem State.runSlot_dir (s : State) (n : Nat) :
    (s.runSlot n).dir = s.dir := by unfold State.runSlot; simp
@[simp] theorem State.runSlot_store (s : State) (n : Nat) :
    (s.runSlot n).store = s.store := by unfold State.runSlot; simp
@[simp] theorem State.runSlot_formatWithdrawn (s : State) (n : Nat) :
    (s.runSlot n).formatWithdrawn = s.formatWithdrawn := by unfold State.runSlot; simp
@[simp] theorem State.runSlot_draws (s : State) (n : Nat) :
    (s.runSlot n).draws = s.draws := by unfold State.runSlot; simp
@[simp] theorem State.runSlot_sched (s : State) (n : Nat) : (s.runSlot n).sched = s.sched := by unfold State.runSlot; simp
@[simp] theorem State.runSlot_port (s : State) (n : Nat) (q : Port) :
    (s.runSlot n).port q = s.port q := by unfold State.runSlot; simp
@[simp] theorem State.runSlot_portA (s : State) (n : Nat) :
    (s.runSlot n).portA = s.portA := by unfold State.runSlot; simp
@[simp] theorem State.runSlot_portB (s : State) (n : Nat) :
    (s.runSlot n).portB = s.portB := by unfold State.runSlot; simp
/-! ### `startSlot` -/
@[simp] theorem State.startSlot_pending (s : State) (n : Nat) :
    (s.startSlot n).pending = s.pending := by
  unfold State.startSlot; (repeat' split) <;> simp
@[simp] theorem State.startSlot_resetAsserted (s : State) (n : Nat) :
    (s.startSlot n).resetAsserted = s.resetAsserted := by
  unfold State.startSlot; (repeat' split) <;> simp
@[simp] theorem State.startSlot_powerGood (s : State) (n : Nat) :
    (s.startSlot n).powerGood = s.powerGood := by
  unfold State.startSlot; (repeat' split) <;> simp
@[simp] theorem State.startSlot_device (s : State) (n : Nat) :
    (s.startSlot n).device = s.device := by
  unfold State.startSlot; (repeat' split) <;> simp
@[simp] theorem State.startSlot_dir (s : State) (n : Nat) :
    (s.startSlot n).dir = s.dir := by
  unfold State.startSlot; (repeat' split) <;> simp
@[simp] theorem State.startSlot_store (s : State) (n : Nat) :
    (s.startSlot n).store = s.store := by
  unfold State.startSlot; (repeat' split) <;> simp
@[simp] theorem State.startSlot_formatWithdrawn (s : State) (n : Nat) :
    (s.startSlot n).formatWithdrawn = s.formatWithdrawn := by
  unfold State.startSlot; (repeat' split) <;> simp
@[simp] theorem State.startSlot_draws (s : State) (n : Nat) :
    (s.startSlot n).draws = s.draws := by
  unfold State.startSlot; (repeat' split) <;> simp
@[simp] theorem State.startSlot_sched_queue (s : State) (n : Nat) :
    (s.startSlot n).sched.queue = s.sched.queue := by
  unfold State.startSlot; (repeat' split) <;> simp
@[simp] theorem State.startSlot_sched_nextArrival (s : State) (n : Nat) :
    (s.startSlot n).sched.nextArrival = s.sched.nextArrival := by
  unfold State.startSlot; (repeat' split) <;> simp
@[simp] theorem State.startSlot_sched_waiters (s : State) (n : Nat) :
    (s.startSlot n).sched.waiters = s.sched.waiters := by
  unfold State.startSlot; (repeat' split) <;> simp
@[simp] theorem State.startSlot_port (s : State) (n : Nat) (q : Port) :
    (s.startSlot n).port q = s.port q := by
  unfold State.startSlot; (repeat' split) <;> simp
@[simp] theorem State.startSlot_portA (s : State) (n : Nat) :
    (s.startSlot n).portA = s.portA := by
  unfold State.startSlot; (repeat' split) <;> simp
@[simp] theorem State.startSlot_portB (s : State) (n : Nat) :
    (s.startSlot n).portB = s.portB := by
  unfold State.startSlot; (repeat' split) <;> simp
/-! ### `scrubbed` -/
@[simp] theorem State.scrubbed_pending (s : State) (i u : Nat) (w : Bool) :
    (s.scrubbed i u w).pending = s.pending := by
  unfold State.scrubbed; split <;> (try simp)
@[simp] theorem State.scrubbed_resetAsserted (s : State) (i u : Nat) (w : Bool) :
    (s.scrubbed i u w).resetAsserted = s.resetAsserted := by
  unfold State.scrubbed; split <;> (try simp)
@[simp] theorem State.scrubbed_powerGood (s : State) (i u : Nat) (w : Bool) :
    (s.scrubbed i u w).powerGood = s.powerGood := by
  unfold State.scrubbed; split <;> (try simp)
@[simp] theorem State.scrubbed_array (s : State) (i u : Nat) (w : Bool) :
    (s.scrubbed i u w).array = s.array := by
  unfold State.scrubbed; split <;> (try simp)
@[simp] theorem State.scrubbed_formatWithdrawn (s : State) (i u : Nat) (w : Bool) :
    (s.scrubbed i u w).formatWithdrawn = s.formatWithdrawn := by
  unfold State.scrubbed; split <;> (try simp)
@[simp] theorem State.scrubbed_draws (s : State) (i u : Nat) (w : Bool) :
    (s.scrubbed i u w).draws = s.draws := by
  unfold State.scrubbed; split <;> (try simp)
@[simp] theorem State.scrubbed_sched (s : State) (i u : Nat) (w : Bool) : (s.scrubbed i u w).sched = s.sched := by
  unfold State.scrubbed; split <;> (try simp)
@[simp] theorem State.scrubbed_port (s : State) (i u : Nat) (w : Bool) (q : Port) :
    (s.scrubbed i u w).port q = s.port q := by
  unfold State.scrubbed; split <;> (try simp) <;> (try (cases q <;> rfl))
@[simp] theorem State.scrubbed_portA (s : State) (i u : Nat) (w : Bool) :
    (s.scrubbed i u w).portA = s.portA := by
  unfold State.scrubbed; split <;> (try simp)
@[simp] theorem State.scrubbed_portB (s : State) (i u : Nat) (w : Bool) :
    (s.scrubbed i u w).portB = s.portB := by
  unfold State.scrubbed; split <;> (try simp)
/-! ### `removeComplete` -/
@[simp] theorem State.removeComplete_pending (s : State) (i : Nat) :
    (s.removeComplete i).pending = s.pending := by
  unfold State.removeComplete; split <;> simp
@[simp] theorem State.removeComplete_resetAsserted (s : State) (i : Nat) :
    (s.removeComplete i).resetAsserted = s.resetAsserted := by
  unfold State.removeComplete; split <;> simp
@[simp] theorem State.removeComplete_powerGood (s : State) (i : Nat) :
    (s.removeComplete i).powerGood = s.powerGood := by
  unfold State.removeComplete; split <;> simp
@[simp] theorem State.removeComplete_array (s : State) (i : Nat) :
    (s.removeComplete i).array = s.array := by
  unfold State.removeComplete; split <;> simp
@[simp] theorem State.removeComplete_formatWithdrawn (s : State) (i : Nat) :
    (s.removeComplete i).formatWithdrawn = s.formatWithdrawn := by
  unfold State.removeComplete; split <;> simp
@[simp] theorem State.removeComplete_draws (s : State) (i : Nat) :
    (s.removeComplete i).draws = s.draws := by
  unfold State.removeComplete; split <;> simp
@[simp] theorem State.removeComplete_sched (s : State) (i : Nat) : (s.removeComplete i).sched = s.sched := by
  unfold State.removeComplete; split <;> simp
@[simp] theorem State.removeComplete_port (s : State) (i : Nat) (q : Port) :
    (s.removeComplete i).port q = s.port q := by
  unfold State.removeComplete; split <;> (simp; try (cases q <;> rfl))
@[simp] theorem State.removeComplete_portA (s : State) (i : Nat) :
    (s.removeComplete i).portA = s.portA := by
  unfold State.removeComplete; split <;> simp
@[simp] theorem State.removeComplete_portB (s : State) (i : Nat) :
    (s.removeComplete i).portB = s.portB := by
  unfold State.removeComplete; split <;> simp
/-! ### `offerScrub` -/
@[simp] theorem State.offerScrub_pending (k : Nat) : ∀ s : State,
    (State.offerScrub k s).pending = s.pending := by
  induction k with
  | zero => intro s; rfl
  | succ k ih =>
    intro s; unfold State.offerScrub; (repeat' split) <;> simp [ih]
@[simp] theorem State.offerScrub_resetAsserted (k : Nat) : ∀ s : State,
    (State.offerScrub k s).resetAsserted = s.resetAsserted := by
  induction k with
  | zero => intro s; rfl
  | succ k ih =>
    intro s; unfold State.offerScrub; (repeat' split) <;> simp [ih]
@[simp] theorem State.offerScrub_powerGood (k : Nat) : ∀ s : State,
    (State.offerScrub k s).powerGood = s.powerGood := by
  induction k with
  | zero => intro s; rfl
  | succ k ih =>
    intro s; unfold State.offerScrub; (repeat' split) <;> simp [ih]
@[simp] theorem State.offerScrub_formatWithdrawn (k : Nat) : ∀ s : State,
    (State.offerScrub k s).formatWithdrawn = s.formatWithdrawn := by
  induction k with
  | zero => intro s; rfl
  | succ k ih =>
    intro s; unfold State.offerScrub; (repeat' split) <;> simp [ih]
@[simp] theorem State.offerScrub_draws (k : Nat) : ∀ s : State,
    (State.offerScrub k s).draws = s.draws := by
  induction k with
  | zero => intro s; rfl
  | succ k ih =>
    intro s; unfold State.offerScrub; (repeat' split) <;> simp [ih]
@[simp] theorem State.offerScrub_sched_queue (k : Nat) : ∀ s : State,
    (State.offerScrub k s).sched.queue = s.sched.queue := by
  induction k with
  | zero => intro s; rfl
  | succ k ih =>
    intro s; unfold State.offerScrub; (repeat' split) <;> simp [ih]
@[simp] theorem State.offerScrub_sched_nextArrival (k : Nat) : ∀ s : State,
    (State.offerScrub k s).sched.nextArrival = s.sched.nextArrival := by
  induction k with
  | zero => intro s; rfl
  | succ k ih =>
    intro s; unfold State.offerScrub; (repeat' split) <;> simp [ih]
@[simp] theorem State.offerScrub_sched_waiters (k : Nat) : ∀ s : State,
    (State.offerScrub k s).sched.waiters = s.sched.waiters := by
  induction k with
  | zero => intro s; rfl
  | succ k ih =>
    intro s; unfold State.offerScrub; (repeat' split) <;> simp [ih]
@[simp] theorem State.offerScrub_port (k : Nat) (q : Port) : ∀ s : State,
    (State.offerScrub k s).port q = s.port q := by
  induction k with
  | zero => intro s; rfl
  | succ k ih =>
    intro s; unfold State.offerScrub; (repeat' split) <;> simp [ih]
@[simp] theorem State.offerScrub_portA (k : Nat) (s : State) : (State.offerScrub k s).portA = s.portA :=
  State.offerScrub_port k .a s
@[simp] theorem State.offerScrub_portB (k : Nat) (s : State) : (State.offerScrub k s).portB = s.portB :=
  State.offerScrub_port k .b s
/-! ### `offerQueue` and `offer` -/
@[simp] theorem State.offerQueue_pending (l : List Nat) : ∀ s : State,
    (State.offerQueue l s).pending = s.pending := by
  induction l with
  | nil => intro s; simp [State.offerQueue]
  | cons n rest ih =>
    intro s; unfold State.offerQueue; simp only; split <;> (try rw [ih]) <;> simp
@[simp] theorem State.offerQueue_resetAsserted (l : List Nat) : ∀ s : State,
    (State.offerQueue l s).resetAsserted = s.resetAsserted := by
  induction l with
  | nil => intro s; simp [State.offerQueue]
  | cons n rest ih =>
    intro s; unfold State.offerQueue; simp only; split <;> (try rw [ih]) <;> simp
@[simp] theorem State.offerQueue_powerGood (l : List Nat) : ∀ s : State,
    (State.offerQueue l s).powerGood = s.powerGood := by
  induction l with
  | nil => intro s; simp [State.offerQueue]
  | cons n rest ih =>
    intro s; unfold State.offerQueue; simp only; split <;> (try rw [ih]) <;> simp
@[simp] theorem State.offerQueue_formatWithdrawn (l : List Nat) : ∀ s : State,
    (State.offerQueue l s).formatWithdrawn = s.formatWithdrawn := by
  induction l with
  | nil => intro s; simp [State.offerQueue]
  | cons n rest ih =>
    intro s; unfold State.offerQueue; simp only; split <;> (try rw [ih]) <;> simp
@[simp] theorem State.offerQueue_draws (l : List Nat) : ∀ s : State,
    (State.offerQueue l s).draws = s.draws := by
  induction l with
  | nil => intro s; simp [State.offerQueue]
  | cons n rest ih =>
    intro s; unfold State.offerQueue; simp only; split <;> (try rw [ih]) <;> simp
@[simp] theorem State.offerQueue_sched_nextArrival (l : List Nat) : ∀ s : State,
    (State.offerQueue l s).sched.nextArrival = s.sched.nextArrival := by
  induction l with
  | nil => intro s; simp [State.offerQueue]
  | cons n rest ih =>
    intro s; unfold State.offerQueue; simp only; split <;> (try rw [ih]) <;> simp
@[simp] theorem State.offerQueue_sched_waiters (l : List Nat) : ∀ s : State,
    (State.offerQueue l s).sched.waiters = s.sched.waiters := by
  induction l with
  | nil => intro s; simp [State.offerQueue]
  | cons n rest ih =>
    intro s; unfold State.offerQueue; simp only; split <;> (try rw [ih]) <;> simp
@[simp] theorem State.offerQueue_port (l : List Nat) (q : Port) : ∀ s : State,
    (State.offerQueue l s).port q = s.port q := by
  induction l with
  | nil => intro s; simp [State.offerQueue]
  | cons n rest ih =>
    intro s; unfold State.offerQueue; simp only; split <;> (try rw [ih]) <;> (simp; try (cases q <;> rfl))
@[simp] theorem State.offerQueue_portA (l : List Nat) (s : State) : (State.offerQueue l s).portA = s.portA :=
  State.offerQueue_port l .a s
@[simp] theorem State.offerQueue_portB (l : List Nat) (s : State) : (State.offerQueue l s).portB = s.portB :=
  State.offerQueue_port l .b s
/-! ### `offer` -/
@[simp] theorem State.offer_pending (s : State) :
    (s.offer).pending = s.pending := by unfold State.offer; split <;> simp
@[simp] theorem State.offer_resetAsserted (s : State) :
    (s.offer).resetAsserted = s.resetAsserted := by unfold State.offer; split <;> simp
@[simp] theorem State.offer_powerGood (s : State) :
    (s.offer).powerGood = s.powerGood := by unfold State.offer; split <;> simp
@[simp] theorem State.offer_formatWithdrawn (s : State) :
    (s.offer).formatWithdrawn = s.formatWithdrawn := by unfold State.offer; split <;> simp
@[simp] theorem State.offer_draws (s : State) :
    (s.offer).draws = s.draws := by unfold State.offer; split <;> simp
@[simp] theorem State.offer_sched_nextArrival (s : State) :
    (s.offer).sched.nextArrival = s.sched.nextArrival := by unfold State.offer; split <;> simp
@[simp] theorem State.offer_port_handles (s : State) (q : Port) :
    ((s.offer).port q).handles = (s.port q).handles := by unfold State.offer; split <;> simp
@[simp] theorem State.offer_port_staleNotice (s : State) (q : Port) :
    ((s.offer).port q).staleNotice = (s.port q).staleNotice := by unfold State.offer; split <;> simp
@[simp] theorem State.offer_port_inhibit (s : State) (q : Port) :
    ((s.offer).port q).inhibit = (s.port q).inhibit := by unfold State.offer; split <;> simp
@[simp] theorem State.offer_port_selectLow (s : State) (q : Port) :
    ((s.offer).port q).selectLow = (s.port q).selectLow := by unfold State.offer; split <;> simp
/-! ### `freeArray` -/
@[simp] theorem State.freeArray_pending (s : State) :
    (s.freeArray).pending = s.pending := by unfold State.freeArray; simp
@[simp] theorem State.freeArray_resetAsserted (s : State) :
    (s.freeArray).resetAsserted = s.resetAsserted := by unfold State.freeArray; simp
@[simp] theorem State.freeArray_powerGood (s : State) :
    (s.freeArray).powerGood = s.powerGood := by unfold State.freeArray; simp
@[simp] theorem State.freeArray_formatWithdrawn (s : State) :
    (s.freeArray).formatWithdrawn = s.formatWithdrawn := by unfold State.freeArray; simp
@[simp] theorem State.freeArray_draws (s : State) :
    (s.freeArray).draws = s.draws := by unfold State.freeArray; simp
@[simp] theorem State.freeArray_sched_nextArrival (s : State) :
    (s.freeArray).sched.nextArrival = s.sched.nextArrival := by unfold State.freeArray; simp
@[simp] theorem State.freeArray_port_handles (s : State) (q : Port) :
    ((s.freeArray).port q).handles = (s.port q).handles := by unfold State.freeArray; simp
@[simp] theorem State.freeArray_port_staleNotice (s : State) (q : Port) :
    ((s.freeArray).port q).staleNotice = (s.port q).staleNotice := by unfold State.freeArray; simp
@[simp] theorem State.freeArray_port_inhibit (s : State) (q : Port) :
    ((s.freeArray).port q).inhibit = (s.port q).inhibit := by unfold State.freeArray; simp
@[simp] theorem State.freeArray_port_selectLow (s : State) (q : Port) :
    ((s.freeArray).port q).selectLow = (s.port q).selectLow := by unfold State.freeArray; simp
/-! ### `queueWork` -/
@[simp] theorem State.queueWork_pending (s : State) (n : Nat) (p : Port) (w : Work) (h : Nat) (r : RegionRef) :
    (s.queueWork n p w h r).pending = s.pending := by unfold State.queueWork; simp
@[simp] theorem State.queueWork_resetAsserted (s : State) (n : Nat) (p : Port) (w : Work) (h : Nat) (r : RegionRef) :
    (s.queueWork n p w h r).resetAsserted = s.resetAsserted := by unfold State.queueWork; simp
@[simp] theorem State.queueWork_powerGood (s : State) (n : Nat) (p : Port) (w : Work) (h : Nat) (r : RegionRef) :
    (s.queueWork n p w h r).powerGood = s.powerGood := by unfold State.queueWork; simp
@[simp] theorem State.queueWork_formatWithdrawn (s : State) (n : Nat) (p : Port) (w : Work) (h : Nat) (r : RegionRef) :
    (s.queueWork n p w h r).formatWithdrawn = s.formatWithdrawn := by unfold State.queueWork; simp
@[simp] theorem State.queueWork_draws (s : State) (n : Nat) (p : Port) (w : Work) (h : Nat) (r : RegionRef) :
    (s.queueWork n p w h r).draws = s.draws := by unfold State.queueWork; simp
@[simp] theorem State.queueWork_port_handles (s : State) (n : Nat) (p : Port) (w : Work) (h : Nat) (r : RegionRef) (q : Port) :
    ((s.queueWork n p w h r).port q).handles = (s.port q).handles := by unfold State.queueWork; simp
@[simp] theorem State.queueWork_port_staleNotice (s : State) (n : Nat) (p : Port) (w : Work) (h : Nat) (r : RegionRef) (q : Port) :
    ((s.queueWork n p w h r).port q).staleNotice = (s.port q).staleNotice := by unfold State.queueWork; simp
@[simp] theorem State.queueWork_port_inhibit (s : State) (n : Nat) (p : Port) (w : Work) (h : Nat) (r : RegionRef) (q : Port) :
    ((s.queueWork n p w h r).port q).inhibit = (s.port q).inhibit := by unfold State.queueWork; simp
@[simp] theorem State.queueWork_port_selectLow (s : State) (n : Nat) (p : Port) (w : Work) (h : Nat) (r : RegionRef) (q : Port) :
    ((s.queueWork n p w h r).port q).selectLow = (s.port q).selectLow := by unfold State.queueWork; simp
/-! ### `resume` -/
@[simp] theorem State.resume_pending (s : State) (o : EraseOwner) (r : EraseRun) :
    (s.resume o r).pending = s.pending := by unfold State.resume; split <;> simp
@[simp] theorem State.resume_resetAsserted (s : State) (o : EraseOwner) (r : EraseRun) :
    (s.resume o r).resetAsserted = s.resetAsserted := by unfold State.resume; split <;> simp
@[simp] theorem State.resume_powerGood (s : State) (o : EraseOwner) (r : EraseRun) :
    (s.resume o r).powerGood = s.powerGood := by unfold State.resume; split <;> simp
@[simp] theorem State.resume_device (s : State) (o : EraseOwner) (r : EraseRun) :
    (s.resume o r).device = s.device := by unfold State.resume; split <;> simp
@[simp] theorem State.resume_array (s : State) (o : EraseOwner) (r : EraseRun) :
    (s.resume o r).array = s.array := by unfold State.resume; split <;> simp
@[simp] theorem State.resume_dir (s : State) (o : EraseOwner) (r : EraseRun) :
    (s.resume o r).dir = s.dir := by unfold State.resume; split <;> simp
@[simp] theorem State.resume_store (s : State) (o : EraseOwner) (r : EraseRun) :
    (s.resume o r).store = s.store := by unfold State.resume; split <;> simp
@[simp] theorem State.resume_formatWithdrawn (s : State) (o : EraseOwner) (r : EraseRun) :
    (s.resume o r).formatWithdrawn = s.formatWithdrawn := by unfold State.resume; split <;> simp
@[simp] theorem State.resume_draws (s : State) (o : EraseOwner) (r : EraseRun) :
    (s.resume o r).draws = s.draws := by unfold State.resume; split <;> simp
@[simp] theorem State.resume_sched_queue (s : State) (o : EraseOwner) (r : EraseRun) :
    (s.resume o r).sched.queue = s.sched.queue := by unfold State.resume; split <;> simp
@[simp] theorem State.resume_sched_nextArrival (s : State) (o : EraseOwner) (r : EraseRun) :
    (s.resume o r).sched.nextArrival = s.sched.nextArrival := by unfold State.resume; split <;> simp
@[simp] theorem State.resume_sched_waiters (s : State) (o : EraseOwner) (r : EraseRun) :
    (s.resume o r).sched.waiters = s.sched.waiters := by unfold State.resume; split <;> simp
@[simp] theorem State.resume_port (s : State) (o : EraseOwner) (r : EraseRun) (q : Port) :
    (s.resume o r).port q = s.port q := by unfold State.resume; split <;> simp
@[simp] theorem State.resume_portA (s : State) (o : EraseOwner) (r : EraseRun) :
    (s.resume o r).portA = s.portA := by unfold State.resume; split <;> simp
@[simp] theorem State.resume_portB (s : State) (o : EraseOwner) (r : EraseRun) :
    (s.resume o r).portB = s.portB := by unfold State.resume; split <;> simp
/-! ### `askSuspend` -/
@[simp] theorem State.askSuspend_pending (s : State) (o : EraseOwner) (r : EraseRun) :
    (s.askSuspend o r).pending = s.pending := by
  unfold State.askSuspend; (repeat' split) <;> simp
@[simp] theorem State.askSuspend_resetAsserted (s : State) (o : EraseOwner) (r : EraseRun) :
    (s.askSuspend o r).resetAsserted = s.resetAsserted := by
  unfold State.askSuspend; (repeat' split) <;> simp
@[simp] theorem State.askSuspend_powerGood (s : State) (o : EraseOwner) (r : EraseRun) :
    (s.askSuspend o r).powerGood = s.powerGood := by
  unfold State.askSuspend; (repeat' split) <;> simp
@[simp] theorem State.askSuspend_device (s : State) (o : EraseOwner) (r : EraseRun) :
    (s.askSuspend o r).device = s.device := by
  unfold State.askSuspend; (repeat' split) <;> simp
@[simp] theorem State.askSuspend_array (s : State) (o : EraseOwner) (r : EraseRun) :
    (s.askSuspend o r).array = s.array := by
  unfold State.askSuspend; (repeat' split) <;> simp
@[simp] theorem State.askSuspend_dir (s : State) (o : EraseOwner) (r : EraseRun) :
    (s.askSuspend o r).dir = s.dir := by
  unfold State.askSuspend; (repeat' split) <;> simp
@[simp] theorem State.askSuspend_store (s : State) (o : EraseOwner) (r : EraseRun) :
    (s.askSuspend o r).store = s.store := by
  unfold State.askSuspend; (repeat' split) <;> simp
@[simp] theorem State.askSuspend_formatWithdrawn (s : State) (o : EraseOwner) (r : EraseRun) :
    (s.askSuspend o r).formatWithdrawn = s.formatWithdrawn := by
  unfold State.askSuspend; (repeat' split) <;> simp
@[simp] theorem State.askSuspend_sched_queue (s : State) (o : EraseOwner) (r : EraseRun) :
    (s.askSuspend o r).sched.queue = s.sched.queue := by
  unfold State.askSuspend; (repeat' split) <;> simp
@[simp] theorem State.askSuspend_sched_nextArrival (s : State) (o : EraseOwner) (r : EraseRun) :
    (s.askSuspend o r).sched.nextArrival = s.sched.nextArrival := by
  unfold State.askSuspend; (repeat' split) <;> simp
@[simp] theorem State.askSuspend_sched_waiters (s : State) (o : EraseOwner) (r : EraseRun) :
    (s.askSuspend o r).sched.waiters = s.sched.waiters := by
  unfold State.askSuspend; (repeat' split) <;> simp
@[simp] theorem State.askSuspend_port (s : State) (o : EraseOwner) (r : EraseRun) (q : Port) :
    (s.askSuspend o r).port q = s.port q := by
  unfold State.askSuspend; (repeat' split) <;> simp
@[simp] theorem State.askSuspend_portA (s : State) (o : EraseOwner) (r : EraseRun) :
    (s.askSuspend o r).portA = s.portA := by
  unfold State.askSuspend; (repeat' split) <;> simp
@[simp] theorem State.askSuspend_portB (s : State) (o : EraseOwner) (r : EraseRun) :
    (s.askSuspend o r).portB = s.portB := by
  unfold State.askSuspend; (repeat' split) <;> simp
/-! ### `nextUnit` -/
@[simp] theorem State.nextUnit_pending (s : State) (n u : Nat) :
    (s.nextUnit n u).pending = s.pending := by unfold State.nextUnit; simp
@[simp] theorem State.nextUnit_resetAsserted (s : State) (n u : Nat) :
    (s.nextUnit n u).resetAsserted = s.resetAsserted := by unfold State.nextUnit; simp
@[simp] theorem State.nextUnit_powerGood (s : State) (n u : Nat) :
    (s.nextUnit n u).powerGood = s.powerGood := by unfold State.nextUnit; simp
@[simp] theorem State.nextUnit_formatWithdrawn (s : State) (n u : Nat) :
    (s.nextUnit n u).formatWithdrawn = s.formatWithdrawn := by unfold State.nextUnit; simp
@[simp] theorem State.nextUnit_draws (s : State) (n u : Nat) :
    (s.nextUnit n u).draws = s.draws := by unfold State.nextUnit; simp
@[simp] theorem State.nextUnit_sched_nextArrival (s : State) (n u : Nat) :
    (s.nextUnit n u).sched.nextArrival = s.sched.nextArrival := by unfold State.nextUnit; simp
@[simp] theorem State.nextUnit_port_handles (s : State) (n u : Nat) (q : Port) :
    ((s.nextUnit n u).port q).handles = (s.port q).handles := by unfold State.nextUnit; simp
@[simp] theorem State.nextUnit_port_staleNotice (s : State) (n u : Nat) (q : Port) :
    ((s.nextUnit n u).port q).staleNotice = (s.port q).staleNotice := by unfold State.nextUnit; simp
@[simp] theorem State.nextUnit_port_inhibit (s : State) (n u : Nat) (q : Port) :
    ((s.nextUnit n u).port q).inhibit = (s.port q).inhibit := by unfold State.nextUnit; simp
@[simp] theorem State.nextUnit_port_selectLow (s : State) (n u : Nat) (q : Port) :
    ((s.nextUnit n u).port q).selectLow = (s.port q).selectLow := by unfold State.nextUnit; simp
/-! ### `endPause` -/
@[simp] theorem State.endPause_pending (s : State) :
    (s.endPause).pending = s.pending := by
  unfold State.endPause; (repeat' split) <;> simp
@[simp] theorem State.endPause_resetAsserted (s : State) :
    (s.endPause).resetAsserted = s.resetAsserted := by
  unfold State.endPause; (repeat' split) <;> simp
@[simp] theorem State.endPause_powerGood (s : State) :
    (s.endPause).powerGood = s.powerGood := by
  unfold State.endPause; (repeat' split) <;> simp
@[simp] theorem State.endPause_formatWithdrawn (s : State) :
    (s.endPause).formatWithdrawn = s.formatWithdrawn := by
  unfold State.endPause; (repeat' split) <;> simp
@[simp] theorem State.endPause_draws (s : State) :
    (s.endPause).draws = s.draws := by
  unfold State.endPause; (repeat' split) <;> simp
@[simp] theorem State.endPause_sched_nextArrival (s : State) :
    (s.endPause).sched.nextArrival = s.sched.nextArrival := by
  unfold State.endPause; (repeat' split) <;> simp
@[simp] theorem State.endPause_port_handles (s : State) (q : Port) :
    ((s.endPause).port q).handles = (s.port q).handles := by
  unfold State.endPause; (repeat' split) <;> simp
@[simp] theorem State.endPause_port_staleNotice (s : State) (q : Port) :
    ((s.endPause).port q).staleNotice = (s.port q).staleNotice := by
  unfold State.endPause; (repeat' split) <;> simp
@[simp] theorem State.endPause_port_inhibit (s : State) (q : Port) :
    ((s.endPause).port q).inhibit = (s.port q).inhibit := by
  unfold State.endPause; (repeat' split) <;> simp
@[simp] theorem State.endPause_port_selectLow (s : State) (q : Port) :
    ((s.endPause).port q).selectLow = (s.port q).selectLow := by
  unfold State.endPause; (repeat' split) <;> simp
/-! ### `background` -/
@[simp] theorem State.background_pending (s : State) :
    (s.background).pending = s.pending := by
  unfold State.background; (repeat' split) <;> simp
@[simp] theorem State.background_resetAsserted (s : State) :
    (s.background).resetAsserted = s.resetAsserted := by
  unfold State.background; (repeat' split) <;> simp
@[simp] theorem State.background_powerGood (s : State) :
    (s.background).powerGood = s.powerGood := by
  unfold State.background; (repeat' split) <;> simp
@[simp] theorem State.background_formatWithdrawn (s : State) :
    (s.background).formatWithdrawn = s.formatWithdrawn := by
  unfold State.background; (repeat' split) <;> simp
@[simp] theorem State.background_draws (s : State) :
    (s.background).draws = s.draws := by
  unfold State.background; (repeat' split) <;> simp
@[simp] theorem State.background_sched_nextArrival (s : State) :
    (s.background).sched.nextArrival = s.sched.nextArrival := by
  unfold State.background; (repeat' split) <;> simp
@[simp] theorem State.background_port_handles (s : State) (q : Port) :
    ((s.background).port q).handles = (s.port q).handles := by
  unfold State.background; (repeat' split) <;> (simp; try (cases q <;> rfl))
@[simp] theorem State.background_port_staleNotice (s : State) (q : Port) :
    ((s.background).port q).staleNotice = (s.port q).staleNotice := by
  unfold State.background; (repeat' split) <;> (simp; try (cases q <;> rfl))
@[simp] theorem State.background_port_inhibit (s : State) (q : Port) :
    ((s.background).port q).inhibit = (s.port q).inhibit := by
  unfold State.background; (repeat' split) <;> (simp; try (cases q <;> rfl))
@[simp] theorem State.background_port_selectLow (s : State) (q : Port) :
    ((s.background).port q).selectLow = (s.port q).selectLow := by
  unfold State.background; (repeat' split) <;> (simp; try (cases q <;> rfl))
/-! ### The ends of array work -/
/-! ### `eraseContent` -/
@[simp] theorem State.eraseContent_pending (s : State) (u : EraseRun) (r : ArrayEnd) :
    (s.eraseContent u r).pending = s.pending := by unfold State.eraseContent; split <;> rfl
@[simp] theorem State.eraseContent_resetAsserted (s : State) (u : EraseRun) (r : ArrayEnd) :
    (s.eraseContent u r).resetAsserted = s.resetAsserted := by unfold State.eraseContent; split <;> rfl
@[simp] theorem State.eraseContent_powerGood (s : State) (u : EraseRun) (r : ArrayEnd) :
    (s.eraseContent u r).powerGood = s.powerGood := by unfold State.eraseContent; split <;> rfl
@[simp] theorem State.eraseContent_device (s : State) (u : EraseRun) (r : ArrayEnd) :
    (s.eraseContent u r).device = s.device := by unfold State.eraseContent; split <;> rfl
@[simp] theorem State.eraseContent_dir (s : State) (u : EraseRun) (r : ArrayEnd) :
    (s.eraseContent u r).dir = s.dir := by unfold State.eraseContent; split <;> rfl
@[simp] theorem State.eraseContent_store (s : State) (u : EraseRun) (r : ArrayEnd) :
    (s.eraseContent u r).store = s.store := by unfold State.eraseContent; split <;> rfl
@[simp] theorem State.eraseContent_formatWithdrawn (s : State) (u : EraseRun) (r : ArrayEnd) :
    (s.eraseContent u r).formatWithdrawn = s.formatWithdrawn := by unfold State.eraseContent; split <;> rfl
@[simp] theorem State.eraseContent_slots (s : State) (u : EraseRun) (r : ArrayEnd) :
    (s.eraseContent u r).slots = s.slots := by unfold State.eraseContent; split <;> rfl
@[simp] theorem State.eraseContent_sched (s : State) (u : EraseRun) (r : ArrayEnd) : (s.eraseContent u r).sched = s.sched := by unfold State.eraseContent; split <;> rfl
@[simp] theorem State.eraseContent_port (s : State) (u : EraseRun) (r : ArrayEnd) (q : Port) :
    (s.eraseContent u r).port q = s.port q := by unfold State.eraseContent; split <;> rfl
@[simp] theorem State.eraseContent_portA (s : State) (u : EraseRun) (r : ArrayEnd) :
    (s.eraseContent u r).portA = s.portA := by unfold State.eraseContent; split <;> rfl
@[simp] theorem State.eraseContent_portB (s : State) (u : EraseRun) (r : ArrayEnd) :
    (s.eraseContent u r).portB = s.portB := by unfold State.eraseContent; split <;> rfl
/-! ### `endProgram` -/
@[simp] theorem State.endProgram_pending (s : State) (r : ArrayEnd) :
    (s.endProgram r).pending = s.pending := by
  unfold State.endProgram; (repeat' split) <;> simp
@[simp] theorem State.endProgram_resetAsserted (s : State) (r : ArrayEnd) :
    (s.endProgram r).resetAsserted = s.resetAsserted := by
  unfold State.endProgram; (repeat' split) <;> simp
@[simp] theorem State.endProgram_powerGood (s : State) (r : ArrayEnd) :
    (s.endProgram r).powerGood = s.powerGood := by
  unfold State.endProgram; (repeat' split) <;> simp
@[simp] theorem State.endProgram_formatWithdrawn (s : State) (r : ArrayEnd) :
    (s.endProgram r).formatWithdrawn = s.formatWithdrawn := by
  unfold State.endProgram; (repeat' split) <;> simp
@[simp] theorem State.endProgram_sched_nextArrival (s : State) (r : ArrayEnd) :
    (s.endProgram r).sched.nextArrival = s.sched.nextArrival := by
  unfold State.endProgram; (repeat' split) <;> simp
@[simp] theorem State.endProgram_port_handles (s : State) (r : ArrayEnd) (q : Port) :
    ((s.endProgram r).port q).handles = (s.port q).handles := by
  unfold State.endProgram; (repeat' split) <;> (simp; try (cases q <;> rfl))
@[simp] theorem State.endProgram_port_staleNotice (s : State) (r : ArrayEnd) (q : Port) :
    ((s.endProgram r).port q).staleNotice = (s.port q).staleNotice := by
  unfold State.endProgram; (repeat' split) <;> (simp; try (cases q <;> rfl))
@[simp] theorem State.endProgram_port_inhibit (s : State) (r : ArrayEnd) (q : Port) :
    ((s.endProgram r).port q).inhibit = (s.port q).inhibit := by
  unfold State.endProgram; (repeat' split) <;> (simp; try (cases q <;> rfl))
@[simp] theorem State.endProgram_port_selectLow (s : State) (r : ArrayEnd) (q : Port) :
    ((s.endProgram r).port q).selectLow = (s.port q).selectLow := by
  unfold State.endProgram; (repeat' split) <;> (simp; try (cases q <;> rfl))
/-! ### `slotUnitEnd` -/
@[simp] theorem State.slotUnitEnd_pending (s : State) (n u : Nat) (r : ArrayEnd) :
    (s.slotUnitEnd n u r).pending = s.pending := by
  unfold State.slotUnitEnd; (repeat' (first | split | simp only)) <;> simp
@[simp] theorem State.slotUnitEnd_resetAsserted (s : State) (n u : Nat) (r : ArrayEnd) :
    (s.slotUnitEnd n u r).resetAsserted = s.resetAsserted := by
  unfold State.slotUnitEnd; (repeat' (first | split | simp only)) <;> simp
@[simp] theorem State.slotUnitEnd_powerGood (s : State) (n u : Nat) (r : ArrayEnd) :
    (s.slotUnitEnd n u r).powerGood = s.powerGood := by
  unfold State.slotUnitEnd; (repeat' (first | split | simp only)) <;> simp
@[simp] theorem State.slotUnitEnd_formatWithdrawn (s : State) (n u : Nat) (r : ArrayEnd) :
    (s.slotUnitEnd n u r).formatWithdrawn = s.formatWithdrawn := by
  unfold State.slotUnitEnd; (repeat' (first | split | simp only)) <;> simp
@[simp] theorem State.slotUnitEnd_draws (s : State) (n u : Nat) (r : ArrayEnd) :
    (s.slotUnitEnd n u r).draws = s.draws := by
  unfold State.slotUnitEnd; (repeat' (first | split | simp only)) <;> simp
@[simp] theorem State.slotUnitEnd_sched_nextArrival (s : State) (n u : Nat) (r : ArrayEnd) :
    (s.slotUnitEnd n u r).sched.nextArrival = s.sched.nextArrival := by
  unfold State.slotUnitEnd; (repeat' (first | split | simp only)) <;> simp
@[simp] theorem State.slotUnitEnd_port_handles (s : State) (n u : Nat) (r : ArrayEnd) (q : Port) :
    ((s.slotUnitEnd n u r).port q).handles = (s.port q).handles := by
  unfold State.slotUnitEnd; (repeat' (first | split | simp only)) <;> simp
@[simp] theorem State.slotUnitEnd_port_staleNotice (s : State) (n u : Nat) (r : ArrayEnd) (q : Port) :
    ((s.slotUnitEnd n u r).port q).staleNotice = (s.port q).staleNotice := by
  unfold State.slotUnitEnd; (repeat' (first | split | simp only)) <;> simp
@[simp] theorem State.slotUnitEnd_port_inhibit (s : State) (n u : Nat) (r : ArrayEnd) (q : Port) :
    ((s.slotUnitEnd n u r).port q).inhibit = (s.port q).inhibit := by
  unfold State.slotUnitEnd; (repeat' (first | split | simp only)) <;> simp
@[simp] theorem State.slotUnitEnd_port_selectLow (s : State) (n u : Nat) (r : ArrayEnd) (q : Port) :
    ((s.slotUnitEnd n u r).port q).selectLow = (s.port q).selectLow := by
  unfold State.slotUnitEnd; (repeat' (first | split | simp only)) <;> simp
/-! ### `scrubUnitEnd` -/
@[simp] theorem State.scrubUnitEnd_pending (s : State) (u : Nat) (r : ArrayEnd) :
    (s.scrubUnitEnd u r).pending = s.pending := by
  unfold State.scrubUnitEnd; split <;> simp
@[simp] theorem State.scrubUnitEnd_resetAsserted (s : State) (u : Nat) (r : ArrayEnd) :
    (s.scrubUnitEnd u r).resetAsserted = s.resetAsserted := by
  unfold State.scrubUnitEnd; split <;> simp
@[simp] theorem State.scrubUnitEnd_powerGood (s : State) (u : Nat) (r : ArrayEnd) :
    (s.scrubUnitEnd u r).powerGood = s.powerGood := by
  unfold State.scrubUnitEnd; split <;> simp
@[simp] theorem State.scrubUnitEnd_formatWithdrawn (s : State) (u : Nat) (r : ArrayEnd) :
    (s.scrubUnitEnd u r).formatWithdrawn = s.formatWithdrawn := by
  unfold State.scrubUnitEnd; split <;> simp
@[simp] theorem State.scrubUnitEnd_draws (s : State) (u : Nat) (r : ArrayEnd) :
    (s.scrubUnitEnd u r).draws = s.draws := by
  unfold State.scrubUnitEnd; split <;> simp
@[simp] theorem State.scrubUnitEnd_sched_nextArrival (s : State) (u : Nat) (r : ArrayEnd) :
    (s.scrubUnitEnd u r).sched.nextArrival = s.sched.nextArrival := by
  unfold State.scrubUnitEnd; split <;> simp
@[simp] theorem State.scrubUnitEnd_port_handles (s : State) (u : Nat) (r : ArrayEnd) (q : Port) :
    ((s.scrubUnitEnd u r).port q).handles = (s.port q).handles := by
  unfold State.scrubUnitEnd; split <;> simp
@[simp] theorem State.scrubUnitEnd_port_staleNotice (s : State) (u : Nat) (r : ArrayEnd) (q : Port) :
    ((s.scrubUnitEnd u r).port q).staleNotice = (s.port q).staleNotice := by
  unfold State.scrubUnitEnd; split <;> simp
@[simp] theorem State.scrubUnitEnd_port_inhibit (s : State) (u : Nat) (r : ArrayEnd) (q : Port) :
    ((s.scrubUnitEnd u r).port q).inhibit = (s.port q).inhibit := by
  unfold State.scrubUnitEnd; split <;> simp
@[simp] theorem State.scrubUnitEnd_port_selectLow (s : State) (u : Nat) (r : ArrayEnd) (q : Port) :
    ((s.scrubUnitEnd u r).port q).selectLow = (s.port q).selectLow := by
  unfold State.scrubUnitEnd; split <;> simp
/-! ### `formatWrite` -/
@[simp] theorem State.formatWrite_pending (s : State) :
    (s.formatWrite).pending = s.pending := by
  unfold State.formatWrite; simp only; split <;> simp
@[simp] theorem State.formatWrite_resetAsserted (s : State) :
    (s.formatWrite).resetAsserted = s.resetAsserted := by
  unfold State.formatWrite; simp only; split <;> simp
@[simp] theorem State.formatWrite_powerGood (s : State) :
    (s.formatWrite).powerGood = s.powerGood := by
  unfold State.formatWrite; simp only; split <;> simp
@[simp] theorem State.formatWrite_array (s : State) :
    (s.formatWrite).array = s.array := by
  unfold State.formatWrite; simp only; split <;> simp
@[simp] theorem State.formatWrite_dir (s : State) :
    (s.formatWrite).dir = s.dir := by
  unfold State.formatWrite; simp only; split <;> simp
@[simp] theorem State.formatWrite_formatWithdrawn (s : State) :
    (s.formatWrite).formatWithdrawn = s.formatWithdrawn := by
  unfold State.formatWrite; simp only; split <;> simp
@[simp] theorem State.formatWrite_draws (s : State) :
    (s.formatWrite).draws = s.draws := by
  unfold State.formatWrite; simp only; split <;> simp
@[simp] theorem State.formatWrite_sched_queue (s : State) :
    (s.formatWrite).sched.queue = s.sched.queue := by
  unfold State.formatWrite; simp only; split <;> simp
@[simp] theorem State.formatWrite_sched_nextArrival (s : State) :
    (s.formatWrite).sched.nextArrival = s.sched.nextArrival := by
  unfold State.formatWrite; simp only; split <;> simp
@[simp] theorem State.formatWrite_sched_waiters (s : State) :
    (s.formatWrite).sched.waiters = s.sched.waiters := by
  unfold State.formatWrite; simp only; split <;> simp
@[simp] theorem State.formatWrite_port (s : State) (q : Port) :
    (s.formatWrite).port q = s.port q := by
  unfold State.formatWrite; simp only; split <;> (simp; try (cases q <;> rfl))
@[simp] theorem State.formatWrite_portA (s : State) :
    (s.formatWrite).portA = s.portA := by
  unfold State.formatWrite; simp only; split <;> simp
@[simp] theorem State.formatWrite_portB (s : State) :
    (s.formatWrite).portB = s.portB := by
  unfold State.formatWrite; simp only; split <;> simp
@[simp] theorem State.formatPass_pending (n k : Nat) : ∀ s : State,
    (State.formatPass n k s).pending = s.pending := by
  induction k with
  | zero => intro s; simp [State.formatPass]
  | succ k ih =>
    intro s; unfold State.formatPass; simp only; split <;> simp [ih]
@[simp] theorem State.formatPass_resetAsserted (n k : Nat) : ∀ s : State,
    (State.formatPass n k s).resetAsserted = s.resetAsserted := by
  induction k with
  | zero => intro s; simp [State.formatPass]
  | succ k ih =>
    intro s; unfold State.formatPass; simp only; split <;> simp [ih]
@[simp] theorem State.formatPass_powerGood (n k : Nat) : ∀ s : State,
    (State.formatPass n k s).powerGood = s.powerGood := by
  induction k with
  | zero => intro s; simp [State.formatPass]
  | succ k ih =>
    intro s; unfold State.formatPass; simp only; split <;> simp [ih]
@[simp] theorem State.formatPass_dir (n k : Nat) : ∀ s : State,
    (State.formatPass n k s).dir = s.dir := by
  induction k with
  | zero => intro s; simp [State.formatPass]
  | succ k ih =>
    intro s; unfold State.formatPass; simp only; split <;> simp [ih]
@[simp] theorem State.formatPass_draws (n k : Nat) : ∀ s : State,
    (State.formatPass n k s).draws = s.draws := by
  induction k with
  | zero => intro s; simp [State.formatPass]
  | succ k ih =>
    intro s; unfold State.formatPass; simp only; split <;> simp [ih]
@[simp] theorem State.formatPass_sched_queue (n k : Nat) : ∀ s : State,
    (State.formatPass n k s).sched.queue = s.sched.queue := by
  induction k with
  | zero => intro s; simp [State.formatPass]
  | succ k ih =>
    intro s; unfold State.formatPass; simp only; split <;> simp [ih]
@[simp] theorem State.formatPass_sched_nextArrival (n k : Nat) : ∀ s : State,
    (State.formatPass n k s).sched.nextArrival = s.sched.nextArrival := by
  induction k with
  | zero => intro s; simp [State.formatPass]
  | succ k ih =>
    intro s; unfold State.formatPass; simp only; split <;> simp [ih]
@[simp] theorem State.formatPass_sched_waiters (n k : Nat) : ∀ s : State,
    (State.formatPass n k s).sched.waiters = s.sched.waiters := by
  induction k with
  | zero => intro s; simp [State.formatPass]
  | succ k ih =>
    intro s; unfold State.formatPass; simp only; split <;> simp [ih]
@[simp] theorem State.formatPass_port (n k : Nat) (q : Port) : ∀ s : State,
    (State.formatPass n k s).port q = s.port q := by
  induction k with
  | zero => intro s; simp [State.formatPass]
  | succ k ih =>
    intro s; unfold State.formatPass; simp only; split <;> simp [ih]
@[simp] theorem State.formatPass_portA (n k : Nat) (s : State) : (State.formatPass n k s).portA = s.portA :=
  State.formatPass_port n k .a s
@[simp] theorem State.formatPass_portB (n k : Nat) (s : State) : (State.formatPass n k s).portB = s.portB :=
  State.formatPass_port n k .b s
/-! ### `formatUnitEnd` -/
@[simp] theorem State.formatUnitEnd_pending (s : State) (n u : Nat) (r : ArrayEnd) :
    (s.formatUnitEnd n u r).pending = s.pending := by
  unfold State.formatUnitEnd; simp only; split <;> simp
@[simp] theorem State.formatUnitEnd_resetAsserted (s : State) (n u : Nat) (r : ArrayEnd) :
    (s.formatUnitEnd n u r).resetAsserted = s.resetAsserted := by
  unfold State.formatUnitEnd; simp only; split <;> simp
@[simp] theorem State.formatUnitEnd_powerGood (s : State) (n u : Nat) (r : ArrayEnd) :
    (s.formatUnitEnd n u r).powerGood = s.powerGood := by
  unfold State.formatUnitEnd; simp only; split <;> simp
@[simp] theorem State.formatUnitEnd_dir (s : State) (n u : Nat) (r : ArrayEnd) :
    (s.formatUnitEnd n u r).dir = s.dir := by
  unfold State.formatUnitEnd; simp only; split <;> simp
@[simp] theorem State.formatUnitEnd_draws (s : State) (n u : Nat) (r : ArrayEnd) :
    (s.formatUnitEnd n u r).draws = s.draws := by
  unfold State.formatUnitEnd; simp only; split <;> simp
@[simp] theorem State.formatUnitEnd_sched_queue (s : State) (n u : Nat) (r : ArrayEnd) :
    (s.formatUnitEnd n u r).sched.queue = s.sched.queue := by
  unfold State.formatUnitEnd; simp only; split <;> simp
@[simp] theorem State.formatUnitEnd_sched_nextArrival (s : State) (n u : Nat) (r : ArrayEnd) :
    (s.formatUnitEnd n u r).sched.nextArrival = s.sched.nextArrival := by
  unfold State.formatUnitEnd; simp only; split <;> simp
@[simp] theorem State.formatUnitEnd_sched_waiters (s : State) (n u : Nat) (r : ArrayEnd) :
    (s.formatUnitEnd n u r).sched.waiters = s.sched.waiters := by
  unfold State.formatUnitEnd; simp only; split <;> simp
@[simp] theorem State.formatUnitEnd_port (s : State) (n u : Nat) (r : ArrayEnd) (q : Port) :
    (s.formatUnitEnd n u r).port q = s.port q := by
  unfold State.formatUnitEnd; simp only; split <;> simp
@[simp] theorem State.formatUnitEnd_portA (s : State) (n u : Nat) (r : ArrayEnd) :
    (s.formatUnitEnd n u r).portA = s.portA := by
  unfold State.formatUnitEnd; simp only; split <;> simp
@[simp] theorem State.formatUnitEnd_portB (s : State) (n u : Nat) (r : ArrayEnd) :
    (s.formatUnitEnd n u r).portB = s.portB := by
  unfold State.formatUnitEnd; simp only; split <;> simp
/-! ### `endErase` -/
@[simp] theorem State.endErase_pending (s : State) (r : ArrayEnd) :
    (s.endErase r).pending = s.pending := by
  unfold State.endErase; (repeat' split) <;> simp
@[simp] theorem State.endErase_resetAsserted (s : State) (r : ArrayEnd) :
    (s.endErase r).resetAsserted = s.resetAsserted := by
  unfold State.endErase; (repeat' split) <;> simp
@[simp] theorem State.endErase_powerGood (s : State) (r : ArrayEnd) :
    (s.endErase r).powerGood = s.powerGood := by
  unfold State.endErase; (repeat' split) <;> simp
@[simp] theorem State.endErase_sched_nextArrival (s : State) (r : ArrayEnd) :
    (s.endErase r).sched.nextArrival = s.sched.nextArrival := by
  unfold State.endErase; (repeat' split) <;> simp
@[simp] theorem State.endErase_port_handles (s : State) (r : ArrayEnd) (q : Port) :
    ((s.endErase r).port q).handles = (s.port q).handles := by
  unfold State.endErase; (repeat' split) <;> simp
@[simp] theorem State.endErase_port_staleNotice (s : State) (r : ArrayEnd) (q : Port) :
    ((s.endErase r).port q).staleNotice = (s.port q).staleNotice := by
  unfold State.endErase; (repeat' split) <;> simp
@[simp] theorem State.endErase_port_inhibit (s : State) (r : ArrayEnd) (q : Port) :
    ((s.endErase r).port q).inhibit = (s.port q).inhibit := by
  unfold State.endErase; (repeat' split) <;> simp
@[simp] theorem State.endErase_port_selectLow (s : State) (r : ArrayEnd) (q : Port) :
    ((s.endErase r).port q).selectLow = (s.port q).selectLow := by
  unfold State.endErase; (repeat' split) <;> simp
/-! ### `fixMarked` -/
@[simp] theorem State.fixMarked_pending (s : State) (n : Nat) :
    (s.fixMarked n).pending = s.pending := by
  unfold State.fixMarked; split <;> simp
@[simp] theorem State.fixMarked_resetAsserted (s : State) (n : Nat) :
    (s.fixMarked n).resetAsserted = s.resetAsserted := by
  unfold State.fixMarked; split <;> simp
@[simp] theorem State.fixMarked_powerGood (s : State) (n : Nat) :
    (s.fixMarked n).powerGood = s.powerGood := by
  unfold State.fixMarked; split <;> simp
@[simp] theorem State.fixMarked_formatWithdrawn (s : State) (n : Nat) :
    (s.fixMarked n).formatWithdrawn = s.formatWithdrawn := by
  unfold State.fixMarked; split <;> simp
@[simp] theorem State.fixMarked_draws (s : State) (n : Nat) :
    (s.fixMarked n).draws = s.draws := by
  unfold State.fixMarked; split <;> simp
@[simp] theorem State.fixMarked_sched_nextArrival (s : State) (n : Nat) :
    (s.fixMarked n).sched.nextArrival = s.sched.nextArrival := by
  unfold State.fixMarked; split <;> simp
@[simp] theorem State.fixMarked_port_handles (s : State) (n : Nat) (q : Port) :
    ((s.fixMarked n).port q).handles = (s.port q).handles := by
  unfold State.fixMarked; split <;> (simp; try (cases q <;> rfl))
@[simp] theorem State.fixMarked_port_staleNotice (s : State) (n : Nat) (q : Port) :
    ((s.fixMarked n).port q).staleNotice = (s.port q).staleNotice := by
  unfold State.fixMarked; split <;> (simp; try (cases q <;> rfl))
@[simp] theorem State.fixMarked_port_inhibit (s : State) (n : Nat) (q : Port) :
    ((s.fixMarked n).port q).inhibit = (s.port q).inhibit := by
  unfold State.fixMarked; split <;> (simp; try (cases q <;> rfl))
@[simp] theorem State.fixMarked_port_selectLow (s : State) (n : Nat) (q : Port) :
    ((s.fixMarked n).port q).selectLow = (s.port q).selectLow := by
  unfold State.fixMarked; split <;> (simp; try (cases q <;> rfl))
/-! ### `fixFault` -/
@[simp] theorem State.fixFault_pending (s : State) (n g : Nat) (e : Extent) :
    (s.fixFault n g e).pending = s.pending := by
  unfold State.fixFault; simp only; split <;> simp
@[simp] theorem State.fixFault_resetAsserted (s : State) (n g : Nat) (e : Extent) :
    (s.fixFault n g e).resetAsserted = s.resetAsserted := by
  unfold State.fixFault; simp only; split <;> simp
@[simp] theorem State.fixFault_powerGood (s : State) (n g : Nat) (e : Extent) :
    (s.fixFault n g e).powerGood = s.powerGood := by
  unfold State.fixFault; simp only; split <;> simp
@[simp] theorem State.fixFault_formatWithdrawn (s : State) (n g : Nat) (e : Extent) :
    (s.fixFault n g e).formatWithdrawn = s.formatWithdrawn := by
  unfold State.fixFault; simp only; split <;> simp
@[simp] theorem State.fixFault_draws (s : State) (n g : Nat) (e : Extent) :
    (s.fixFault n g e).draws = s.draws := by
  unfold State.fixFault; simp only; split <;> simp
@[simp] theorem State.fixFault_sched_nextArrival (s : State) (n g : Nat) (e : Extent) :
    (s.fixFault n g e).sched.nextArrival = s.sched.nextArrival := by
  unfold State.fixFault; simp only; split <;> simp
@[simp] theorem State.fixFault_port_handles (s : State) (n g : Nat) (e : Extent) (q : Port) :
    ((s.fixFault n g e).port q).handles = (s.port q).handles := by
  unfold State.fixFault; simp only; split <;> simp
@[simp] theorem State.fixFault_port_staleNotice (s : State) (n g : Nat) (e : Extent) (q : Port) :
    ((s.fixFault n g e).port q).staleNotice = (s.port q).staleNotice := by
  unfold State.fixFault; simp only; split <;> simp
@[simp] theorem State.fixFault_port_inhibit (s : State) (n g : Nat) (e : Extent) (q : Port) :
    ((s.fixFault n g e).port q).inhibit = (s.port q).inhibit := by
  unfold State.fixFault; simp only; split <;> simp
@[simp] theorem State.fixFault_port_selectLow (s : State) (n g : Nat) (e : Extent) (q : Port) :
    ((s.fixFault n g e).port q).selectLow = (s.port q).selectLow := by
  unfold State.fixFault; simp only; split <;> simp
/-! ### `endMark` -/
@[simp] theorem State.endMark_pending (s : State) (r : ArrayEnd) :
    (s.endMark r).pending = s.pending := by
  unfold State.endMark; (repeat' (first | split | simp only)) <;> simp
@[simp] theorem State.endMark_resetAsserted (s : State) (r : ArrayEnd) :
    (s.endMark r).resetAsserted = s.resetAsserted := by
  unfold State.endMark; (repeat' (first | split | simp only)) <;> simp
@[simp] theorem State.endMark_powerGood (s : State) (r : ArrayEnd) :
    (s.endMark r).powerGood = s.powerGood := by
  unfold State.endMark; (repeat' (first | split | simp only)) <;> simp
@[simp] theorem State.endMark_formatWithdrawn (s : State) (r : ArrayEnd) :
    (s.endMark r).formatWithdrawn = s.formatWithdrawn := by
  unfold State.endMark; (repeat' (first | split | simp only)) <;> simp
@[simp] theorem State.endMark_sched_nextArrival (s : State) (r : ArrayEnd) :
    (s.endMark r).sched.nextArrival = s.sched.nextArrival := by
  unfold State.endMark; (repeat' (first | split | simp only)) <;> simp
@[simp] theorem State.endMark_port_handles (s : State) (r : ArrayEnd) (q : Port) :
    ((s.endMark r).port q).handles = (s.port q).handles := by
  unfold State.endMark; (repeat' (first | split | simp only)) <;> (simp; try (cases q <;> rfl))
@[simp] theorem State.endMark_port_staleNotice (s : State) (r : ArrayEnd) (q : Port) :
    ((s.endMark r).port q).staleNotice = (s.port q).staleNotice := by
  unfold State.endMark; (repeat' (first | split | simp only)) <;> (simp; try (cases q <;> rfl))
@[simp] theorem State.endMark_port_inhibit (s : State) (r : ArrayEnd) (q : Port) :
    ((s.endMark r).port q).inhibit = (s.port q).inhibit := by
  unfold State.endMark; (repeat' (first | split | simp only)) <;> (simp; try (cases q <;> rfl))
@[simp] theorem State.endMark_port_selectLow (s : State) (r : ArrayEnd) (q : Port) :
    ((s.endMark r).port q).selectLow = (s.port q).selectLow := by
  unfold State.endMark; (repeat' (first | split | simp only)) <;> (simp; try (cases q <;> rfl))
/-! ### `answerCancel` -/
@[simp] theorem State.answerCancel_pending (s : State) (c : Option (Port × Byte)) (st : Status) (x : SlotState) :
    (s.answerCancel c st x).pending = s.pending := by
  unfold State.answerCancel; split <;> (try simp)
@[simp] theorem State.answerCancel_resetAsserted (s : State) (c : Option (Port × Byte)) (st : Status) (x : SlotState) :
    (s.answerCancel c st x).resetAsserted = s.resetAsserted := by
  unfold State.answerCancel; split <;> (try simp)
@[simp] theorem State.answerCancel_powerGood (s : State) (c : Option (Port × Byte)) (st : Status) (x : SlotState) :
    (s.answerCancel c st x).powerGood = s.powerGood := by
  unfold State.answerCancel; split <;> (try simp)
@[simp] theorem State.answerCancel_device (s : State) (c : Option (Port × Byte)) (st : Status) (x : SlotState) :
    (s.answerCancel c st x).device = s.device := by
  unfold State.answerCancel; split <;> (try simp)
@[simp] theorem State.answerCancel_array (s : State) (c : Option (Port × Byte)) (st : Status) (x : SlotState) :
    (s.answerCancel c st x).array = s.array := by
  unfold State.answerCancel; split <;> (try simp)
@[simp] theorem State.answerCancel_dir (s : State) (c : Option (Port × Byte)) (st : Status) (x : SlotState) :
    (s.answerCancel c st x).dir = s.dir := by
  unfold State.answerCancel; split <;> (try simp)
@[simp] theorem State.answerCancel_store (s : State) (c : Option (Port × Byte)) (st : Status) (x : SlotState) :
    (s.answerCancel c st x).store = s.store := by
  unfold State.answerCancel; split <;> (try simp)
@[simp] theorem State.answerCancel_formatWithdrawn (s : State) (c : Option (Port × Byte)) (st : Status) (x : SlotState) :
    (s.answerCancel c st x).formatWithdrawn = s.formatWithdrawn := by
  unfold State.answerCancel; split <;> (try simp)
@[simp] theorem State.answerCancel_slots (s : State) (c : Option (Port × Byte)) (st : Status) (x : SlotState) :
    (s.answerCancel c st x).slots = s.slots := by
  unfold State.answerCancel; split <;> (try simp)
@[simp] theorem State.answerCancel_draws (s : State) (c : Option (Port × Byte)) (st : Status) (x : SlotState) :
    (s.answerCancel c st x).draws = s.draws := by
  unfold State.answerCancel; split <;> (try simp)
@[simp] theorem State.answerCancel_sched (s : State) (c : Option (Port × Byte)) (st : Status) (x : SlotState) : (s.answerCancel c st x).sched = s.sched := by
  unfold State.answerCancel; split <;> (try simp)
@[simp] theorem State.answerCancel_port_handles (s : State) (c : Option (Port × Byte)) (st : Status) (x : SlotState) (q : Port) :
    ((s.answerCancel c st x).port q).handles = (s.port q).handles := by
  unfold State.answerCancel; split <;> (try simp)
@[simp] theorem State.answerCancel_port_staleNotice (s : State) (c : Option (Port × Byte)) (st : Status) (x : SlotState) (q : Port) :
    ((s.answerCancel c st x).port q).staleNotice = (s.port q).staleNotice := by
  unfold State.answerCancel; split <;> (try simp)
@[simp] theorem State.answerCancel_port_inhibit (s : State) (c : Option (Port × Byte)) (st : Status) (x : SlotState) (q : Port) :
    ((s.answerCancel c st x).port q).inhibit = (s.port q).inhibit := by
  unfold State.answerCancel; split <;> (try simp)
@[simp] theorem State.answerCancel_port_selectLow (s : State) (c : Option (Port × Byte)) (st : Status) (x : SlotState) (q : Port) :
    ((s.answerCancel c st x).port q).selectLow = (s.port q).selectLow := by
  unfold State.answerCancel; split <;> (try simp)
/-! ### `verifyDone` -/
@[simp] theorem State.verifyDone_pending (s : State) (r : ScanRun) (v : Word) :
    (s.verifyDone r v).pending = s.pending := by unfold State.verifyDone; simp
@[simp] theorem State.verifyDone_resetAsserted (s : State) (r : ScanRun) (v : Word) :
    (s.verifyDone r v).resetAsserted = s.resetAsserted := by unfold State.verifyDone; simp
@[simp] theorem State.verifyDone_powerGood (s : State) (r : ScanRun) (v : Word) :
    (s.verifyDone r v).powerGood = s.powerGood := by unfold State.verifyDone; simp
@[simp] theorem State.verifyDone_formatWithdrawn (s : State) (r : ScanRun) (v : Word) :
    (s.verifyDone r v).formatWithdrawn = s.formatWithdrawn := by unfold State.verifyDone; simp
@[simp] theorem State.verifyDone_draws (s : State) (r : ScanRun) (v : Word) :
    (s.verifyDone r v).draws = s.draws := by unfold State.verifyDone; simp
@[simp] theorem State.verifyDone_sched_nextArrival (s : State) (r : ScanRun) (v : Word) :
    (s.verifyDone r v).sched.nextArrival = s.sched.nextArrival := by unfold State.verifyDone; simp
@[simp] theorem State.verifyDone_port_handles (s : State) (r : ScanRun) (v : Word) (q : Port) :
    ((s.verifyDone r v).port q).handles = (s.port q).handles := by unfold State.verifyDone; simp
@[simp] theorem State.verifyDone_port_staleNotice (s : State) (r : ScanRun) (v : Word) (q : Port) :
    ((s.verifyDone r v).port q).staleNotice = (s.port q).staleNotice := by unfold State.verifyDone; simp
@[simp] theorem State.verifyDone_port_inhibit (s : State) (r : ScanRun) (v : Word) (q : Port) :
    ((s.verifyDone r v).port q).inhibit = (s.port q).inhibit := by unfold State.verifyDone; simp
@[simp] theorem State.verifyDone_port_selectLow (s : State) (r : ScanRun) (v : Word) (q : Port) :
    ((s.verifyDone r v).port q).selectLow = (s.port q).selectLow := by unfold State.verifyDone; simp
/-! ### `verifyCancelled` -/
@[simp] theorem State.verifyCancelled_pending (s : State) (r : ScanRun) :
    (s.verifyCancelled r).pending = s.pending := by unfold State.verifyCancelled; simp
@[simp] theorem State.verifyCancelled_resetAsserted (s : State) (r : ScanRun) :
    (s.verifyCancelled r).resetAsserted = s.resetAsserted := by unfold State.verifyCancelled; simp
@[simp] theorem State.verifyCancelled_powerGood (s : State) (r : ScanRun) :
    (s.verifyCancelled r).powerGood = s.powerGood := by unfold State.verifyCancelled; simp
@[simp] theorem State.verifyCancelled_formatWithdrawn (s : State) (r : ScanRun) :
    (s.verifyCancelled r).formatWithdrawn = s.formatWithdrawn := by unfold State.verifyCancelled; simp
@[simp] theorem State.verifyCancelled_draws (s : State) (r : ScanRun) :
    (s.verifyCancelled r).draws = s.draws := by unfold State.verifyCancelled; simp
@[simp] theorem State.verifyCancelled_sched_nextArrival (s : State) (r : ScanRun) :
    (s.verifyCancelled r).sched.nextArrival = s.sched.nextArrival := by unfold State.verifyCancelled; simp
@[simp] theorem State.verifyCancelled_port_handles (s : State) (r : ScanRun) (q : Port) :
    ((s.verifyCancelled r).port q).handles = (s.port q).handles := by unfold State.verifyCancelled; simp
@[simp] theorem State.verifyCancelled_port_staleNotice (s : State) (r : ScanRun) (q : Port) :
    ((s.verifyCancelled r).port q).staleNotice = (s.port q).staleNotice := by unfold State.verifyCancelled; simp
@[simp] theorem State.verifyCancelled_port_inhibit (s : State) (r : ScanRun) (q : Port) :
    ((s.verifyCancelled r).port q).inhibit = (s.port q).inhibit := by unfold State.verifyCancelled; simp
@[simp] theorem State.verifyCancelled_port_selectLow (s : State) (r : ScanRun) (q : Port) :
    ((s.verifyCancelled r).port q).selectLow = (s.port q).selectLow := by unfold State.verifyCancelled; simp
/-! ### `beginMarks` -/
@[simp] theorem State.beginMarks_pending (s : State) (r : ScanRun) (v : Word) :
    (s.beginMarks r v).pending = s.pending := by unfold State.beginMarks; simp
@[simp] theorem State.beginMarks_resetAsserted (s : State) (r : ScanRun) (v : Word) :
    (s.beginMarks r v).resetAsserted = s.resetAsserted := by unfold State.beginMarks; simp
@[simp] theorem State.beginMarks_powerGood (s : State) (r : ScanRun) (v : Word) :
    (s.beginMarks r v).powerGood = s.powerGood := by unfold State.beginMarks; simp
@[simp] theorem State.beginMarks_device (s : State) (r : ScanRun) (v : Word) :
    (s.beginMarks r v).device = s.device := by unfold State.beginMarks; simp
@[simp] theorem State.beginMarks_array (s : State) (r : ScanRun) (v : Word) :
    (s.beginMarks r v).array = s.array := by unfold State.beginMarks; simp
@[simp] theorem State.beginMarks_dir (s : State) (r : ScanRun) (v : Word) :
    (s.beginMarks r v).dir = s.dir := by unfold State.beginMarks; simp
@[simp] theorem State.beginMarks_store (s : State) (r : ScanRun) (v : Word) :
    (s.beginMarks r v).store = s.store := by unfold State.beginMarks; simp
@[simp] theorem State.beginMarks_formatWithdrawn (s : State) (r : ScanRun) (v : Word) :
    (s.beginMarks r v).formatWithdrawn = s.formatWithdrawn := by unfold State.beginMarks; simp
@[simp] theorem State.beginMarks_draws (s : State) (r : ScanRun) (v : Word) :
    (s.beginMarks r v).draws = s.draws := by unfold State.beginMarks; simp
@[simp] theorem State.beginMarks_sched_queue (s : State) (r : ScanRun) (v : Word) :
    (s.beginMarks r v).sched.queue = s.sched.queue := by unfold State.beginMarks; simp
@[simp] theorem State.beginMarks_sched_nextArrival (s : State) (r : ScanRun) (v : Word) :
    (s.beginMarks r v).sched.nextArrival = s.sched.nextArrival := by unfold State.beginMarks; simp
@[simp] theorem State.beginMarks_port_handles (s : State) (r : ScanRun) (v : Word) (q : Port) :
    ((s.beginMarks r v).port q).handles = (s.port q).handles := by unfold State.beginMarks; simp
@[simp] theorem State.beginMarks_port_staleNotice (s : State) (r : ScanRun) (v : Word) (q : Port) :
    ((s.beginMarks r v).port q).staleNotice = (s.port q).staleNotice := by unfold State.beginMarks; simp
@[simp] theorem State.beginMarks_port_inhibit (s : State) (r : ScanRun) (v : Word) (q : Port) :
    ((s.beginMarks r v).port q).inhibit = (s.port q).inhibit := by unfold State.beginMarks; simp
@[simp] theorem State.beginMarks_port_selectLow (s : State) (r : ScanRun) (v : Word) (q : Port) :
    ((s.beginMarks r v).port q).selectLow = (s.port q).selectLow := by unfold State.beginMarks; simp
/-! ### `endScan` -/
@[simp] theorem State.endScan_pending (s : State) :
    (s.endScan).pending = s.pending := by
  unfold State.endScan; (repeat' (first | split | simp only)) <;> simp
@[simp] theorem State.endScan_resetAsserted (s : State) :
    (s.endScan).resetAsserted = s.resetAsserted := by
  unfold State.endScan; (repeat' (first | split | simp only)) <;> simp
@[simp] theorem State.endScan_powerGood (s : State) :
    (s.endScan).powerGood = s.powerGood := by
  unfold State.endScan; (repeat' (first | split | simp only)) <;> simp
@[simp] theorem State.endScan_formatWithdrawn (s : State) :
    (s.endScan).formatWithdrawn = s.formatWithdrawn := by
  unfold State.endScan; (repeat' (first | split | simp only)) <;> simp
@[simp] theorem State.endScan_draws (s : State) :
    (s.endScan).draws = s.draws := by
  unfold State.endScan; (repeat' (first | split | simp only)) <;> simp
@[simp] theorem State.endScan_sched_nextArrival (s : State) :
    (s.endScan).sched.nextArrival = s.sched.nextArrival := by
  unfold State.endScan; (repeat' (first | split | simp only)) <;> simp
@[simp] theorem State.endScan_port_handles (s : State) (q : Port) :
    ((s.endScan).port q).handles = (s.port q).handles := by
  unfold State.endScan; (repeat' (first | split | simp only)) <;> simp
@[simp] theorem State.endScan_port_staleNotice (s : State) (q : Port) :
    ((s.endScan).port q).staleNotice = (s.port q).staleNotice := by
  unfold State.endScan; (repeat' (first | split | simp only)) <;> simp
@[simp] theorem State.endScan_port_inhibit (s : State) (q : Port) :
    ((s.endScan).port q).inhibit = (s.port q).inhibit := by
  unfold State.endScan; (repeat' (first | split | simp only)) <;> simp
@[simp] theorem State.endScan_port_selectLow (s : State) (q : Port) :
    ((s.endScan).port q).selectLow = (s.port q).selectLow := by
  unfold State.endScan; (repeat' (first | split | simp only)) <;> simp
/-! ### `endSlice` -/
@[simp] theorem State.endSlice_pending (s : State) :
    (s.endSlice).pending = s.pending := by
  unfold State.endSlice; (repeat' (first | split | simp only)) <;> simp
@[simp] theorem State.endSlice_resetAsserted (s : State) :
    (s.endSlice).resetAsserted = s.resetAsserted := by
  unfold State.endSlice; (repeat' (first | split | simp only)) <;> simp
@[simp] theorem State.endSlice_powerGood (s : State) :
    (s.endSlice).powerGood = s.powerGood := by
  unfold State.endSlice; (repeat' (first | split | simp only)) <;> simp
@[simp] theorem State.endSlice_formatWithdrawn (s : State) :
    (s.endSlice).formatWithdrawn = s.formatWithdrawn := by
  unfold State.endSlice; (repeat' (first | split | simp only)) <;> simp
@[simp] theorem State.endSlice_sched_nextArrival (s : State) :
    (s.endSlice).sched.nextArrival = s.sched.nextArrival := by
  unfold State.endSlice; (repeat' (first | split | simp only)) <;> simp
@[simp] theorem State.endSlice_port_handles (s : State) (q : Port) :
    ((s.endSlice).port q).handles = (s.port q).handles := by
  unfold State.endSlice; (repeat' (first | split | simp only)) <;> simp
@[simp] theorem State.endSlice_port_staleNotice (s : State) (q : Port) :
    ((s.endSlice).port q).staleNotice = (s.port q).staleNotice := by
  unfold State.endSlice; (repeat' (first | split | simp only)) <;> simp
@[simp] theorem State.endSlice_port_inhibit (s : State) (q : Port) :
    ((s.endSlice).port q).inhibit = (s.port q).inhibit := by
  unfold State.endSlice; (repeat' (first | split | simp only)) <;> simp
@[simp] theorem State.endSlice_port_selectLow (s : State) (q : Port) :
    ((s.endSlice).port q).selectLow = (s.port q).selectLow := by
  unfold State.endSlice; (repeat' (first | split | simp only)) <;> simp
/-! ### `writeCompletes` -/
@[simp] theorem State.writeCompletes_pending (s : State) :
    (s.writeCompletes).pending = s.pending := by
  unfold State.writeCompletes; (repeat' split) <;> simp
@[simp] theorem State.writeCompletes_resetAsserted (s : State) :
    (s.writeCompletes).resetAsserted = s.resetAsserted := by
  unfold State.writeCompletes; (repeat' split) <;> simp
@[simp] theorem State.writeCompletes_powerGood (s : State) :
    (s.writeCompletes).powerGood = s.powerGood := by
  unfold State.writeCompletes; (repeat' split) <;> simp
@[simp] theorem State.writeCompletes_formatWithdrawn (s : State) :
    (s.writeCompletes).formatWithdrawn = s.formatWithdrawn := by
  unfold State.writeCompletes; (repeat' split) <;> simp
@[simp] theorem State.writeCompletes_draws (s : State) :
    (s.writeCompletes).draws = s.draws := by
  unfold State.writeCompletes; (repeat' split) <;> simp
@[simp] theorem State.writeCompletes_sched_nextArrival (s : State) :
    (s.writeCompletes).sched.nextArrival = s.sched.nextArrival := by
  unfold State.writeCompletes; (repeat' split) <;> simp
@[simp] theorem State.writeCompletes_port_handles (s : State) (q : Port) :
    ((s.writeCompletes).port q).handles = (s.port q).handles := by
  unfold State.writeCompletes; (repeat' split) <;> simp
@[simp] theorem State.writeCompletes_port_staleNotice (s : State) (q : Port) :
    ((s.writeCompletes).port q).staleNotice = (s.port q).staleNotice := by
  unfold State.writeCompletes; (repeat' split) <;> simp
@[simp] theorem State.writeCompletes_port_inhibit (s : State) (q : Port) :
    ((s.writeCompletes).port q).inhibit = (s.port q).inhibit := by
  unfold State.writeCompletes; (repeat' split) <;> simp
@[simp] theorem State.writeCompletes_port_selectLow (s : State) (q : Port) :
    ((s.writeCompletes).port q).selectLow = (s.port q).selectLow := by
  unfold State.writeCompletes; (repeat' split) <;> simp
/-! ### `attemptFails` -/
@[simp] theorem State.attemptFails_pending (s : State) :
    (s.attemptFails).pending = s.pending := by
  unfold State.attemptFails; split <;> simp
@[simp] theorem State.attemptFails_resetAsserted (s : State) :
    (s.attemptFails).resetAsserted = s.resetAsserted := by
  unfold State.attemptFails; split <;> simp
@[simp] theorem State.attemptFails_powerGood (s : State) :
    (s.attemptFails).powerGood = s.powerGood := by
  unfold State.attemptFails; split <;> simp
@[simp] theorem State.attemptFails_array (s : State) :
    (s.attemptFails).array = s.array := by
  unfold State.attemptFails; split <;> simp
@[simp] theorem State.attemptFails_dir (s : State) :
    (s.attemptFails).dir = s.dir := by
  unfold State.attemptFails; split <;> simp
@[simp] theorem State.attemptFails_formatWithdrawn (s : State) :
    (s.attemptFails).formatWithdrawn = s.formatWithdrawn := by
  unfold State.attemptFails; split <;> simp
@[simp] theorem State.attemptFails_sched (s : State) : (s.attemptFails).sched = s.sched := by
  unfold State.attemptFails; split <;> simp
@[simp] theorem State.attemptFails_port (s : State) (q : Port) :
    (s.attemptFails).port q = s.port q := by
  unfold State.attemptFails; split <;> simp
@[simp] theorem State.attemptFails_portA (s : State) :
    (s.attemptFails).portA = s.portA := by
  unfold State.attemptFails; split <;> simp
@[simp] theorem State.attemptFails_portB (s : State) :
    (s.attemptFails).portB = s.portB := by
  unfold State.attemptFails; split <;> simp

end Sys2Proof.Machine
end

