-- ==== Sys2Proof/Laws/Shared.lean ====
section
/-! SUPPORT. Four observations that most operations share: the data bytes, the region records, the size of the operation
table, and whether the part is out of service; and what an image's check says. -/

set_option Elab.async false

namespace Sys2Proof.Machine

/-- Held in reset, or STARTING. -/
theorem Device.down_iff (d : Device) : d.down = true ↔ d = .inReset ∨ d = .starting := by cases d <;> decide

@[simp] theorem State.endSlot_slots_length (s : State) (n : Nat) (st : SlotState) :
    (s.endSlot n st).slots.length = s.slots.length := by simp [State.endSlot]
@[simp] theorem State.mapSlot_slots_length (s : State) (n : Nat) (f : SlotBody → SlotBody) :
    (s.mapSlot n f).slots.length = s.slots.length := by simp [State.mapSlot]
@[simp] theorem State.freeSlot_slots_length (s : State) (n : Nat) :
    (s.freeSlot n).slots.length = s.slots.length := by simp [State.freeSlot]
@[simp] theorem State.fillSlot_slots_length (s : State) (n : Nat) (b : SlotBody) :
    (s.fillSlot n b).slots.length = s.slots.length := by simp [State.fillSlot]
@[simp] theorem State.cancelQueued_slots_length (s : State) (f : SlotBody → Bool) (c : Status) :
    (s.cancelQueued f c).slots.length = s.slots.length := by simp [State.cancelQueued]
@[simp] theorem State.enqueue_slots_length (s : State) (n : Nat) (p : Port) (w : Work) (h : Option Nat) (r : RegionRef) :
    (s.enqueue n p w h r).slots.length = s.slots.length := by simp [State.enqueue]
@[simp] theorem State.writerFault_slots_length (s : State) :
    (s.writerFault).slots.length = s.slots.length := by simp [State.writerFault]
@[simp] theorem State.writerFault_device_down (s : State) :
    (s.writerFault).device.down = s.device.down := by
  unfold State.writerFault; simp only; cases s.device <;> rfl
@[simp] theorem State.startWrite_slots_length (s : State) :
    (s.startWrite).slots.length = s.slots.length := by unfold State.startWrite; split <;> simp
@[simp] theorem State.startWrite_device_down (s : State) :
    (s.startWrite).device.down = s.device.down := by unfold State.startWrite; split <;> simp
@[simp] theorem State.kick_slots_length (s : State) :
    (s.kick).slots.length = s.slots.length := by unfold State.kick; split <;> simp
@[simp] theorem State.kick_device_down (s : State) :
    (s.kick).device.down = s.device.down := by unfold State.kick; split <;> simp
@[simp] theorem State.markDirty_slots_length (s : State) :
    (s.markDirty).slots.length = s.slots.length := State.kick_slots_length _
@[simp] theorem State.markDirty_device_down (s : State) :
    (s.markDirty).device.down = s.device.down := State.kick_device_down _
@[simp] theorem State.completeWrite_slots_length (s : State) (j : WriteJob) :
    (s.completeWrite j).slots.length = s.slots.length := by simp [State.completeWrite]
@[simp] theorem State.completeFormat_slots_length (s : State) (j : WriteJob) :
    (s.completeFormat j).slots.length = s.slots.length := by simp [State.completeFormat]
@[simp] theorem State.failAttempt_slots_length (s : State) (j : WriteJob) :
    (s.failAttempt j).slots.length = s.slots.length := by
  unfold State.failAttempt; simp only; split <;> simp
@[simp] theorem State.failAttempt_device_down (s : State) (j : WriteJob) :
    (s.failAttempt j).device.down = s.device.down := by
  unfold State.failAttempt; simp only; split <;> simp
@[simp] theorem State.waitDirectory_slots_length (s : State) (p : Port) (w : Work) (r : RegionRef) (n : Nat) :
    (s.waitDirectory p w r n).slots.length = s.slots.length := by unfold State.waitDirectory; simp
@[simp] theorem State.waitDirectory_device_down (s : State) (p : Port) (w : Work) (r : RegionRef) (n : Nat) :
    (s.waitDirectory p w r n).device.down = s.device.down := by unfold State.waitDirectory; simp
@[simp] theorem State.startErase_array_data (s : State) (o : EraseOwner) (u : Nat) :
    (s.startErase o u).array.data = s.array.data := rfl
@[simp] theorem State.eraseUnit_array_data (s : State) (n u : Nat) :
    (s.eraseUnit n u).array.data = s.array.data := by unfold State.eraseUnit; split <;> simp
@[simp] theorem State.eraseUnit_slots_length (s : State) (n u : Nat) :
    (s.eraseUnit n u).slots.length = s.slots.length := by unfold State.eraseUnit; split <;> simp
@[simp] theorem State.startProgram_slots_length (s : State) (n a : Nat) :
    (s.startProgram n a).slots.length = s.slots.length := by unfold State.startProgram; split <;> simp
@[simp] theorem State.runSlot_slots_length (s : State) (n : Nat) :
    (s.runSlot n).slots.length = s.slots.length := by unfold State.runSlot; simp
@[simp] theorem State.startSlot_array_data (s : State) (n : Nat) :
    (s.startSlot n).array.data = s.array.data := by
  unfold State.startSlot; (repeat' split) <;> simp
@[simp] theorem State.startSlot_slots_length (s : State) (n : Nat) :
    (s.startSlot n).slots.length = s.slots.length := by
  unfold State.startSlot; (repeat' split) <;> simp
@[simp] theorem State.scrubbed_dir_records (s : State) (i u : Nat) (w : Bool) :
    (s.scrubbed i u w).dir.records = s.dir.records := by
  unfold State.scrubbed; split <;> simp
@[simp] theorem State.scrubbed_slots_length (s : State) (i u : Nat) (w : Bool) :
    (s.scrubbed i u w).slots.length = s.slots.length := by
  unfold State.scrubbed; split <;> simp
@[simp] theorem State.scrubbed_device_down (s : State) (i u : Nat) (w : Bool) :
    (s.scrubbed i u w).device.down = s.device.down := by
  unfold State.scrubbed; split <;> simp
@[simp] theorem State.removeComplete_dir_records (s : State) (i : Nat) :
    (s.removeComplete i).dir.records = s.dir.records := by
  unfold State.removeComplete; split <;> simp
@[simp] theorem State.removeComplete_slots_length (s : State) (i : Nat) :
    (s.removeComplete i).slots.length = s.slots.length := by
  unfold State.removeComplete; split <;> simp
@[simp] theorem State.removeComplete_device_down (s : State) (i : Nat) :
    (s.removeComplete i).device.down = s.device.down := by
  unfold State.removeComplete; split <;> simp
@[simp] theorem State.offerScrub_array_data (k : Nat) : ∀ s : State,
    (State.offerScrub k s).array.data = s.array.data := by
  induction k with
  | zero => intro s; rfl
  | succ k ih => intro s; unfold State.offerScrub; (repeat' split) <;> simp [ih]
@[simp] theorem State.offerScrub_dir_records (k : Nat) : ∀ s : State,
    (State.offerScrub k s).dir.records = s.dir.records := by
  induction k with
  | zero => intro s; rfl
  | succ k ih => intro s; unfold State.offerScrub; (repeat' split) <;> simp [ih]
@[simp] theorem State.offerScrub_slots_length (k : Nat) : ∀ s : State,
    (State.offerScrub k s).slots.length = s.slots.length := by
  induction k with
  | zero => intro s; rfl
  | succ k ih => intro s; unfold State.offerScrub; (repeat' split) <;> simp [ih]
@[simp] theorem State.offerScrub_device_down (k : Nat) : ∀ s : State,
    (State.offerScrub k s).device.down = s.device.down := by
  induction k with
  | zero => intro s; rfl
  | succ k ih => intro s; unfold State.offerScrub; (repeat' split) <;> simp [ih]
@[simp] theorem State.offerQueue_array_data (l : List Nat) : ∀ s : State,
    (State.offerQueue l s).array.data = s.array.data := by
  induction l with
  | nil => intro s; simp [State.offerQueue]
  | cons n rest ih => intro s; unfold State.offerQueue; simp only; split <;> (try rw [ih]) <;> simp
@[simp] theorem State.offerQueue_dir_records (l : List Nat) : ∀ s : State,
    (State.offerQueue l s).dir.records = s.dir.records := by
  induction l with
  | nil => intro s; simp [State.offerQueue]
  | cons n rest ih => intro s; unfold State.offerQueue; simp only; split <;> (try rw [ih]) <;> simp
@[simp] theorem State.offerQueue_slots_length (l : List Nat) : ∀ s : State,
    (State.offerQueue l s).slots.length = s.slots.length := by
  induction l with
  | nil => intro s; simp [State.offerQueue]
  | cons n rest ih => intro s; unfold State.offerQueue; simp only; split <;> (try rw [ih]) <;> simp
@[simp] theorem State.offerQueue_device_down (l : List Nat) : ∀ s : State,
    (State.offerQueue l s).device.down = s.device.down := by
  induction l with
  | nil => intro s; simp [State.offerQueue]
  | cons n rest ih => intro s; unfold State.offerQueue; simp only; split <;> (try rw [ih]) <;> simp
@[simp] theorem State.offer_array_data (s : State) :
    (s.offer).array.data = s.array.data := by unfold State.offer; split <;> simp
@[simp] theorem State.offer_dir_records (s : State) :
    (s.offer).dir.records = s.dir.records := by unfold State.offer; split <;> simp
@[simp] theorem State.offer_slots_length (s : State) :
    (s.offer).slots.length = s.slots.length := by unfold State.offer; split <;> simp
@[simp] theorem State.offer_device_down (s : State) :
    (s.offer).device.down = s.device.down := by unfold State.offer; split <;> simp
@[simp] theorem State.freeArray_array_data (s : State) :
    (s.freeArray).array.data = s.array.data := by unfold State.freeArray; simp
@[simp] theorem State.freeArray_dir_records (s : State) :
    (s.freeArray).dir.records = s.dir.records := by unfold State.freeArray; simp
@[simp] theorem State.freeArray_slots_length (s : State) :
    (s.freeArray).slots.length = s.slots.length := by unfold State.freeArray; simp
@[simp] theorem State.freeArray_device_down (s : State) :
    (s.freeArray).device.down = s.device.down := by unfold State.freeArray; simp
@[simp] theorem State.queueWork_array_data (s : State) (n : Nat) (p : Port) (w : Work) (h : Nat) (r : RegionRef) :
    (s.queueWork n p w h r).array.data = s.array.data := by unfold State.queueWork; simp
@[simp] theorem State.queueWork_dir_records (s : State) (n : Nat) (p : Port) (w : Work) (h : Nat) (r : RegionRef) :
    (s.queueWork n p w h r).dir.records = s.dir.records := by unfold State.queueWork; simp
@[simp] theorem State.queueWork_slots_length (s : State) (n : Nat) (p : Port) (w : Work) (h : Nat) (r : RegionRef) :
    (s.queueWork n p w h r).slots.length = s.slots.length := by unfold State.queueWork; simp
@[simp] theorem State.queueWork_device_down (s : State) (n : Nat) (p : Port) (w : Work) (h : Nat) (r : RegionRef) :
    (s.queueWork n p w h r).device.down = s.device.down := by unfold State.queueWork; simp
@[simp] theorem State.resume_slots_length (s : State) (o : EraseOwner) (r : EraseRun) :
    (s.resume o r).slots.length = s.slots.length := by unfold State.resume; split <;> simp
@[simp] theorem State.askSuspend_slots_length (s : State) (o : EraseOwner) (r : EraseRun) :
    (s.askSuspend o r).slots.length = s.slots.length := by
  unfold State.askSuspend; (repeat' split) <;> simp
@[simp] theorem State.nextUnit_array_data (s : State) (n u : Nat) :
    (s.nextUnit n u).array.data = s.array.data := by unfold State.nextUnit; simp
@[simp] theorem State.nextUnit_dir_records (s : State) (n u : Nat) :
    (s.nextUnit n u).dir.records = s.dir.records := by unfold State.nextUnit; simp
@[simp] theorem State.nextUnit_slots_length (s : State) (n u : Nat) :
    (s.nextUnit n u).slots.length = s.slots.length := by unfold State.nextUnit; simp
@[simp] theorem State.nextUnit_device_down (s : State) (n u : Nat) :
    (s.nextUnit n u).device.down = s.device.down := by unfold State.nextUnit; simp
@[simp] theorem State.endPause_array_data (s : State) :
    (s.endPause).array.data = s.array.data := by
  unfold State.endPause; (repeat' split) <;> simp
@[simp] theorem State.endPause_dir_records (s : State) :
    (s.endPause).dir.records = s.dir.records := by
  unfold State.endPause; (repeat' split) <;> simp
@[simp] theorem State.endPause_slots_length (s : State) :
    (s.endPause).slots.length = s.slots.length := by
  unfold State.endPause; (repeat' split) <;> simp
@[simp] theorem State.endPause_device_down (s : State) :
    (s.endPause).device.down = s.device.down := by
  unfold State.endPause; (repeat' split) <;> simp
@[simp] theorem State.background_array_data (s : State) :
    (s.background).array.data = s.array.data := by
  unfold State.background; (repeat' split) <;> simp
@[simp] theorem State.background_dir_records (s : State) :
    (s.background).dir.records = s.dir.records := by
  unfold State.background; (repeat' split) <;> simp
@[simp] theorem State.background_slots_length (s : State) :
    (s.background).slots.length = s.slots.length := by
  unfold State.background; (repeat' split) <;> simp
@[simp] theorem State.background_device_down (s : State) :
    (s.background).device.down = s.device.down := by
  unfold State.background; (repeat' split) <;> simp
@[simp] theorem State.endProgram_dir_records (s : State) (r : ArrayEnd) :
    (s.endProgram r).dir.records = s.dir.records := by
  unfold State.endProgram; (repeat' split) <;> simp
@[simp] theorem State.endProgram_slots_length (s : State) (r : ArrayEnd) :
    (s.endProgram r).slots.length = s.slots.length := by
  unfold State.endProgram; (repeat' split) <;> simp
@[simp] theorem State.endProgram_device_down (s : State) (r : ArrayEnd) :
    (s.endProgram r).device.down = s.device.down := by
  unfold State.endProgram; (repeat' split) <;> simp
@[simp] theorem State.slotUnitEnd_array_data (s : State) (n u : Nat) (r : ArrayEnd) :
    (s.slotUnitEnd n u r).array.data = s.array.data := by
  unfold State.slotUnitEnd; (repeat' (first | split | simp only)) <;> simp
@[simp] theorem State.slotUnitEnd_dir_records (s : State) (n u : Nat) (r : ArrayEnd) :
    (s.slotUnitEnd n u r).dir.records = s.dir.records := by
  unfold State.slotUnitEnd; (repeat' (first | split | simp only)) <;> simp
@[simp] theorem State.slotUnitEnd_slots_length (s : State) (n u : Nat) (r : ArrayEnd) :
    (s.slotUnitEnd n u r).slots.length = s.slots.length := by
  unfold State.slotUnitEnd; (repeat' (first | split | simp only)) <;> simp
@[simp] theorem State.slotUnitEnd_device_down (s : State) (n u : Nat) (r : ArrayEnd) :
    (s.slotUnitEnd n u r).device.down = s.device.down := by
  unfold State.slotUnitEnd; (repeat' (first | split | simp only)) <;> simp
@[simp] theorem State.scrubUnitEnd_array_data (s : State) (u : Nat) (r : ArrayEnd) :
    (s.scrubUnitEnd u r).array.data = s.array.data := by
  unfold State.scrubUnitEnd; split <;> simp
@[simp] theorem State.scrubUnitEnd_dir_records (s : State) (u : Nat) (r : ArrayEnd) :
    (s.scrubUnitEnd u r).dir.records = s.dir.records := by
  unfold State.scrubUnitEnd; split <;> simp
@[simp] theorem State.scrubUnitEnd_slots_length (s : State) (u : Nat) (r : ArrayEnd) :
    (s.scrubUnitEnd u r).slots.length = s.slots.length := by
  unfold State.scrubUnitEnd; split <;> simp
@[simp] theorem State.scrubUnitEnd_device_down (s : State) (u : Nat) (r : ArrayEnd) :
    (s.scrubUnitEnd u r).device.down = s.device.down := by
  unfold State.scrubUnitEnd; split <;> simp
@[simp] theorem State.formatWrite_slots_length (s : State) :
    (s.formatWrite).slots.length = s.slots.length := by
  unfold State.formatWrite; simp only; split <;> simp
@[simp] theorem State.formatWrite_device_down (s : State) :
    (s.formatWrite).device.down = s.device.down := by
  unfold State.formatWrite; simp only; split <;> simp
@[simp] theorem State.formatPass_array_data (n k : Nat) : ∀ s : State,
    (State.formatPass n k s).array.data = s.array.data := by
  induction k with
  | zero => intro s; simp [State.formatPass]
  | succ k ih => intro s; unfold State.formatPass; simp only; split <;> simp [ih]
@[simp] theorem State.formatPass_slots_length (n k : Nat) : ∀ s : State,
    (State.formatPass n k s).slots.length = s.slots.length := by
  induction k with
  | zero => intro s; simp [State.formatPass]
  | succ k ih => intro s; unfold State.formatPass; simp only; split <;> simp [ih]
@[simp] theorem State.formatPass_device_down (n k : Nat) : ∀ s : State,
    (State.formatPass n k s).device.down = s.device.down := by
  induction k with
  | zero => intro s; simp [State.formatPass]
  | succ k ih => intro s; unfold State.formatPass; simp only; split <;> simp [ih]
@[simp] theorem State.formatUnitEnd_array_data (s : State) (n u : Nat) (r : ArrayEnd) :
    (s.formatUnitEnd n u r).array.data = s.array.data := by
  unfold State.formatUnitEnd; simp only; split <;> simp
@[simp] theorem State.formatUnitEnd_slots_length (s : State) (n u : Nat) (r : ArrayEnd) :
    (s.formatUnitEnd n u r).slots.length = s.slots.length := by
  unfold State.formatUnitEnd; simp only; split <;> simp
@[simp] theorem State.formatUnitEnd_device_down (s : State) (n u : Nat) (r : ArrayEnd) :
    (s.formatUnitEnd n u r).device.down = s.device.down := by
  unfold State.formatUnitEnd; simp only; split <;> simp
@[simp] theorem State.endErase_dir_records (s : State) (r : ArrayEnd) :
    (s.endErase r).dir.records = s.dir.records := by
  unfold State.endErase; (repeat' split) <;> simp
@[simp] theorem State.endErase_slots_length (s : State) (r : ArrayEnd) :
    (s.endErase r).slots.length = s.slots.length := by
  unfold State.endErase; (repeat' split) <;> simp
@[simp] theorem State.endErase_device_down (s : State) (r : ArrayEnd) :
    (s.endErase r).device.down = s.device.down := by
  unfold State.endErase; (repeat' split) <;> simp
@[simp] theorem State.fixMarked_array_data (s : State) (n : Nat) :
    (s.fixMarked n).array.data = s.array.data := by
  unfold State.fixMarked; split <;> simp
@[simp] theorem State.fixMarked_dir_records (s : State) (n : Nat) :
    (s.fixMarked n).dir.records = s.dir.records := by
  unfold State.fixMarked; split <;> simp
@[simp] theorem State.fixMarked_slots_length (s : State) (n : Nat) :
    (s.fixMarked n).slots.length = s.slots.length := by
  unfold State.fixMarked; split <;> simp
@[simp] theorem State.fixMarked_device_down (s : State) (n : Nat) :
    (s.fixMarked n).device.down = s.device.down := by
  unfold State.fixMarked; split <;> simp
@[simp] theorem State.fixFault_array_data (s : State) (n g : Nat) (e : Extent) :
    (s.fixFault n g e).array.data = s.array.data := by
  unfold State.fixFault; simp only; split <;> simp
@[simp] theorem State.fixFault_slots_length (s : State) (n g : Nat) (e : Extent) :
    (s.fixFault n g e).slots.length = s.slots.length := by
  unfold State.fixFault; simp only; split <;> simp
@[simp] theorem State.fixFault_device_down (s : State) (n g : Nat) (e : Extent) :
    (s.fixFault n g e).device.down = s.device.down := by
  unfold State.fixFault; simp only; split <;> simp
@[simp] theorem State.endMark_array_data (s : State) (r : ArrayEnd) :
    (s.endMark r).array.data = s.array.data := by
  unfold State.endMark; (repeat' (first | split | simp only)) <;> simp
@[simp] theorem State.endMark_slots_length (s : State) (r : ArrayEnd) :
    (s.endMark r).slots.length = s.slots.length := by
  unfold State.endMark; (repeat' (first | split | simp only)) <;> simp
@[simp] theorem State.endMark_device_down (s : State) (r : ArrayEnd) :
    (s.endMark r).device.down = s.device.down := by
  unfold State.endMark; (repeat' (first | split | simp only)) <;> simp
@[simp] theorem State.verifyDone_array_data (s : State) (r : ScanRun) (v : Word) :
    (s.verifyDone r v).array.data = s.array.data := by unfold State.verifyDone; simp
@[simp] theorem State.verifyDone_dir_records (s : State) (r : ScanRun) (v : Word) :
    (s.verifyDone r v).dir.records = s.dir.records := by unfold State.verifyDone; simp
@[simp] theorem State.verifyDone_slots_length (s : State) (r : ScanRun) (v : Word) :
    (s.verifyDone r v).slots.length = s.slots.length := by unfold State.verifyDone; simp
@[simp] theorem State.verifyDone_device_down (s : State) (r : ScanRun) (v : Word) :
    (s.verifyDone r v).device.down = s.device.down := by unfold State.verifyDone; simp
@[simp] theorem State.verifyCancelled_array_data (s : State) (r : ScanRun) :
    (s.verifyCancelled r).array.data = s.array.data := by unfold State.verifyCancelled; simp
@[simp] theorem State.verifyCancelled_dir_records (s : State) (r : ScanRun) :
    (s.verifyCancelled r).dir.records = s.dir.records := by unfold State.verifyCancelled; simp
@[simp] theorem State.verifyCancelled_slots_length (s : State) (r : ScanRun) :
    (s.verifyCancelled r).slots.length = s.slots.length := by unfold State.verifyCancelled; simp
@[simp] theorem State.verifyCancelled_device_down (s : State) (r : ScanRun) :
    (s.verifyCancelled r).device.down = s.device.down := by unfold State.verifyCancelled; simp
@[simp] theorem State.beginMarks_slots_length (s : State) (r : ScanRun) (v : Word) :
    (s.beginMarks r v).slots.length = s.slots.length := by unfold State.beginMarks; simp
@[simp] theorem State.endScan_array_data (s : State) :
    (s.endScan).array.data = s.array.data := by
  unfold State.endScan; (repeat' (first | split | simp only)) <;> simp
@[simp] theorem State.endScan_dir_records (s : State) :
    (s.endScan).dir.records = s.dir.records := by
  unfold State.endScan; (repeat' (first | split | simp only)) <;> simp
@[simp] theorem State.endScan_slots_length (s : State) :
    (s.endScan).slots.length = s.slots.length := by
  unfold State.endScan; (repeat' (first | split | simp only)) <;> simp
@[simp] theorem State.endScan_device_down (s : State) :
    (s.endScan).device.down = s.device.down := by
  unfold State.endScan; (repeat' (first | split | simp only)) <;> simp
@[simp] theorem State.endSlice_array_data (s : State) :
    (s.endSlice).array.data = s.array.data := by
  unfold State.endSlice; (repeat' (first | split | simp only)) <;> simp
@[simp] theorem State.endSlice_dir_records (s : State) :
    (s.endSlice).dir.records = s.dir.records := by
  unfold State.endSlice; (repeat' (first | split | simp only)) <;> simp
@[simp] theorem State.endSlice_slots_length (s : State) :
    (s.endSlice).slots.length = s.slots.length := by
  unfold State.endSlice; (repeat' (first | split | simp only)) <;> simp
@[simp] theorem State.endSlice_device_down (s : State) :
    (s.endSlice).device.down = s.device.down := by
  unfold State.endSlice; (repeat' (first | split | simp only)) <;> simp
@[simp] theorem State.writeCompletes_array_data (s : State) :
    (s.writeCompletes).array.data = s.array.data := by
  unfold State.writeCompletes; (repeat' split) <;> simp
@[simp] theorem State.writeCompletes_slots_length (s : State) :
    (s.writeCompletes).slots.length = s.slots.length := by
  unfold State.writeCompletes; (repeat' split) <;> simp
@[simp] theorem State.attemptFails_slots_length (s : State) :
    (s.attemptFails).slots.length = s.slots.length := by
  unfold State.attemptFails; split <;> simp
@[simp] theorem State.attemptFails_device_down (s : State) :
    (s.attemptFails).device.down = s.device.down := by
  unfold State.attemptFails; split <;> simp

/-! ### An image and its check -/
@[simp] theorem Image.sealed_sequence (i : Image) : i.sealed.sequence = i.sequence := rfl
@[simp] theorem Image.sealed_records (i : Image) : i.sealed.records = i.records := rfl
@[simp] theorem Image.sealed_scrub (i : Image) : i.sealed.scrub = i.scrub := rfl
@[simp] theorem Image.sealed_withdrawn (i : Image) : i.sealed.withdrawn = i.withdrawn := rfl
@[simp] theorem Image.sealed_agrees (i : Image) : i.sealed.agrees = true := beq_self_eq_true i.crc
@[simp] theorem State.capture_agrees (s : State) (q : Word) : (s.capture q).agrees = true := Image.sealed_agrees _

/-- A copy is VALID where it is complete with a check that agrees, and in no other case (R163). -/
theorem Copy.valid_eq_some (c : Copy) (i : Image) : c.valid = some i ↔ c = .complete i ∧ i.agrees = true := by
  cases c with
  | complete j =>
    simp only [Copy.valid, Copy.complete.injEq]
    split
    · exact ⟨fun h => ⟨Option.some.inj h, Option.some.inj h ▸ ‹_›⟩, fun h => congrArg some h.1⟩
    · exact ⟨nofun, fun h => absurd (h.1 ▸ h.2) ‹_›⟩
  | blank => exact ⟨nofun, fun h => nomatch h.1⟩
  | damaged _ => exact ⟨nofun, fun h => nomatch h.1⟩

end Sys2Proof.Machine
end

