-- ==== Sys2Proof/Laws/Requests.lean ====
section
/-! SUPPORT. What taking a request can do: the induction principles of `State.take` and `State.arrive`, and `exec` as a
function to the next state. -/

set_option Elab.async false

namespace Sys2Proof.Machine

/-! ## The state after a command -/

/-- The state `exec` answers; every arm answers one. -/
def after (i : Instr) (s : State) : State :=
  match exec i s with
  | .next t => t
  | _ => s

theorem exec_eq_next (i : Instr) (s : State) : exec i s = .next (after i s) := by
  cases i <;> rfl

theorem exec_next_iff (i : Instr) (s t : State) : exec i s = .next t ↔ t = after i s := by
  rw [exec_eq_next]
  constructor
  · intro h; cases h; rfl
  · rintro rfl; rfl

theorem step_cons (c : Instr) (rest : List Instr) (s : State) (h : s.pending = c :: rest) :
    step s = exec c { s with pending := rest } := by
  unfold step; rw [h]

theorem step_nil (s : State) (h : s.pending = []) : step s = .next s.background := by
  unfold step; rw [h]

/-- What a step can do: run the command at the front, or let the part go on by itself. -/
theorem step_cases {s t : State} (h : step s = .next t) :
    (∃ c rest, s.pending = c :: rest ∧ t = after c { s with pending := rest }) ∨
    (s.pending = [] ∧ t = s.background) := by
  cases hp : s.pending with
  | nil => rw [step_nil s hp] at h; cases h; exact .inr ⟨rfl, rfl⟩
  | cons c rest =>
    rw [step_cons c rest s hp] at h
    exact .inl ⟨c, rest, rfl, (exec_next_iff _ _ _).1 h⟩

/-! ## Taking a request -/

/-- Two states of a port that differ at most in framing state, undecided command and replay cache. -/
structure PortState.Reframed (q q' : PortState) : Prop where
  handles : q'.handles = q.handles
  staleNotice : q'.staleNotice = q.staleNotice
  inhibit : q'.inhibit = q.inhibit
  selectLow : q'.selectLow = q.selectLow

theorem PortState.Reframed.refl (q : PortState) : q.Reframed q := ⟨rfl, rfl, rfl, rfl⟩

theorem PortState.Reframed.trans {q r t : PortState} (h : q.Reframed r) (k : r.Reframed t) : q.Reframed t :=
  ⟨k.1.trans h.1, k.2.trans h.2, k.3.trans h.3, k.4.trans h.4⟩

theorem State.reframed_kept_deliver (s : State) (p : Port) (cmd : Cmd) (tag : Byte) (r r' : Response) :
    (s.port p).Reframed ((s.kept p cmd tag r).deliver r') := ⟨by simp, by simp, by simp, by simp⟩

theorem PortState.reframed_deliver (q : PortState) (r : Response) : q.Reframed (q.deliver r) :=
  ⟨by simp, by simp, by simp, by simp⟩

/-- What is kept whenever a port is reframed. -/
def ReframeClosed (P : State → Prop) : Prop :=
  ∀ (t : State) (p : Port) (q : PortState), (t.port p).Reframed q → P t → P (t.setPort p q)

section
variable {P : State → Prop}

theorem ReframeClosed.finish (hc : ReframeClosed P) (p : Port) (cmd : Cmd) (tag : Byte) (r : Reply) {s : State}
    (h : P s) : P (s.finish p cmd tag r) :=
  hc s p _ (s.reframed_kept_deliver _ _ _ _ _) h

theorem ReframeClosed.answerFrame (hc : ReframeClosed P) (p : Port) (tag : Byte) (st : Status) {s : State}
    (h : P s) : P (s.answerFrame p tag st) :=
  hc s p _ (PortState.reframed_deliver _ _) h

theorem ReframeClosed.sendReplay (hc : ReframeClosed P) (p : Port) (r : Response) {s : State}
    (h : P s) : P (s.sendReplay p r) := hc s p _ ⟨rfl, rfl, rfl, rfl⟩ h

theorem ReframeClosed.serve (hc : ReframeClosed P) (w : ReadWait) {s : State} (h : P s) : P (s.serve w) :=
  hc.finish _ _ _ _ h

theorem ReframeClosed.foldl_serve (hc : ReframeClosed P) (l : List ReadWait) :
    ∀ {s : State}, P s → P (l.foldl State.serve s) := by
  induction l with
  | nil => intro s h; exact h
  | cons w rest ih => intro s h; exact ih (hc.serve w h)

theorem ReframeClosed.answerCancel (hc : ReframeClosed P) (c : Option (Port × Byte)) (st : Status) (x : SlotState)
    {s : State} (h : P s) : P (s.answerCancel c st x) := by
  unfold State.answerCancel; split
  · exact hc.finish _ _ _ _ h
  · exact h

/-- What every path of `State.take` keeps: reframing a port, and the block's own change where the checks before it
pass (R148). -/
theorem State.take_induct {α : Type} (hc : ReframeClosed P) {req : Instr} {p : Port} {cmd : Cmd} {tag : Byte}
    {args : Option α} {heldBack : α → Bool} {block : α → State → State × Option Reply} {s : State} (h : P s)
    (hblock : ∀ a, args = some a → s.device.answer cmd = none → P (block a s).1) :
    P (s.take req p cmd tag args heldBack block) := by
  unfold State.take
  split
  · exact hc.sendReplay _ _ h
  · split
    · exact hc.finish _ _ _ _ h
    · next a =>
      split
      · exact hc.finish _ _ _ _ h
      · next hd =>
        split
        · exact hc.finish _ _ _ _ h
        · have hb := hblock a rfl hd
          split
          · next he => rw [he] at hb; exact hc.finish _ _ _ _ hb
          · next he => rw [he] at hb; exact hc _ _ _ ⟨rfl, rfl, rfl, rfl⟩ hb

/-- What `State.arrive` keeps. -/
theorem State.arrive_induct (hc : ReframeClosed P) {req : Instr} {p : Port} {take : State → State} {s : State} (h : P s)
    (htake : (s.port p).framing = .receiving → s.device ≠ .inReset → (s.port p).undecided = none → P (take s)) :
    P (s.arrive req p take) := by
  unfold State.arrive
  split
  · next hf =>
    split
    · exact h
    · next hd =>
      split
      · exact hc _ _ _ ⟨rfl, rfl, rfl, rfl⟩ h
      · next hu => exact htake hf hd (by simpa using hu)
  · exact h

end

/-- A command that goes past the device-state check finds the part out of reset and, but for IDENTIFY and STATUS, in
service or in RECOVERY or FORMATTING (R155). -/
theorem Device.answer_down {d : Device} {c : Cmd} (h : d.answer c = none) (h1 : c ≠ .identify) (h2 : c ≠ .status) :
    d.down = false := by
  cases d <;> simp_all [Device.answer, Device.down]

/-- But for a few commands, the part has a directory in service (R155). -/
theorem Device.answer_loaded {d : Device} {c : Cmd} (h : d.answer c = none)
    (h1 : c ∉ [Cmd.identify, .status, .unitInfo, .portReset, .query, .collect, .format]) :
    d = .ready ∨ d = .degraded := by
  cases d <;> simp_all [Device.answer]

end Sys2Proof.Machine
end

