-- ==== Sys2Proof/Laws/Array.lean ====
section
/-! SUPPORT. The laws of the array kept by every operation: canonical lists, map equal to headers, counts and marks that
only grow (R4, R10, R17, R85). -/

set_option Elab.async false

namespace Sys2Proof.Machine

theorem State.HeadersGrow.refl (s : State) : s.HeadersGrow s := fun _ => ⟨le_refl _, id⟩

theorem State.HeadersGrow.trans {r s t : State} (h : r.HeadersGrow s) (k : s.HeadersGrow t) : r.HeadersGrow t :=
  fun u => ⟨(h u).1.trans (k u).1, fun m => (k u).2 ((h u).2 m)⟩

/-- The array in service, less what the running erase's start wrote. -/
structure State.ArrayCore (s : State) : Prop where
  live : s.device.down = false
  data : Memory.wf s.array.data = true
  headers : sparseWf Header.factory s.array.headers = true
  map : sparseWf UnitFacts.factory s.array.map = true
  agrees : ∀ u, s.array.facts u = (s.array.header u).facts
  limit : ∀ u, (s.array.header u).eraseCount ≤ Config.wearLimit
  begun : ∀ owner run, s.sched.activity = .erase owner run → run.settled = false →
    run.before.eraseCount ≤ (s.array.header run.unit).eraseCount ∧
    run.before.fixedMark = (s.array.header run.unit).fixedMark

/-- The array in service. -/
structure State.ArrayLive (s : State) : Prop extends s.ArrayCore where
  started : ∀ owner run, s.sched.activity = .erase owner run → run.settled = false →
    s.array.header run.unit = ⟨false, run.before.eraseCount + 1, run.before.fixedMark⟩

theorem State.ArrayLaw.live {s : State} (h : s.ArrayLaw) (hd : s.device.down = false) : s.ArrayLive where
  live := hd
  data := h.data
  headers := h.headers
  map := h.map
  agrees := h.agrees hd
  limit := h.limit
  begun := fun o r ha hs => by rw [h.started o r ha hs]; exact ⟨by simp, rfl⟩
  started := h.started

theorem State.ArrayLive.law {s : State} (h : s.ArrayLive) : s.ArrayLaw where
  data := h.data
  headers := h.headers
  map := h.map
  quiet := fun hd => by rw [h.live] at hd; cases hd
  agrees := fun _ => h.agrees
  limit := h.limit
  started := h.started

/-- A state that the array's laws hold of, and whose headers have grown since `s₀`. -/
def State.CoreSince (s₀ s : State) : Prop := s.ArrayCore ∧ s₀.HeadersGrow s

/-- As `CoreSince`, with the header write of a start as R10 gives it. -/
def State.LiveSince (s₀ s : State) : Prop := s.ArrayLive ∧ s₀.HeadersGrow s

section
variable {s₀ s t : State}

theorem State.LiveSince.core (h : s₀.LiveSince s) : s₀.CoreSince s := ⟨h.1.toArrayCore, h.2⟩

theorem State.sureHeader_congr (ha : t.array = s.array) (hc : t.sched.activity = s.sched.activity) (u : Nat) :
    t.sureHeader u = s.sureHeader u := by
  unfold State.sureHeader; rw [ha, hc]

theorem State.CoreSince.congr (h : s₀.CoreSince s) (hd : t.device.down = s.device.down) (ha : t.array = s.array)
    (hc : t.sched.activity = s.sched.activity) : s₀.CoreSince t := by
  obtain ⟨⟨h1, h2, h3, h4, h5, h6, h7⟩, hg⟩ := h
  refine ⟨⟨by rw [hd, h1], by rw [ha]; exact h2, by rw [ha]; exact h3, by rw [ha]; exact h4, by rw [ha]; exact h5,
    by rw [ha]; exact h6, by rw [ha, hc]; exact h7⟩, fun u => ?_⟩
  rw [State.sureHeader_congr ha hc]; exact hg u

theorem State.LiveSince.congr (h : s₀.LiveSince s) (hd : t.device.down = s.device.down) (ha : t.array = s.array)
    (hc : t.sched.activity = s.sched.activity) : s₀.LiveSince t := by
  obtain ⟨h1, h2⟩ := h.core.congr hd ha hc
  refine ⟨{ toArrayCore := h1, started := ?_ }, h2⟩
  rw [ha, hc]; exact h.1.started

/-- Giving the array to work that is no erase, or freeing it. -/
theorem State.CoreSince.setActivity (h : s₀.CoreSince s) {a : Activity} (hn : ∀ o r, a ≠ .erase o r) :
    s₀.LiveSince (s.setActivity a) := by
  obtain ⟨⟨h1, h2, h3, h4, h5, h6, h7⟩, hg⟩ := h
  refine ⟨⟨⟨by simpa using h1, by simpa using h2, by simpa using h3, by simpa using h4, by simpa using h5,
    by simpa using h6, fun o r e => absurd (by simpa using e) (hn o r)⟩,
    fun o r e => absurd (by simpa using e) (hn o r)⟩, fun u => ?_⟩
  have e : (s.setActivity a).sureHeader u = s.array.header u := by
    unfold State.sureHeader
    simp only [State.setActivity_activity, State.setActivity_array]
  rw [e]
  have hu := hg u
  generalize s₀.sureHeader u = y at hu ⊢
  unfold State.sureHeader at hu
  split at hu
  · next o r ha =>
    split at hu
    · next hc =>
      have := h7 o r ha hc.2
      rw [hc.1] at this
      exact ⟨hu.1.trans this.1, fun m => this.2 ▸ hu.2 m⟩
    · exact hu
  · exact hu

/-- A unit erase started below the wear limit (R10). -/
theorem State.CoreSince.startErase (h : s₀.CoreSince s) (o : EraseOwner) (u : Nat) (hl : s.array.atLimit u = false) :
    s₀.LiveSince (s.startErase o u) := by
  have hg := (h.setActivity (a := .idle) (by simp)).2
  obtain ⟨⟨h1, h2, h3, h4, h5, h6, h7⟩, _⟩ := h
  have hlt : (s.array.header u).eraseCount < Config.wearLimit := by
    have := hl
    unfold ArrayState.atLimit at this
    rw [h5 u] at this
    exact Nat.not_le.1 (of_decide_eq_false this)
  have hh : ∀ v, (s.startErase o u).array.header v =
      if v = u then { s.array.header u with eraseMark := false, eraseCount := (s.array.header u).eraseCount + 1 }
      else s.array.header v := fun v => ArrayState.header_writeHeader h3 u v _
  have hf : ∀ v, (s.startErase o u).array.facts v =
      if v = u then Header.facts
        { s.array.header u with eraseMark := false, eraseCount := (s.array.header u).eraseCount + 1 }
      else s.array.facts v := fun v => ArrayState.facts_writeHeader h4 u v _
  refine ⟨⟨⟨h1, h2, sparseWf_sparseSet h3, sparseWf_sparseSet h4, fun v => ?_, fun v => ?_, fun o' r e hs => ?_⟩,
    fun o' r e hs => ?_⟩, fun v => ?_⟩
  · rw [hh, hf]; split
    · rfl
    · exact h5 v
  · rw [hh]; split
    · exact hlt
    · exact h6 v
  · cases e; rw [hh]; exact ⟨by simp, by simp⟩
  · cases e; rw [hh]; simp
  · have := hg v
    have e : (s.startErase o u).sureHeader v = (s.setActivity .idle).sureHeader v := by
      show (if u = v ∧ false = false then s.array.header u else (s.startErase o u).array.header v) = s.array.header v
      rw [hh]
      by_cases hv : u = v
      · subst hv; simp
      · simp [hv, Ne.symm hv]
    rw [e]; exact this

theorem State.CoreSince.eraseUnit (h : s₀.CoreSince s) (n u : Nat) : s₀.LiveSince (s.eraseUnit n u) := by
  unfold State.eraseUnit
  split
  · exact (h.congr (t := s.endSlot n (.doneFail .worn)) rfl rfl rfl).setActivity (by simp)
  · next hl =>
    exact (h.congr (t := s.mapSlot n _) rfl rfl rfl).startErase _ _ (by simpa using hl)

theorem State.LiveSince.startProgram (h : s₀.LiveSince s) (n a : Nat) : s₀.LiveSince (s.startProgram n a) := by
  unfold State.startProgram
  split
  · exact h.congr rfl rfl rfl
  · exact h.core.setActivity (by simp)

theorem State.LiveSince.startSlot (h : s₀.LiveSince s) (n : Nat) : s₀.LiveSince (s.startSlot n) := by
  unfold State.startSlot
  have hr : s₀.LiveSince (s.runSlot n) := h.congr rfl rfl rfl
  (repeat' split)
  · exact h
  · exact hr.startProgram _ _
  · exact h.congr rfl rfl rfl
  · exact hr.core.eraseUnit _ _
  · exact h.congr rfl rfl rfl
  · exact hr.core.setActivity (by simp)
  · exact hr.core.setActivity (by simp)
  · exact h

theorem State.LiveSince.markDirty (h : s₀.LiveSince s) : s₀.LiveSince s.markDirty :=
  h.congr (by simp) (by simp) (by simp)

theorem State.LiveSince.scrubbed (h : s₀.LiveSince s) (i u : Nat) (w : Bool) : s₀.LiveSince (s.scrubbed i u w) :=
  h.congr (by simp) (by simp) (by simp)

theorem State.LiveSince.removeComplete (h : s₀.LiveSince s) (i : Nat) : s₀.LiveSince (s.removeComplete i) :=
  h.congr (by simp) (by simp) (by simp)

theorem State.LiveSince.offerScrub (k : Nat) : ∀ {s : State}, s₀.LiveSince s → s₀.LiveSince (State.offerScrub k s) := by
  induction k with
  | zero => intro s h; exact h
  | succ k ih =>
    intro s h
    unfold State.offerScrub
    (repeat' split)
    · exact h
    · exact ih (h.removeComplete _)
    · exact ih ((h.scrubbed _ _ _).removeComplete _)
    · exact ih ((h.scrubbed _ _ _).removeComplete _)
    · next hl => exact h.core.startErase _ _ (by simpa using hl)

theorem State.LiveSince.offerQueue (l : List Nat) :
    ∀ {s : State}, s₀.LiveSince s → s₀.LiveSince (State.offerQueue l s) := by
  induction l with
  | nil => intro s h; exact h.offerScrub _
  | cons n rest ih =>
    intro s h
    unfold State.offerQueue
    have h' : s₀.LiveSince (State.startSlot { s with sched := { s.sched with queue := rest } } n) :=
      (h.congr (t := { s with sched := { s.sched with queue := rest } }) rfl rfl rfl).startSlot n
    simp only
    split
    · exact ih h'
    · exact h'

theorem State.LiveSince.serveAll (h : s₀.LiveSince s) : s₀.LiveSince s.serveAll :=
  h.congr (by simp) (by simp) (by simp)

theorem State.LiveSince.offer (h : s₀.LiveSince s) : s₀.LiveSince s.offer := by
  unfold State.offer
  split
  · exact h.serveAll.offerQueue _
  · exact h

theorem State.CoreSince.freeArray (h : s₀.CoreSince s) : s₀.LiveSince s.freeArray :=
  (h.setActivity (by simp)).offer

theorem State.LiveSince.queueWork (h : s₀.LiveSince s) (n : Nat) (p : Port) (w : Work) (k : Nat) (r : RegionRef) :
    s₀.LiveSince (s.queueWork n p w k r) := by
  unfold State.queueWork
  exact (h.congr (t := s.enqueue n p w (some k) r) rfl rfl rfl).offer

/-- An erase that stays the same but for its suspension, slice and settled mark. -/
theorem State.LiveSince.setErase (h : s₀.LiveSince s) {o : EraseOwner} {r r' : EraseRun}
    (ha : s.sched.activity = .erase o r) (hu : r'.unit = r.unit) (hb : r'.before = r.before)
    (hs : r'.settled = false → r.settled = false) : s₀.LiveSince (s.setActivity (.erase o r')) := by
  obtain ⟨⟨⟨h1, h2, h3, h4, h5, h6, h7⟩, h8⟩, hg⟩ := h
  refine ⟨⟨⟨by simpa using h1, by simpa using h2, by simpa using h3, by simpa using h4, by simpa using h5,
    by simpa using h6, fun o' r₁ e hs₁ => ?_⟩, fun o' r₁ e hs₁ => ?_⟩, fun u => ?_⟩
  · cases e; rw [hu, hb]; exact h7 o r ha (hs hs₁)
  · cases e; rw [hu, hb]; exact h8 o r ha (hs hs₁)
  · have hgu := hg u
    generalize s₀.sureHeader u = y at hgu ⊢
    unfold State.sureHeader at hgu ⊢
    rw [ha] at hgu
    simp only [State.setActivity_activity, State.setActivity_array, hu, hb] at hgu ⊢
    by_cases hc : r.unit = u
    · subst hc
      by_cases hs' : r'.settled = false
      · simp only [hs', hs hs', and_self, if_true] at hgu ⊢; exact hgu
      · simp only [hs']
        by_cases hs'' : r.settled = false
        · simp only [hs'', and_self, if_true] at hgu
          have := h7 o r ha hs''
          exact ⟨hgu.1.trans this.1, fun m => this.2 ▸ hgu.2 m⟩
        · simp only [hs''] at hgu; exact hgu
    · simp only [hc, false_and, if_false] at hgu ⊢; exact hgu

theorem State.LiveSince.askSuspend (h : s₀.LiveSince s) {o : EraseOwner} {r : EraseRun}
    (ha : s.sched.activity = .erase o r) : s₀.LiveSince (s.askSuspend o r) := by
  have hd : s₀.LiveSince s.drawn := h.congr rfl rfl rfl
  unfold State.askSuspend
  split
  · exact h
  · split
    · have := hd.setErase (r := r) (r' := { r with settled := true, suspended := true }) (by simpa using ha) rfl rfl (by simp)
      simp only
      split
      · exact this.congr rfl rfl rfl
      · exact this
    · exact hd.setErase (r := r) (by simpa using ha) rfl rfl (by simp)

theorem State.LiveSince.resume (h : s₀.LiveSince s) {o : EraseOwner} {r : EraseRun}
    (ha : s.sched.activity = .erase o r) : s₀.LiveSince (s.resume o r) := by
  unfold State.resume
  have := h.setErase (r' := { r with suspended := false, suspensions := r.suspensions + 1, sliceDone := false })
    ha rfl rfl id
  simp only
  split
  · exact this.congr rfl rfl rfl
  · exact this

theorem State.LiveSince.nextUnit (h : s₀.LiveSince s) (n u : Nat) : s₀.LiveSince (s.nextUnit n u) :=
  (h.core.eraseUnit n u).offer

theorem State.LiveSince.endPause (h : s₀.LiveSince s) : s₀.LiveSince s.endPause := by
  unfold State.endPause
  split
  · next o r ha =>
    split
    · exact h.serveAll.resume (by simpa using ha)
    · exact h
  · exact h.serveAll.nextUnit _ _
  · exact h

theorem State.LiveSince.background (h : s₀.LiveSince s) : s₀.LiveSince s.background := by
  unfold State.background
  split
  · next o r ha _ =>
    split
    · exact h.resume ha
    · exact h
  · split
    · exact h.congr (by simp) (by simp) (by simp)
    · exact h
  · exact h.nextUnit _ _
  · exact h.congr (by simp) (by simp) (by simp)
  · exact h

theorem State.LiveSince.readPath (h : s₀.LiveSince s) (w : ReadWait) : s₀.LiveSince (s.readPath w).1 := by
  have hw : s₀.LiveSince (s.await w) := h.congr rfl rfl rfl
  unfold State.readPath
  split
  · exact h
  · exact hw
  · exact hw
  · exact hw
  · exact hw
  · next o r ha =>
    split
    · exact h
    · split
      · exact hw
      · split
        · exact h
        · split
          · exact hw.askSuspend (by simpa using ha)
          · exact hw

/-! ## The ends of array work -/

/-- The data bytes alone changed. -/
theorem State.LiveSince.setData (h : s₀.LiveSince s) {a : ArrayState} (hd : Memory.wf a.data = true)
    (hh : a.headers = s.array.headers) (hm : a.map = s.array.map) : s₀.LiveSince { s with array := a } := by
  have e : ∀ u, a.header u = s.array.header u := fun u => by unfold ArrayState.header; rw [hh]
  have f : ∀ u, a.facts u = s.array.facts u := fun u => by unfold ArrayState.facts; rw [hm]
  obtain ⟨⟨⟨h1, h2, h3, h4, h5, h6, h7⟩, h8⟩, hg⟩ := h
  refine ⟨⟨⟨h1, hd, by rw [hh]; exact h3, by rw [hm]; exact h4, fun u => ?_, fun u => ?_, fun o r ha hs => ?_⟩,
    fun o r ha hs => ?_⟩, fun u => ?_⟩
  · rw [e, f]; exact h5 u
  · rw [e]; exact h6 u
  · rw [e]; exact h7 o r ha hs
  · rw [e]; exact h8 o r ha hs
  · have : State.sureHeader { s with array := a } u = s.sureHeader u := by
      unfold State.sureHeader; simp only [e]
    rw [this]; exact hg u

theorem State.LiveSince.endProgram (h : s₀.LiveSince s) (r : ArrayEnd) : s₀.LiveSince (s.endProgram r) := by
  have hp : ∀ f x (d : List Byte), s₀.LiveSince { s with array := ArrayState.programBytes f x d s.array } := fun f x d =>
    h.setData (ArrayState.wf_programBytes f d x h.1.data) (by simp) (by simp)
  unfold State.endProgram
  split
  · simp only
    split
    · refine State.CoreSince.freeArray ?_
      exact (hp (fun _ => true) _ _).core.congr rfl rfl rfl
    · refine State.CoreSince.freeArray ?_
      exact (hp (Config.programLanded s.draws) _ _).core.congr rfl rfl rfl
  · exact h

/-- A header rewritten with at least the count it had and the fixed mark it had (R11, R15). -/
theorem State.LiveSince.rewrite (h : s₀.LiveSince s) {a : ArrayState} {u : Nat} {x : Header}
    (hd : Memory.wf a.data = true) (hh : a.headers = s.array.headers) (hm : a.map = s.array.map)
    (hc : x.eraseCount = (s.array.header u).eraseCount) (hx : (s.array.header u).fixedMark = true → x.fixedMark = true)
    (hb : ∀ o r, s.sched.activity = .erase o r → r.settled = false → r.unit = u →
      x.fixedMark = (s.array.header u).fixedMark) :
    s₀.CoreSince { s with array := a.writeHeader u x } := by
  have hw3 : sparseWf Header.factory a.headers = true := by rw [hh]; exact h.1.headers
  have hw4 : sparseWf UnitFacts.factory a.map = true := by rw [hm]; exact h.1.map
  have e : ∀ v, (a.writeHeader u x).header v = if v = u then x else s.array.header v := fun v => by
    rw [ArrayState.header_writeHeader hw3]; unfold ArrayState.header; rw [hh]
  have f : ∀ v, (a.writeHeader u x).facts v = if v = u then x.facts else s.array.facts v := fun v => by
    rw [ArrayState.facts_writeHeader hw4]; unfold ArrayState.facts; rw [hm]
  obtain ⟨⟨⟨h1, h2, h3, h4, h5, h6, h7⟩, h8⟩, hg⟩ := h
  refine ⟨⟨h1, hd, sparseWf_sparseSet hw3, sparseWf_sparseSet hw4, fun v => ?_, fun v => ?_, fun o r ha hs => ?_⟩,
    fun v => ?_⟩
  · rw [e, f]; split
    · rfl
    · exact h5 v
  · rw [e]; split
    · rw [hc]; exact h6 u
    · exact h6 v
  · rw [e]
    have := h7 o r ha hs
    split
    · next hu =>
      rw [hu] at this
      exact ⟨this.1.trans hc.ge, this.2.trans (hb o r ha hs hu).symm⟩
    · exact this
  · have hv := hg v
    have ex : State.sureHeader { s with array := a.writeHeader u x } v =
        match s.sched.activity with
        | .erase _ run => if run.unit = v ∧ run.settled = false then run.before else if v = u then x else s.array.header v
        | _ => if v = u then x else s.array.header v := by
      unfold State.sureHeader
      cases hact : s.sched.activity <;> simp only [e]
    rw [ex]
    generalize s₀.sureHeader v = y at hv ⊢
    unfold State.sureHeader at hv
    have fin : ∀ y : Header, y.eraseCount ≤ (s.array.header v).eraseCount ∧
        (y.fixedMark = true → (s.array.header v).fixedMark = true) →
        y.eraseCount ≤ (if v = u then x else s.array.header v).eraseCount ∧
        (y.fixedMark = true → (if v = u then x else s.array.header v).fixedMark = true) := by
      intro y hy
      split
      · next hvu => subst hvu; exact ⟨hy.1.trans hc.ge, fun m => hx (hy.2 m)⟩
      · exact hy
    split
    · next o r ha =>
      rw [ha] at hv
      simp only at hv
      split
      · next hcond => rw [if_pos hcond] at hv; exact hv
      · next hcond => rw [if_neg hcond] at hv; exact fin _ hv
    · next hne =>
      split at hv
      · next o r ha => exact absurd ha (hne o r)
      · exact fin _ hv

theorem State.LiveSince.eraseContent (h : s₀.LiveSince s) (run : EraseRun) (r : ArrayEnd) :
    s₀.CoreSince (s.eraseContent run r) := by
  unfold State.eraseContent
  split
  · exact h.rewrite (a := s.array.eraseData run.unit) (ArrayState.wf_eraseData h.1.data _) rfl rfl rfl id
      (fun _ _ _ _ _ => rfl)
  · exact (h.setData (ArrayState.wf_stopErase h.1.data run _) (by simp) (by simp)).core.congr rfl rfl rfl

theorem State.CoreSince.mapSlot (h : s₀.CoreSince s) (n : Nat) (f : SlotBody → SlotBody) :
    s₀.CoreSince (s.mapSlot n f) := h.congr rfl rfl rfl

theorem State.CoreSince.endSlot (h : s₀.CoreSince s) (n : Nat) (st : SlotState) :
    s₀.CoreSince (s.endSlot n st) := h.congr rfl rfl rfl

theorem State.CoreSince.serveAll (h : s₀.CoreSince s) : s₀.CoreSince s.serveAll :=
  h.congr (by simp) (by simp) (by simp)

theorem State.CoreSince.slotUnitEnd (h : s₀.CoreSince s) (n u : Nat) (r : ArrayEnd) :
    s₀.LiveSince (s.slotUnitEnd n u r) := by
  unfold State.slotUnitEnd
  split
  · exact (h.congr (t := s.endSlot n _) rfl rfl rfl).freeArray
  · have hm := h.mapSlot n fun b => { b with progress := b.progress + 1 }
    have h1 := hm.serveAll.setActivity (a := .between n (u + 1)) (by simp)
    have h2 := (hm.endSlot n .doneOk).freeArray
    simp only
    (repeat' split) <;> first | exact h1 | exact h2

theorem State.CoreSince.scrubUnitEnd (h : s₀.CoreSince s) (u : Nat) (r : ArrayEnd) :
    s₀.LiveSince (s.scrubUnitEnd u r) := by
  unfold State.scrubUnitEnd
  split
  · exact h.freeArray
  · exact (((h.setActivity (by simp)).scrubbed _ _ _).removeComplete _).core.freeArray

theorem State.CoreSince.formatWrite (h : s₀.CoreSince s) : s₀.LiveSince s.formatWrite := by
  have hi : s₀.LiveSince (s.setActivity .idle) := h.setActivity (by simp)
  unfold State.formatWrite
  simp only
  split
  · exact hi.congr (by simp) (by simp) (by simp)
  · exact hi.congr rfl rfl rfl

theorem State.CoreSince.formatPass (n k : Nat) :
    ∀ {s : State}, s₀.CoreSince s → s₀.LiveSince (State.formatPass n k s) := by
  induction k with
  | zero => intro s h; exact h.formatWrite
  | succ k ih =>
    intro s h
    unfold State.formatPass
    simp only
    split
    · exact ih (h.congr rfl rfl rfl)
    · next hl =>
      refine h.startErase _ _ ?_
      have : ¬ (s.array.facts (Config.unitCount - (k + 1))).fixedMark = true ∧
          s.array.atLimit (Config.unitCount - (k + 1)) = false := by simpa using hl
      exact this.2

theorem State.CoreSince.formatUnitEnd (h : s₀.CoreSince s) (n u : Nat) (r : ArrayEnd) :
    s₀.LiveSince (s.formatUnitEnd n u r) := by
  unfold State.formatUnitEnd
  simp only
  split
  · exact (h.congr (t := (s.formatWithdraw u).mapSlot n _) rfl rfl rfl).formatPass _ _
  · exact (h.mapSlot n _).formatPass _ _

theorem State.LiveSince.endErase (h : s₀.LiveSince s) (r : ArrayEnd) : s₀.LiveSince (s.endErase r) := by
  unfold State.endErase
  split
  · simp only
    split
    · exact (h.endPause.eraseContent _ r).slotUnitEnd _ _ _
    · exact (h.endPause.eraseContent _ r).scrubUnitEnd _ _
    · exact (h.endPause.eraseContent _ r).formatUnitEnd _ _ _
  · exact h

theorem State.CoreSince.fixMarked (h : s₀.CoreSince s) (n : Nat) : s₀.LiveSince (s.fixMarked n) := by
  unfold State.fixMarked
  split
  · exact State.CoreSince.freeArray (h.congr rfl rfl rfl)
  · exact ((h.mapSlot n _).setActivity (a := .idle) (by simp)).markDirty.core.freeArray

theorem State.CoreSince.fixFault (h : s₀.CoreSince s) (n g : Nat) (e : Extent) : s₀.LiveSince (s.fixFault n g e) := by
  have hi := (h.endSlot n (.doneFail .arrayFault)).setActivity (a := .idle) (by simp)
  unfold State.fixFault
  simp only
  split
  · refine State.CoreSince.freeArray ?_
    exact hi.core.congr (by simp) (by simp) (by simp)
  · refine State.CoreSince.freeArray ?_
    exact hi.core.congr rfl rfl rfl

theorem State.LiveSince.markUnit (h : s₀.LiveSince s) {run : MarkRun} (hm : s.sched.activity = .mark run) (u : Nat) :
    s₀.CoreSince { s with array := s.array.markUnit u } :=
  h.rewrite (a := s.array) h.1.data rfl rfl rfl (fun _ => rfl) (fun o r e => by rw [hm] at e; cases e)

theorem State.LiveSince.endMark (h : s₀.LiveSince s) (r : ArrayEnd) : s₀.LiveSince (s.endMark r) := by
  unfold State.endMark
  split
  · next run hm =>
    have hu := h.markUnit hm (run.extent.first + run.done)
    simp only
    split
    · split
      · exact (hu.mapSlot _ _).serveAll.setActivity (by simp)
      · exact (hu.mapSlot _ _).fixMarked _
    · refine State.CoreSince.fixFault ?_ _ _ _
      split
      · exact hu.congr rfl rfl rfl
      · exact h.core.congr rfl rfl rfl
  · exact h

theorem State.LiveSince.endScan (h : s₀.LiveSince s) : s₀.LiveSince s.endScan := by
  unfold State.endScan
  split
  · next run _ =>
    have hm := h.core.mapSlot run.slot fun b => { b with progress := b.progress + 1 }
    simp only
    split
    · split
      · exact State.CoreSince.freeArray (hm.congr (by simp) (by simp) (by simp))
      · exact hm.serveAll.setActivity (by simp)
    · split
      · exact (hm.mapSlot _ _).serveAll.setActivity (by simp)
      · exact State.CoreSince.freeArray (hm.congr (by simp) (by simp) (by simp))
  · exact h

theorem State.LiveSince.endSlice (h : s₀.LiveSince s) : s₀.LiveSince s.endSlice := by
  unfold State.endSlice
  split
  · next o r ha =>
    have := h.endPause.setErase (r' := { r with sliceDone := true, settled := true }) ha rfl rfl (by simp)
    simp only
    split
    · exact this
    · exact this.askSuspend (by simp)
  · exact h

/-! ## The writer's events -/

theorem State.LiveSince.writeCompletes (h : s₀.LiveSince s) : s₀.LiveSince s.writeCompletes := by
  unfold State.writeCompletes
  split
  · next j _ =>
    split
    · exact h.congr (by rw [h.1.live]; rfl) (by simp) (by simp)
    · refine State.LiveSince.offer ?_
      exact h.congr (by simp) (by simp) (by simp)
  · exact h

theorem State.LiveSince.attemptFails (h : s₀.LiveSince s) : s₀.LiveSince s.attemptFails := by
  unfold State.attemptFails
  split
  · exact h.congr (by simp) (by simp) (by simp)
  · exact h

/-! ## The commands -/

theorem State.LiveSince.reframe (s₀ : State) : ReframeClosed s₀.LiveSince :=
  fun _ _ _ _ h => h.congr (by simp) (by simp) (by simp)

theorem State.LiveSince.ownerCommand (h : s₀.LiveSince s) {p : Port} {ref : RegionRef} {checks : Region → Option Status}
    {accept : Region → Nat → State → State} (ha : ∀ r n, s₀.LiveSince (accept r n s)) :
    s₀.LiveSince (s.ownerCommand p ref checks accept).1 := by
  unfold State.ownerCommand
  (repeat' split) <;> first | exact h | exact ha _ _

theorem State.LiveSince.createBlock (h : s₀.LiveSince s) (p : Port) (a : CreateArgs) :
    s₀.LiveSince (createBlock p a s).1 := by
  unfold Sys2Proof.Machine.createBlock
  (repeat' split) <;> first | exact h | exact h.congr (by simp [State.acceptCreate]) (by simp [State.acceptCreate]) (by simp [State.acceptCreate])

theorem State.LiveSince.acceptGrow (h : s₀.LiveSince s) (p : Port) (ref : RegionRef) (k : Nat) (r : Region) (n : Nat) :
    s₀.LiveSince (State.acceptGrow p ref k r n s) := by
  unfold State.acceptGrow; exact h.congr (by simp) (by simp) (by simp)

theorem State.LiveSince.acceptShrink (h : s₀.LiveSince s) (p : Port) (ref : RegionRef) (k : Nat) (o : Bool) (r : Region)
    (n : Nat) : s₀.LiveSince (State.acceptShrink p ref k o r n s) := by
  unfold State.acceptShrink; exact h.congr (by simp; split <;> rfl) (by simp; split <;> rfl) (by simp; split <;> rfl)

theorem State.LiveSince.acceptRetire (h : s₀.LiveSince s) (p : Port) (ref : RegionRef) (o : Bool) (r : Region)
    (n : Nat) : s₀.LiveSince (State.acceptRetire p ref o r n s) := by
  unfold State.acceptRetire; exact h.congr (by simp; split <;> rfl) (by simp; split <;> rfl) (by simp; split <;> rfl)

theorem State.LiveSince.acceptGrant (h : s₀.LiveSince s) (p : Port) (ref : RegionRef) (v : Rights) (o : Bool) (r : Region)
    (n : Nat) : s₀.LiveSince (State.acceptGrant p ref v o r n s) := by
  unfold State.acceptGrant; exact h.congr (by simp; split <;> rfl) (by simp; split <;> rfl) (by simp; split <;> rfl)

theorem State.LiveSince.acceptHold (h : s₀.LiveSince s) (p : Port) (ref : RegionRef) (o : Bool) (r : Region)
    (n : Nat) : s₀.LiveSince (State.acceptHold p ref o r n s) := by
  unfold State.acceptHold; exact h.congr (by simp; split <;> rfl) (by simp; split <;> rfl) (by simp; split <;> rfl)

theorem State.LiveSince.acceptThaw (h : s₀.LiveSince s) (p : Port) (ref : RegionRef) (r : Region) (n : Nat) :
    s₀.LiveSince (State.acceptThaw p ref r n s) := by
  unfold State.acceptThaw; exact h.congr (by simp) (by simp) (by simp)

theorem State.LiveSince.acceptFix (h : s₀.LiveSince s) (p : Port) (ref : RegionRef) (r : Region) (n : Nat) :
    s₀.LiveSince (State.acceptFix p ref r n s) := by
  unfold State.acceptFix
  exact State.LiveSince.offer (h.congr rfl rfl rfl)

theorem State.LiveSince.formatBlock (h : s₀.LiveSince s) (p : Port) : s₀.LiveSince (formatBlock p s).1 := by
  unfold Sys2Proof.Machine.formatBlock
  (repeat' split) <;> first
    | exact h
    | (refine State.CoreSince.formatPass _ _ ?_
       exact h.core.congr (by rw [h.1.live]; rfl) rfl rfl)

theorem State.LiveSince.openBlock (h : s₀.LiveSince s) (p : Port) (a : Mode × Target) :
    s₀.LiveSince (openBlock p a s).1 := by
  unfold Sys2Proof.Machine.openBlock
  (repeat' split) <;> first | exact h | exact h.congr (by simp) (by simp) (by simp)

theorem State.LiveSince.closeBlock (h : s₀.LiveSince s) (p : Port) (k : Nat) : s₀.LiveSince (closeBlock p k s).1 := by
  unfold Sys2Proof.Machine.closeBlock
  (repeat' split) <;> first | exact h | exact h.congr (by simp) (by simp) (by simp)

theorem State.LiveSince.verifyBlock (h : s₀.LiveSince s) (p : Port) (k : Nat) : s₀.LiveSince (verifyBlock p k s).1 := by
  unfold Sys2Proof.Machine.verifyBlock
  (repeat' split) <;> first | exact h | exact h.queueWork _ _ _ _ _

theorem State.LiveSince.readBlock (h : s₀.LiveSince s) (p : Port) (tag : Byte) (a : ReadArgs) :
    s₀.LiveSince (readBlock p tag a s).1 := by
  unfold Sys2Proof.Machine.readBlock
  simp only
  (repeat' split) <;> first | exact h | exact h.readPath _

theorem State.LiveSince.writeBlock (h : s₀.LiveSince s) (p : Port) (k : Nat) (f : Extent → Bool) (w : Work) :
    s₀.LiveSince (writeBlock p k f w s).1 := by
  unfold Sys2Proof.Machine.writeBlock
  (repeat' split) <;> first | exact h | exact h.queueWork _ _ _ _ _

theorem State.LiveSince.cancelWaiting (h : s₀.LiveSince s) (n : Nat) (b : SlotBody) :
    s₀.LiveSince (s.cancelWaiting n b) := by
  unfold State.cancelWaiting
  simp only
  split
  · exact h.congr rfl rfl rfl
  · exact h.congr rfl rfl rfl

theorem State.LiveSince.cancelErase (h : s₀.LiveSince s) (n : Nat) : s₀.LiveSince (s.cancelErase n) :=
  State.CoreSince.freeArray (h.core.congr rfl rfl rfl)

theorem State.LiveSince.abortErase (h : s₀.LiveSince s) (n : Nat) (run : EraseRun) :
    s₀.LiveSince (s.abortErase n run) := by
  unfold State.abortErase
  refine State.LiveSince.cancelErase ?_ n
  exact (h.setData (ArrayState.wf_stopErase h.1.data run _) (by simp) (by simp)).congr rfl rfl rfl

theorem State.LiveSince.cancelBlock (h : s₀.LiveSince s) (p : Port) (tag : Byte) (k : Ticket) :
    s₀.LiveSince (cancelBlock p tag k s).1 := by
  unfold Sys2Proof.Machine.cancelBlock
  (repeat' split) <;> first
    | exact h
    | exact h.cancelWaiting _ _
    | exact h.abortErase _ _
    | exact h.cancelErase _
    | exact h.core.setActivity (by simp)

theorem State.LiveSince.collectBlock (h : s₀.LiveSince s) (p : Port) (k : Ticket) :
    s₀.LiveSince (collectBlock p k s).1 := by
  unfold Sys2Proof.Machine.collectBlock
  (repeat' split) <;> first | exact h | exact h.congr rfl rfl rfl

/-! ## Reset, power and start-up -/

/-- Headers and data alone changed, as a loss of RESET or power leaves them (R9, R10, R13, R15). -/
structure State.Cut (s : State) (a : ArrayState) : Prop where
  data : Memory.wf a.data = true
  headers : sparseWf Header.factory a.headers = true
  limit : ∀ u, (a.header u).eraseCount ≤ Config.wearLimit
  grow : ∀ u, (s.sureHeader u).eraseCount ≤ (a.header u).eraseCount ∧
    ((s.sureHeader u).fixedMark = true → (a.header u).fixedMark = true)

theorem State.ArrayLive.sure_le (h : s.ArrayLive) (u : Nat) :
    (s.sureHeader u).eraseCount ≤ (s.array.header u).eraseCount ∧
    ((s.sureHeader u).fixedMark = true → (s.array.header u).fixedMark = true) := by
  unfold State.sureHeader
  split
  · next o r ha =>
    split
    · next hc =>
      have := h.begun o r ha hc.2
      rw [hc.1] at this
      exact ⟨this.1, fun m => this.2 ▸ m⟩
    · exact ⟨le_refl _, id⟩
  · exact ⟨le_refl _, id⟩

/-- Only data bytes differ. -/
theorem State.ArrayLive.cut_data (h : s.ArrayLive) {a : ArrayState} (hd : Memory.wf a.data = true)
    (hh : a.headers = s.array.headers) : s.Cut a := by
  have e : ∀ u, a.header u = s.array.header u := fun u => by unfold ArrayState.header; rw [hh]
  exact ⟨hd, by rw [hh]; exact h.headers, fun u => by rw [e]; exact h.limit u, fun u => by rw [e]; exact h.sure_le u⟩

/-- Data bytes differ, and one header is written anew. -/
theorem State.ArrayLive.cut_header (h : s.ArrayLive) {a : ArrayState} (hd : Memory.wf a.data = true)
    (hh : a.headers = s.array.headers) (u : Nat) (x : Header) (hl : x.eraseCount ≤ Config.wearLimit)
    (hx : (s.sureHeader u).eraseCount ≤ x.eraseCount ∧ ((s.sureHeader u).fixedMark = true → x.fixedMark = true)) :
    s.Cut (a.setHeader u x) := by
  have hw : sparseWf Header.factory a.headers = true := by rw [hh]; exact h.headers
  have e : ∀ v, (a.setHeader u x).header v = if v = u then x else s.array.header v := fun v => by
    unfold ArrayState.setHeader ArrayState.header
    rw [sparseGet_sparseSet hw, hh]
  refine ⟨hd, sparseWf_sparseSet hw, fun v => ?_, fun v => ?_⟩
  · rw [e]; split
    · exact hl
    · exact h.limit v
  · rw [e]; split
    · next hv => rw [hv]; exact hx
    · exact h.sure_le v

theorem State.ArrayLive.cutWork (h : s.ArrayLive) : s.Cut s.cutWork.array := by
  have hc := h.sure_le
  unfold State.cutWork
  split
  · exact h.cut_data h.data rfl
  · exact h.cut_data h.data rfl
  · exact h.cut_data h.data rfl
  · exact h.cut_data (ArrayState.wf_programBytes _ _ _ h.data) (by simp)
  · next o r ha =>
    have hp : s.Cut (s.array.stopErase r (Config.eraseSets s.draws)) :=
      h.cut_data (ArrayState.wf_stopErase h.data _ _) (by simp)
    have he : s.Cut (s.array.eraseData r.unit) := h.cut_data (ArrayState.wf_eraseData h.data _) rfl
    show s.Cut (ArrayState.cutErase _ _ _ _)
    unfold ArrayState.cutErase
    simp only
    (repeat' split) <;> first
      | exact hp
      | exact he
      | skip
    · next hs =>
      have hs' : r.settled = false := by simpa using hs
      have hb := h.begun o r ha hs'
      refine h.cut_header h.data rfl _ _ (hb.1.trans (h.limit _)) ?_
      have : s.sureHeader r.unit = r.before := by unfold State.sureHeader; rw [ha]; simp [hs']
      rw [this]; exact ⟨le_refl _, id⟩
    · exact h.cut_header (ArrayState.wf_eraseData h.data _) rfl _ _ (h.limit _) (hc _)
  · simp only
    split
    · exact h.cut_header h.data rfl _ _ (h.limit _) ⟨(hc _).1, fun _ => rfl⟩
    · exact h.cut_data h.data rfl

theorem State.enterReset_law (h : s.ArrayLaw) : s.enterReset.ArrayLaw ∧ s.HeadersGrow s.enterReset := by
  by_cases hr : s.device = .inReset
  · unfold State.enterReset; rw [if_pos hr]; exact ⟨h, .refl s⟩
  · have hcut : s.Cut s.cutWork.array := by
      cases hd : s.device.down with
      | false => exact (h.live hd).cutWork
      | true =>
        have hi := (h.quiet hd).1
        have e : s.cutWork.array = s.array := by unfold State.cutWork; rw [hi]
        have es : ∀ u, s.sureHeader u = s.array.header u := fun u => by unfold State.sureHeader; rw [hi]
        rw [e]
        exact ⟨h.data, h.headers, h.limit, fun u => by rw [es]; exact ⟨le_refl _, id⟩⟩
    have ea : s.enterReset.array = { s.cutWork.array with map := [] } := by
      unfold State.enterReset; rw [if_neg hr]
      show { s.cutWork.cutWrite.array with map := [] } = _
      have : s.cutWork.cutWrite.array = s.cutWork.array := by unfold State.cutWrite; split <;> rfl
      rw [this]
    have ed : s.enterReset.device = .inReset := by unfold State.enterReset; rw [if_neg hr]
    have ec : s.enterReset.sched = .empty := by unfold State.enterReset; rw [if_neg hr]; rfl
    have ew : s.enterReset.store.writer = .idle := by unfold State.enterReset; rw [if_neg hr]; rfl
    have eh : ∀ u, s.enterReset.array.header u = s.cutWork.array.header u := fun u => by rw [ea]; rfl
    refine ⟨⟨by rw [ea]; exact hcut.data, by rw [ea]; exact hcut.headers, by rw [ea]; rfl,
      fun _ => ⟨by rw [ec], ew⟩, fun hd => ?_, fun u => by rw [eh]; exact hcut.limit u, fun o r ha => ?_⟩, fun u => ?_⟩
    · rw [ed] at hd; cases hd
    · rw [ec] at ha; cases ha
    · have : s.enterReset.sureHeader u = s.cutWork.array.header u := by
        unfold State.sureHeader; rw [ec]; exact eh u
      rw [this]; exact hcut.grow u

theorem State.initialise_core (h : s.ArrayLaw) (hi : s.sched.activity = .idle) (d : Device)
    (hd : d.down = false) : s.LiveSince { s.initialise with device := d } := by
  have e : ∀ u, s.sureHeader u = s.array.header u := fun u => by unfold State.sureHeader; rw [hi]
  refine ⟨⟨⟨hd, h.data, h.headers, ArrayState.wf_scanHeaders h.headers, fun u => ?_, h.limit, fun o r ha => ?_⟩,
    fun o r ha => ?_⟩, fun u => ?_⟩
  · exact ArrayState.facts_scanHeaders _ _
  · cases ha
  · cases ha
  · rw [e]; exact ⟨le_refl _, id⟩

theorem State.startup_law (h : s.ArrayLaw) (hd : s.device = .starting) : s.LiveSince s.startup := by
  have hi := (h.quiet (by rw [hd]; rfl)).1
  have he : ∀ d c q, s.LiveSince (s.initialise.enterService d c q) := fun d c q => by
    unfold State.enterService
    refine State.LiveSince.offer ?_
    exact (State.initialise_core h hi .ready rfl).congr
      (by rw [State.kick_device_down]) (by simp) (by simp)
  unfold State.startup
  split
  · exact he _ _ _
  · exact he _ _ _
  · exact State.initialise_core h hi .recovery rfl

end

end Sys2Proof.Machine
end

