-- ==== Sys2Proof/Laws/Checks.lean ====
section
/-! SUPPORT. What the checks of a request give: the slot check, the common head, taking and answering a request, each in
the terms of Safety.lean. -/

set_option Elab.async false

namespace Sys2Proof.Machine

/-! ## Slots -/

theorem modify_eq_set {α : Type} (l : List α) (n : Nat) (f : α → α) (d : α) (h : n < l.length) :
    l.modify n f = l.set n (f (l.getD n d)) := by
  apply List.ext_getElem (by simp)
  intro i h1 h2
  simp only [List.getElem_modify, List.getElem_set]
  split
  · next e => subst e; simp [List.getD_eq_getElem?_getD, h]
  · rfl

theorem modify_of_le {α : Type} (l : List α) (n : Nat) (f : α → α) (h : l.length ≤ n) : l.modify n f = l := by
  apply List.ext_getElem (by simp)
  intro i h1 h2
  simp only [List.getElem_modify]
  split
  · omega
  · rfl

theorem State.slot_eq {s : State} {n : Nat} (h : n < s.slots.length) : s.slot n = s.slots[n] := by
  simp [State.slot, h]

theorem State.slot_of_le {s : State} {n : Nat} (h : s.slots.length ≤ n) : s.slot n = Slot.blank := by
  simp [State.slot, h]

theorem State.lt_of_body {s : State} {n : Nat} {b : SlotBody} (h : (s.slot n).body = some b) : n < s.slots.length := by
  by_contra hn
  rw [State.slot_of_le (Nat.le_of_not_lt hn)] at h
  cases h

theorem State.fillSlot_eq (s : State) (n : Nat) (b : SlotBody) (h : n < s.slots.length) :
    s.fillSlot n b = { s with slots := s.slots.set n ⟨(s.slot n).useCount, some b⟩ } := by
  unfold State.fillSlot; rw [modify_eq_set _ _ _ Slot.blank h]; rfl

theorem State.mapSlot_eq (s : State) (n : Nat) (f : SlotBody → SlotBody) {b : SlotBody}
    (h : (s.slot n).body = some b) :
    s.mapSlot n f = { s with slots := s.slots.set n ⟨(s.slot n).useCount, some (f b)⟩ } := by
  unfold State.mapSlot; rw [modify_eq_set _ _ _ Slot.blank (State.lt_of_body h)]
  show { s with slots := s.slots.set n ⟨(s.slot n).useCount, (s.slot n).body.map f⟩ } = _
  rw [h]; rfl

theorem State.endSlot_eq (s : State) (n : Nat) (st : SlotState) {b : SlotBody} (h : (s.slot n).body = some b) :
    s.endSlot n st = { s with slots := s.slots.set n (Slot.endedAs (s.slot n).useCount b st) } := by
  unfold State.endSlot; rw [modify_eq_set _ _ _ Slot.blank (State.lt_of_body h)]
  have : Slot.ended st (s.slot n) = Slot.endedAs (s.slot n).useCount b st := by
    cases hx : s.slot n with
    | mk uc body =>
      rw [hx] at h; cases h
      unfold Slot.ended Slot.endedAs Slot.freed
      cases hp : b.port <;> simp [hp]
  show { s with slots := s.slots.set n (Slot.ended st (s.slot n)) } = _
  rw [this]

/-- A slot just written, read back. -/
theorem State.slot_written {t : State} {l : List Slot} {n : Nat} {x : Slot} (h : n < l.length)
    (ht : t.slots = l.set n x) : t.slot n = x := by
  unfold State.slot; rw [ht]; simp [List.getD_eq_getElem?_getD, h]

/-- A slot just written, changed again. -/
theorem State.mapSlot_written {t : State} {l : List Slot} {n : Nat} {u : BitVec 4} {b : SlotBody} (h : n < l.length)
    (ht : t.slots = l.set n ⟨u, some b⟩) (f : SlotBody → SlotBody) :
    t.mapSlot n f = { t with slots := l.set n ⟨u, some (f b)⟩ } := by
  rw [State.mapSlot_eq t n f (b := b) (by rw [State.slot_written h ht]), State.slot_written h ht, ht, List.set_set]

/-- A slot just written, ended. -/
theorem State.endSlot_written {t : State} {l : List Slot} {n : Nat} {u : BitVec 4} {b : SlotBody} (h : n < l.length)
    (ht : t.slots = l.set n ⟨u, some b⟩) (st : SlotState) :
    t.endSlot n st = { t with slots := l.set n (Slot.endedAs u b st) } := by
  rw [State.endSlot_eq t n st (b := b) (by rw [State.slot_written h ht]), State.slot_written h ht, ht, List.set_set]

theorem State.freeSlot_eq (s : State) (n : Nat) (h : n < s.slots.length) :
    s.freeSlot n = { s with slots := s.slots.set n ⟨(s.slot n).useCount + 1, none⟩ } := by
  unfold State.freeSlot; rw [modify_eq_set _ _ _ Slot.blank h]; rfl

theorem findIdx?_eq_some_of {α : Type} {p : α → Bool} {l : List α} {n : Nat} (d : α) (h : n < l.length)
    (hp : p (l.getD n d) = true) (hl : ∀ m, m < n → p (l.getD m d) = false) : l.findIdx? p = some n := by
  rw [List.findIdx?_eq_some_iff_getElem]
  refine ⟨h, by simpa [List.getD_eq_getElem?_getD, h] using hp, fun j hj => ?_⟩
  have := hl j hj
  have hj' : j < l.length := hj.trans h
  simpa [List.getD_eq_getElem?_getD, hj'] using this

/-- The slot check passes and gives the slot it offers (R126). -/
theorem State.OffersSlot.check {s : State} {p : Port} {n : Nat} (h : s.OffersSlot p n) : s.slotCheck p = .ok n := by
  have hf : s.lowestFreeSlot = some n := findIdx?_eq_some_of Slot.blank h.inTable
    (by have := h.free; unfold State.slot at this; rw [this]; rfl)
    (fun m hm => by
      have := h.lowest m hm
      unfold State.slot at this
      cases hb : (s.slots.getD m Slot.blank).body with
      | none => exact absurd hb this
      | some b => rfl)
  unfold State.slotCheck
  rw [hf]
  simp only [if_neg (Nat.not_le.2 h.quota)]

theorem State.slotCheck_full {s : State} (p : Port) (h : ∀ n, n < s.slots.length → (s.slot n).body ≠ none) :
    s.slotCheck p = .error .slotsFull := by
  have : s.lowestFreeSlot = none := by
    unfold State.lowestFreeSlot
    rw [List.findIdx?_eq_none_iff]
    intro x hx
    obtain ⟨n, hn, rfl⟩ := List.getElem_of_mem hx
    have := h n hn
    rw [State.slot_eq hn] at this
    cases hb : s.slots[n].body with
    | none => exact absurd hb this
    | some b => rfl
  unfold State.slotCheck; rw [this]

theorem State.slotCheck_quota {s : State} (p : Port) (h : ∃ n, n < s.slots.length ∧ (s.slot n).body = none)
    (hq : Config.slotQuota ≤ s.slots.countP (Slot.ofPort p)) : s.slotCheck p = .error .quota := by
  obtain ⟨n, hn, hb⟩ := h
  unfold State.slotCheck
  cases hf : s.lowestFreeSlot with
  | none =>
    unfold State.lowestFreeSlot at hf
    rw [List.findIdx?_eq_none_iff] at hf
    have := hf s.slots[n] (List.getElem_mem hn)
    rw [State.slot_eq hn] at hb
    rw [hb] at this
    cases this
  | some m => simp only [if_pos hq]

theorem State.anySlot_iff {s : State} (f : SlotBody → Bool) :
    s.anySlot f = true ↔ ∃ n b, (s.slot n).body = some b ∧ f b = true := by
  unfold State.anySlot
  rw [List.any_eq_true]
  constructor
  · rintro ⟨x, hx, hf⟩
    obtain ⟨n, hn, rfl⟩ := List.getElem_of_mem hx
    rw [Option.any_eq_true] at hf
    obtain ⟨b, hb, hfb⟩ := hf
    exact ⟨n, b, by rw [State.slot_eq hn]; exact hb, hfb⟩
  · rintro ⟨n, b, hb, hf⟩
    have hn := State.lt_of_body hb
    rw [State.slot_eq hn] at hb
    exact ⟨s.slots[n], List.getElem_mem hn, by rw [hb]; exact hf⟩

theorem State.anySlot_false {s : State} (f : SlotBody → Bool) :
    s.anySlot f = false ↔ ∀ n b, (s.slot n).body = some b → f b = false := by
  rw [← Bool.not_eq_true, State.anySlot_iff]
  constructor
  · intro h n b hb
    cases hf : f b with
    | false => rfl
    | true => exact absurd ⟨n, b, hb, hf⟩ h
  · rintro h ⟨n, b, hb, hf⟩
    rw [h n b hb] at hf; cases hf

/-! ## Handles -/

theorem State.handle_eq {s : State} {p : Port} {h : Nat} {x : Handle} (e : s.handle p h = x) (hx : x ≠ .closed) :
    ∃ hn : h < (s.port p).handles.length, (s.port p).handles[h] = x := by
  unfold State.handle at e
  by_cases hn : h < (s.port p).handles.length
  · exact ⟨hn, by simpa [List.getD_eq_getElem?_getD, hn] using e⟩
  · rw [List.getD_eq_default _ _ (Nat.le_of_not_lt hn)] at e
    exact absurd e.symm hx

theorem State.anyOpen_iff {s : State} (f : Port → HandleInfo → Bool) :
    s.anyOpen f = true ↔ ∃ p h i, s.handle p h = .opened i ∧ f p i = true := by
  have key : ∀ p, (s.port p).handles.any (Handle.openWith (f p)) = true ↔
      ∃ h i, s.handle p h = .opened i ∧ f p i = true := by
    intro p
    rw [List.any_eq_true]
    constructor
    · rintro ⟨x, hx, hf⟩
      obtain ⟨n, hn, rfl⟩ := List.getElem_of_mem hx
      cases ho : (s.port p).handles[n] with
      | opened i =>
        rw [ho] at hf
        exact ⟨n, i, by unfold State.handle; simp [hn, ho], hf⟩
      | closed => rw [ho] at hf; cases hf
      | stale i => rw [ho] at hf; cases hf
    · rintro ⟨h, i, e, hf⟩
      obtain ⟨hn, ho⟩ := State.handle_eq e (by simp)
      exact ⟨_, List.getElem_mem hn, by rw [ho]; exact hf⟩
  unfold State.anyOpen
  rw [Bool.or_eq_true]
  have ka := key .a
  have kb := key .b
  simp only [State.port] at ka kb
  rw [ka, kb]
  constructor
  · rintro (⟨h, i, hx⟩ | ⟨h, i, hx⟩)
    · exact ⟨.a, h, i, hx⟩
    · exact ⟨.b, h, i, hx⟩
  · rintro ⟨p, h, i, hx⟩
    cases p
    · exact .inl ⟨h, i, hx⟩
    · exact .inr ⟨h, i, hx⟩

theorem State.anyOpen_false {s : State} (f : Port → HandleInfo → Bool) :
    s.anyOpen f = false ↔ ∀ p h i, s.handle p h = .opened i → f p i = false := by
  rw [← Bool.not_eq_true, State.anyOpen_iff]
  constructor
  · intro h p k i e
    cases hf : f p i with
    | false => rfl
    | true => exact absurd ⟨p, k, i, e, hf⟩ h
  · rintro h ⟨p, k, i, e, hf⟩
    rw [h p k i e] at hf; cases hf

/-! ## Records -/

theorem Directory.record_eq {d : Directory} {n : Nat} (h : n < d.records.length) : d.record n = d.records[n] := by
  simp [Directory.record, h]

theorem Directory.lt_of_body {d : Directory} {n : Nat} (h : (d.record n).body ≠ .free) : n < d.records.length := by
  by_contra hn
  unfold Directory.record at h
  rw [List.getD_eq_default _ _ (Nat.le_of_not_lt hn)] at h
  exact h rfl

theorem Directory.setBody_eq (d : Directory) (n : Nat) (b : RecordBody) (h : n < d.records.length) :
    d.setBody n b = { d with records := d.records.set n ⟨(d.record n).generation, b⟩ } := by
  unfold Directory.setBody; rw [modify_eq_set _ _ _ Record.blank h]; rfl

theorem Directory.mapRegion_eq {d : Directory} {n : Nat} {f : Region → Region} {r : Region}
    (h : (d.record n).body = .active r) : d.mapRegion n f = d.setBody n (.active (f r)) := by
  unfold Directory.mapRegion; rw [h]

/-- The record a name belongs to, where no other record holds it (R24, R25). -/
theorem Directory.findName_eq {d : Directory} {n : Nat} {x : List Byte} (h : (d.record n).body.name = some x)
    (hu : ∀ m, (d.record m).body.name = some x → m = n) : d.findName x = some n := by
  have hn : n < d.records.length := Directory.lt_of_body (by intro e; rw [e] at h; cases h)
  exact findIdx?_eq_some_of Record.blank hn (by
      show (RecordBody.name (d.record n).body == some x) = true
      rw [h]; simp)
    (fun m hm => by
      show (RecordBody.name (d.record m).body == some x) = false
      rw [beq_eq_false_iff_ne]
      intro e
      exact absurd (hu m e) (Nat.ne_of_lt hm))

theorem Directory.findName_none {d : Directory} {x : List Byte} (h : ∀ n, (d.record n).body.name ≠ some x) :
    d.findName x = none := by
  unfold Directory.findName
  rw [List.findIdx?_eq_none_iff]
  intro r hr
  obtain ⟨n, hn, rfl⟩ := List.getElem_of_mem hr
  have := h n
  rw [Directory.record_eq hn] at this
  simpa using this

theorem Directory.findName_isSome {d : Directory} {x : List Byte} (h : ∃ n, (d.record n).body.name = some x) :
    (d.findName x).isSome = true := by
  obtain ⟨n, hn⟩ := h
  have hl : n < d.records.length := Directory.lt_of_body (by intro e; rw [e] at hn; cases hn)
  rw [Directory.record_eq hl] at hn
  cases hf : d.findName x with
  | some _ => rfl
  | none =>
    unfold Directory.findName at hf
    rw [List.findIdx?_eq_none_iff] at hf
    have := hf _ (List.getElem_mem hl)
    simp [hn] at this

theorem Directory.lowestFree_eq {d : Directory} {n : Nat} (hn : n < d.records.length)
    (h : (d.record n).body = .free) (hl : ∀ m, m < n → (d.record m).body ≠ .free) : d.lowestFree = some n :=
  findIdx?_eq_some_of Record.blank hn (by
      show ((d.record n).body == RecordBody.free) = true
      rw [h]; rfl)
    (fun m hm => by
      show ((d.record m).body == RecordBody.free) = false
      rw [beq_eq_false_iff_ne]; exact hl m hm)

theorem Directory.lowestFree_none {d : Directory} (h : ∀ n, n < d.records.length → (d.record n).body ≠ .free) :
    d.lowestFree = none := by
  unfold Directory.lowestFree
  rw [List.findIdx?_eq_none_iff]
  intro r hr
  obtain ⟨n, hn, rfl⟩ := List.getElem_of_mem hr
  have := h n hn
  rw [Directory.record_eq hn] at this
  simpa using this

theorem Directory.lowestFree_some {d : Directory} (h : ∃ n, n < d.records.length ∧ (d.record n).body = .free) :
    ∃ n, d.lowestFree = some n := by
  obtain ⟨n, hn, hb⟩ := h
  rw [Directory.record_eq hn] at hb
  cases hf : d.lowestFree with
  | some m => exact ⟨m, rfl⟩
  | none =>
    unfold Directory.lowestFree at hf
    rw [List.findIdx?_eq_none_iff] at hf
    have := hf _ (List.getElem_mem hn)
    simp [hb] at this

/-! ## Runs of units -/

theorem runFits_iff {ok : Nat → Bool} {f n : Nat} :
    runFits ok f n = true ↔ f + n ≤ Config.unitCount ∧ ∀ u, f ≤ u → u < f + n → ok u = true := by
  unfold runFits
  simp only [Bool.and_eq_true, decide_eq_true_eq, List.all_eq_true, List.mem_range]
  constructor
  · rintro ⟨h1, h2⟩
    refine ⟨h1, fun u h3 h4 => ?_⟩
    have := h2 (u - f) (by omega)
    rwa [show f + (u - f) = u by omega] at this
  · rintro ⟨h1, h2⟩
    exact ⟨h1, fun i hi => h2 (f + i) (by omega) (by omega)⟩

theorem State.available_iff {s : State} {u : Nat} :
    s.available u = true ↔ s.dir.place u = .free ∧ (s.array.facts u).condition = .good := by
  simp [State.available]

theorem State.fits_iff {s : State} {f n : Nat} : runFits s.available f n = true ↔ s.Fits f n := by
  rw [runFits_iff]; unfold State.Fits; simp only [State.available_iff]

theorem State.hoped_iff {s : State} {u : Nat} : s.hoped u = true ↔
    (s.dir.place u = .free ∧ (s.array.facts u).condition = .good) ∨ ∃ i e, s.dir.place u = .scrub i e := by
  unfold State.hoped
  rw [Bool.or_eq_true, State.available_iff]
  cases h : s.dir.place u <;> simp

theorem State.fitsLater_iff {s : State} {f n : Nat} : runFits s.hoped f n = true ↔ s.FitsLater f n := by
  rw [runFits_iff]; unfold State.FitsLater; simp only [State.hoped_iff]

theorem lowestRun_eq {ok : Nat → Bool} {f n : Nat} (hn : 1 ≤ n) (h : runFits ok f n = true)
    (hl : ∀ g, g < f → runFits ok g n = false) : lowestRun ok n = some f := by
  have hf : f < Config.unitCount := by have := (runFits_iff.1 h).1; omega
  unfold lowestRun
  rw [List.find?_range_eq_some]
  exact ⟨h, List.mem_range.2 hf, fun j hj => by simp [hl j hj]⟩

theorem lowestRun_none {ok : Nat → Bool} {n : Nat} (h : ∀ f, runFits ok f n = false) : lowestRun ok n = none := by
  unfold lowestRun
  rw [List.find?_eq_none]
  intro f _
  simp [h f]

theorem lowestRun_some {ok : Nat → Bool} {f n : Nat} (hn : 1 ≤ n) (h : runFits ok f n = true) :
    ∃ g, lowestRun ok n = some g := by
  have hf : f < Config.unitCount := by have := (runFits_iff.1 h).1; omega
  have : (lowestRun ok n).isSome = true := by
    unfold lowestRun
    rw [List.find?_isSome]
    exact ⟨f, List.mem_range.2 hf, h⟩
  exact Option.isSome_iff_exists.1 this

/-! ## Taking and answering -/

theorem isMutating_iff (c : Cmd) : isMutating c = true ↔ c ∈ mutatingCommands := by cases c <;> decide

theorem isControl_iff (c : Cmd) : isControl c = true ↔ c ∈ controlCommands := by cases c <;> decide

/-- A replay cache takes entries in every device state out of reset (R150). -/
theorem Device.caches_iff (d : Device) : d.caches = true ↔ d ≠ .inReset := by cases d <;> simp [Device.caches]

/-- A command decided in its own select period is answered (R146, R150). -/
theorem State.finish_eq {s : State} {p : Port} (cmd : Cmd) (tag : Byte) (r : Reply)
    (h : (s.port p).undecided = none) :
    s.finish p cmd tag r = s.answered p cmd tag r.status r.result r.incompleteData := by
  unfold State.finish State.answered State.kept PortState.keep PortState.deliver State.response
  simp only [isMutating_iff, Device.caches_iff, h, Option.isSome_none, Bool.false_eq_true, if_false]

theorem State.answerFrame_eq (s : State) (p : Port) (tag : Byte) (st : Status) :
    s.answerFrame p tag st = s.delivered p ⟨st, tag, false, s.attention p, false, []⟩ := by
  unfold State.answerFrame State.delivered PortState.deliver State.response Reply.refusal
  cases h : (s.port p).undecided <;> simp [h]

theorem State.serve_eq (s : State) (w : ReadWait) :
    s.serve w = s.delivered w.port ⟨.ok, w.tag, false, s.attention w.port,
      s.array.touchesIncomplete w.address w.length, s.array.bytes w.address w.length⟩ := by
  unfold State.serve State.finish State.delivered State.kept PortState.keep PortState.deliver State.response
    State.readReply
  simp only [isMutating]
  cases (s.port w.port).undecided <;> simp

theorem State.serveAll_eq (s : State) : s.serveAll = s.readsServed := by
  unfold State.serveAll State.readsServed
  have : State.serve = fun t w => t.delivered w.port ⟨.ok, w.tag, false, t.attention w.port,
      t.array.touchesIncomplete w.address w.length, t.array.bytes w.address w.length⟩ := by
    funext t w; exact State.serve_eq t w
  rw [this]

theorem State.Listens.arrive {s : State} {p : Port} (h : s.Listens p) (req : Instr) (take : State → State) :
    s.arrive req p take = take s := by
  unfold State.arrive; rw [h.framing]; simp [h.alive, h.decided]

theorem State.Receives.replay {s : State} {p : Port} {cmd : Cmd} {tag : Byte} (h : s.Receives p cmd tag) :
    s.replay p cmd tag = none := by
  unfold State.replay
  cases hc : (s.port p).cache with
  | none => rfl
  | some e =>
    have := h.fresh e hc
    rw [← isMutating_iff] at this
    simp only
    rw [if_neg]
    rintro ⟨h1, h2, h3, h4⟩
    rcases this with t | t | t | t
    · exact t h1
    · exact h2 t
    · exact t h3
    · exact t h4

section
variable {α : Type} {req : Instr} {p : Port} {cmd : Cmd} {tag : Byte} {args : Option α} {heldBack : α → Bool}
  {block : α → State → State × Option Reply} {s t : State} {a : α} {r : Reply}

theorem State.take_badParam (h : s.Receives p cmd tag) (ha : args = none) :
    s.take req p cmd tag args heldBack block = s.answered p cmd tag .badParam [] := by
  unfold State.take; rw [h.replay, ha]
  exact State.finish_eq _ _ _ h.decided

theorem State.take_device (h : s.Receives p cmd tag) (ha : args = some a) {st : Status}
    (hd : s.device.answer cmd = some st) :
    s.take req p cmd tag args heldBack block = s.answered p cmd tag st [] := by
  unfold State.take; rw [h.replay, ha]; simp only [hd]
  exact State.finish_eq _ _ _ h.decided

theorem State.take_inhibited (h : s.Receives p cmd tag) (ha : args = some a) (hd : s.device.answer cmd = none)
    (hb : heldBack a = true) (hi : (s.port p).inhibit = true) :
    s.take req p cmd tag args heldBack block = s.answered p cmd tag .inhibited [] := by
  unfold State.take; rw [h.replay, ha]; simp only [hd, hb, hi, Bool.and_self, if_true]
  exact State.finish_eq _ _ _ h.decided

theorem State.take_decided (h : s.Receives p cmd tag) (ha : args = some a) (hd : s.device.answer cmd = none)
    (hb : (heldBack a && (s.port p).inhibit) = false) (hk : block a s = (t, some r))
    (hu : (t.port p).undecided = none) :
    s.take req p cmd tag args heldBack block = t.answered p cmd tag r.status r.result r.incompleteData := by
  unfold State.take; rw [h.replay, ha]; simp only [hd, hb, hk, Bool.false_eq_true, if_false]
  exact State.finish_eq _ _ _ hu

theorem State.take_undecided (h : s.Receives p cmd tag) (ha : args = some a) (hd : s.device.answer cmd = none)
    (hb : (heldBack a && (s.port p).inhibit) = false) (hk : block a s = (t, none)) :
    s.take req p cmd tag args heldBack block = t.setPort p { t.port p with framing := .executing req } := by
  unfold State.take; rw [h.replay, ha]; simp only [hd, hb, hk, Bool.false_eq_true, if_false]

end

end Sys2Proof.Machine
end

