-- ==== Sys2Proof/Laws/Operands.lean ====
section
/-! SUPPORT. The operand forms in the ranges of `Instr.InRange`: what each gives where its values are in range, and that
it gives none where one is not (R148 step 5). -/

set_option Elab.async false

namespace Sys2Proof.Machine

theorem nameOperand_eq {name : List Byte} (h : ValidName name) : nameOperand name = some name := by
  unfold nameOperand
  rw [if_pos]
  unfold validName
  simp only [Bool.and_eq_true, decide_eq_true_eq, List.all_eq_true, nameByte]
  exact ⟨⟨h.1, h.2.1⟩, h.2.2⟩

theorem nameOperand_none {name : List Byte} (h : ¬ ValidName name) : nameOperand name = none := by
  unfold nameOperand
  rw [if_neg]
  intro hv
  apply h
  unfold validName at hv
  simp only [Bool.and_eq_true, decide_eq_true_eq, List.all_eq_true, nameByte] at hv
  exact ⟨hv.1.1, hv.1.2, hv.2⟩

theorem regionOperand_eq {b : Byte} (h : RegionNumber b) : regionOperand b = some b.toNat := by
  unfold regionOperand; rw [if_pos]; exact Nat.lt_succ_of_le h

theorem regionOperand_none {b : Byte} (h : ¬ RegionNumber b) : regionOperand b = none := by
  unfold regionOperand; rw [if_neg]; intro hv; exact h (Nat.le_of_lt_succ hv)

theorem refOperand_eq {b g : Byte} (h : RegionNumber b) : refOperand b g = some ⟨b.toNat, g⟩ := by
  unfold refOperand; rw [regionOperand_eq h]; rfl

theorem refOperand_none {b g : Byte} (h : ¬ RegionNumber b) : refOperand b g = none := by
  unfold refOperand; rw [regionOperand_none h]; rfl

theorem unitOperand_eq {u : Half} (h : u.toNat ≤ 1023) : unitOperand u = some u.toNat := by
  unfold unitOperand; rw [if_pos]; exact Nat.lt_succ_of_le h

theorem unitOperand_none {u : Half} (h : ¬ u.toNat ≤ 1023) : unitOperand u = none := by
  unfold unitOperand; rw [if_neg]; intro hv; exact h (Nat.le_of_lt_succ hv)

theorem handleOperand_eq {h : Byte} (e : h.toNat ≤ 7) : handleOperand h = some h.toNat := by
  unfold handleOperand; rw [if_pos]; exact Nat.lt_succ_of_le e

theorem handleOperand_none {h : Byte} (e : ¬ h.toNat ≤ 7) : handleOperand h = none := by
  unfold handleOperand; rw [if_neg]; intro hv; exact e (Nat.le_of_lt_succ hv)

theorem countOperand_eq {k : Nat} {n : Half} (h : 1 ≤ n.toNat) (h' : n.toNat ≤ k) : countOperand k n = some n.toNat := by
  unfold countOperand; rw [if_pos ⟨h, h'⟩]

theorem countOperand_none {k : Nat} {n : Half} (h : ¬ (1 ≤ n.toNat ∧ n.toNat ≤ k)) : countOperand k n = none := by
  unfold countOperand; rw [if_neg h]

theorem ticketOperand_eq {n u : Byte} (h : n.toNat ≤ 11) (h' : u.toNat ≤ 15) :
    ticketOperand n u = some ⟨n.toNat, u.setWidth 4⟩ := by
  unfold ticketOperand; rw [if_pos ⟨Nat.lt_succ_of_le h, Nat.lt_succ_of_le h'⟩]

theorem ticketOperand_none {n u : Byte} (h : ¬ (n.toNat ≤ 11 ∧ u.toNat ≤ 15)) : ticketOperand n u = none := by
  unfold ticketOperand; rw [if_neg]; rintro ⟨a, b⟩; exact h ⟨Nat.le_of_lt_succ a, Nat.le_of_lt_succ b⟩

theorem Rights.code_ofCode {v : Rights} {b : Byte} (h : v.code = b) : Rights.ofCode b = some v := by
  subst h; cases v <;> rfl

theorem Rights.ofCode_none {b : Byte} (h : ¬ b.toNat ≤ 2) : Rights.ofCode b = Option.none := by
  unfold Rights.ofCode
  rw [if_neg, if_neg, if_neg] <;> (rintro rfl; exact h (by decide))

theorem Rights.ofCode_some {b : Byte} (h : b.toNat ≤ 2) : ∃ v, Rights.ofCode b = some v := by
  unfold Rights.ofCode
  split
  · exact ⟨_, rfl⟩
  · split
    · exact ⟨_, rfl⟩
    · split
      · exact ⟨_, rfl⟩
      · next a b c => exfalso; simp only [← BitVec.toNat_inj] at a b c; simp at a b c; omega

theorem Rights.code_of_ofCode {b : Byte} {v : Rights} (h : Rights.ofCode b = Option.some v) : v.code = b := by
  unfold Rights.ofCode at h
  split at h
  · next e => cases h; exact e.symm
  · split at h
    · next e => cases h; exact e.symm
    · split at h
      · next e => cases h; exact e.symm
      · cases h

theorem Mode.code_ofCode {m : Mode} {b : Byte} (h : m.code = b) : Mode.ofCode b = some m := by
  subst h; cases m <;> rfl

theorem Mode.ofCode_none {b : Byte} (h : ¬ b.toNat ≤ 2) : Mode.ofCode b = none := by
  unfold Mode.ofCode
  rw [if_neg, if_neg, if_neg] <;> (rintro rfl; exact h (by decide))

theorem Mode.ofCode_some {b : Byte} (h : b.toNat ≤ 2) : ∃ m, Mode.ofCode b = some m ∧ (b ≠ 0 → m.writes = true) := by
  unfold Mode.ofCode
  split
  · next e => exact ⟨_, rfl, fun h => absurd e h⟩
  · split
    · exact ⟨_, rfl, fun _ => rfl⟩
    · split
      · exact ⟨_, rfl, fun _ => rfl⟩
      · next a b c => exfalso; simp only [← BitVec.toNat_inj] at a b c; simp at a b c; omega

theorem overrideOf_some {b : Byte} (h : b.toNat ≤ 1) :
    (b = 0 ∧ overrideOf b = some false) ∨ (b = 1 ∧ overrideOf b = some true) := by
  by_cases h0 : b = 0
  · left; subst h0; exact ⟨rfl, rfl⟩
  · right
    have : b = 1 := by
      simp only [← BitVec.toNat_inj] at h0 ⊢; simp at h0 ⊢; omega
    subst this; exact ⟨rfl, rfl⟩

theorem overrideOf_none {b : Byte} (h : ¬ b.toNat ≤ 1) : overrideOf b = none := by
  unfold overrideOf
  rw [if_neg, if_neg] <;> (rintro rfl; exact h (by decide))

theorem placementOperand_lowest (first : Half) (n : Nat) : placementOperand 0 first n = some .lowest := rfl

theorem placementOperand_at {first : Half} {n : Nat} (hn : 1 ≤ n) (h : first.toNat + n ≤ 1024) :
    placementOperand 1 first n = some (.at first.toNat) := by
  unfold placementOperand
  rw [if_neg (by decide), if_pos rfl, if_pos]
  constructor
  · show first.toNat < 1024; omega
  · exact h

theorem placementOperand_none {b : Byte} {first : Half} {n : Nat} (h : ¬ (b = 0 ∨ b = 1 ∧ first.toNat + n ≤ 1024)) :
    placementOperand b first n = none := by
  unfold placementOperand
  rw [if_neg (fun e => h (.inl e))]
  split
  · next e => rw [if_neg]; rintro ⟨_, hv⟩; exact h (.inr ⟨e, hv⟩)
  · rfl

/-- The operands of an Instr that is out of range are none, by its own form. -/
theorem createOperands_none {rights placement : Byte} {first count : Half} {name : List Byte} {p : Port} {tag : Byte}
    (h : ¬ Instr.InRange (.create p tag rights placement first count name)) :
    createOperands rights placement first count name = none := by
  unfold createOperands
  by_cases h1 : ValidName name
  · rw [nameOperand_eq h1]
    by_cases h2 : rights.toNat ≤ 2
    · obtain ⟨v, hv⟩ := Rights.ofCode_some h2
      rw [hv]
      by_cases h3 : 1 ≤ count.toNat ∧ count.toNat ≤ 1024
      · rw [countOperand_eq h3.1 h3.2]
        have : placementOperand placement first count.toNat = none :=
          placementOperand_none fun hp => h ⟨h1, h2, h3.1, h3.2, hp⟩
        simp [this]
      · rw [countOperand_none h3]; rfl
    · rw [Rights.ofCode_none h2]; rfl
  · rw [nameOperand_none h1]; rfl

theorem createOperands_eq {rights placement : Byte} {first count : Half} {name : List Byte} {p : Port} {tag : Byte}
    {v : Rights} (h : Instr.InRange (.create p tag rights placement first count name)) (hv : v.code = rights) :
    (placement = 0 ∧ createOperands rights placement first count name = some ⟨name, v, .lowest, count.toNat⟩) ∨
    (placement = 1 ∧ createOperands rights placement first count name =
      some ⟨name, v, .at first.toNat, count.toNat⟩) := by
  obtain ⟨h1, h2, h3, h4, h5⟩ := h
  unfold createOperands
  rw [nameOperand_eq h1, Rights.code_ofCode hv, countOperand_eq h3 h4]
  rcases h5 with rfl | ⟨rfl, h5⟩
  · exact .inl ⟨rfl, rfl⟩
  · refine .inr ⟨rfl, ?_⟩
    show (placementOperand 1 first count.toNat).bind _ = _
    rw [placementOperand_at h3 h5]; rfl

theorem growOperands_eq {r g : Byte} {n : Half} (h : RegionNumber r) (h1 : 1 ≤ n.toNat) (h2 : n.toNat ≤ 1023) :
    growOperands r g n = some (⟨r.toNat, g⟩, n.toNat) := by
  unfold growOperands; rw [refOperand_eq h, countOperand_eq h1 h2]; rfl

theorem growOperands_none {r g : Byte} {n : Half} (h : ¬ (RegionNumber r ∧ 1 ≤ n.toNat ∧ n.toNat ≤ 1023)) :
    growOperands r g n = none := by
  unfold growOperands
  by_cases h1 : RegionNumber r
  · rw [refOperand_eq h1, countOperand_none fun hn => h ⟨h1, hn⟩]; rfl
  · rw [refOperand_none h1]; rfl

theorem shrinkOperands_eq {r g o : Byte} {n : Half} {v : Bool} (h : RegionNumber r) (h1 : 1 ≤ n.toNat)
    (h2 : n.toNat ≤ 1023) (ho : overrideOf o = some v) : shrinkOperands r g n o = some (⟨r.toNat, g⟩, n.toNat, v) := by
  unfold shrinkOperands; rw [refOperand_eq h, countOperand_eq h1 h2, ho]; rfl

theorem shrinkOperands_none {r g o : Byte} {n : Half}
    (h : ¬ (RegionNumber r ∧ 1 ≤ n.toNat ∧ n.toNat ≤ 1023 ∧ o.toNat ≤ 1)) : shrinkOperands r g n o = none := by
  unfold shrinkOperands
  by_cases h1 : RegionNumber r
  · rw [refOperand_eq h1]
    by_cases h2 : 1 ≤ n.toNat ∧ n.toNat ≤ 1023
    · rw [countOperand_eq h2.1 h2.2, overrideOf_none fun ho => h ⟨h1, h2.1, h2.2, ho⟩]; rfl
    · rw [countOperand_none h2]; rfl
  · rw [refOperand_none h1]; rfl

theorem overrideOperands_eq {r g o : Byte} {v : Bool} (h : RegionNumber r) (ho : overrideOf o = some v) :
    overrideOperands r g o = some (⟨r.toNat, g⟩, v) := by
  unfold overrideOperands; rw [refOperand_eq h, ho]; rfl

theorem overrideOperands_none {r g o : Byte} (h : ¬ (RegionNumber r ∧ o.toNat ≤ 1)) :
    overrideOperands r g o = none := by
  unfold overrideOperands
  by_cases h1 : RegionNumber r
  · rw [refOperand_eq h1, overrideOf_none fun ho => h ⟨h1, ho⟩]; rfl
  · rw [refOperand_none h1]; rfl

theorem grantOperands_eq {r g c o : Byte} {v : Rights} {w : Bool} (h : RegionNumber r) (hv : v.code = c)
    (ho : overrideOf o = some w) : grantOperands r g c o = some (⟨r.toNat, g⟩, v, w) := by
  unfold grantOperands; rw [refOperand_eq h, Rights.code_ofCode hv, ho]; rfl

theorem grantOperands_none {r g c o : Byte} (h : ¬ (RegionNumber r ∧ c.toNat ≤ 2 ∧ o.toNat ≤ 1)) :
    grantOperands r g c o = none := by
  unfold grantOperands
  by_cases h1 : RegionNumber r
  · rw [refOperand_eq h1]
    by_cases h2 : c.toNat ≤ 2
    · obtain ⟨v, hv⟩ := Rights.ofCode_some h2
      rw [hv, overrideOf_none fun ho => h ⟨h1, h2, ho⟩]; rfl
    · rw [Rights.ofCode_none h2]; rfl
  · rw [refOperand_none h1]; rfl

theorem selectorOperand_name {name : List Byte} (h : ValidName name) :
    selectorOperand (.byName name) = some (.name name) := by
  simp [selectorOperand, nameOperand_eq h]

theorem selectorOperand_reference {r g : Byte} (h : RegionNumber r) :
    selectorOperand (.byReference r g) = some (.reference ⟨r.toNat, g⟩) := by
  simp [selectorOperand, refOperand_eq h]

theorem openOperands_eq {m : Mode} {mode : Byte} {sel : Selector} {t : Target} (hm : m.code = mode)
    (hs : selectorOperand sel = some t) : openOperands mode sel = some (m, t) := by
  unfold openOperands; rw [Mode.code_ofCode hm, hs]; rfl

theorem openOperands_none {mode : Byte} {sel : Selector} {p : Port} {tag : Byte}
    (h : ¬ Instr.InRange (.openHandle p tag mode sel)) : openOperands mode sel = none := by
  unfold openOperands
  by_cases h1 : mode.toNat ≤ 2
  · obtain ⟨m, hm, _⟩ := Mode.ofCode_some h1
    rw [hm]
    have : selectorOperand sel = none := by
      cases sel with
      | byName name => simp [selectorOperand, nameOperand_none fun hv => h ⟨h1, hv⟩]
      | byReference r g => simp [selectorOperand, refOperand_none fun hv => h ⟨h1, hv⟩]
      | other _ _ => rfl
    rw [this]; rfl
  · rw [Mode.ofCode_none h1]; rfl

theorem openOperands_some {mode : Byte} {sel : Selector} {p : Port} {tag : Byte}
    (h : Instr.InRange (.openHandle p tag mode sel)) :
    ∃ m t, openOperands mode sel = some (m, t) ∧ (mode ≠ 0 → m.writes = true) := by
  unfold openOperands
  cases sel with
  | byName name =>
    obtain ⟨m, hm, hw⟩ := Mode.ofCode_some h.1
    rw [hm, selectorOperand_name h.2]; exact ⟨m, _, rfl, hw⟩
  | byReference r g =>
    obtain ⟨m, hm, hw⟩ := Mode.ofCode_some h.1
    rw [hm, selectorOperand_reference h.2]; exact ⟨m, _, rfl, hw⟩
  | other _ _ => exact h.elim

theorem readOperands_eq {h : Byte} {o : Word} {n : Half} (h1 : h.toNat ≤ 7) (h2 : 1 ≤ n.toNat) (h3 : n.toNat ≤ 4096) :
    readOperands h o n = some ⟨h.toNat, o.toNat, n.toNat⟩ := by
  unfold readOperands; rw [handleOperand_eq h1, countOperand_eq h2 h3]; rfl

theorem readOperands_none {h : Byte} {o : Word} {n : Half}
    (e : ¬ (h.toNat ≤ 7 ∧ 1 ≤ n.toNat ∧ n.toNat ≤ 4096)) : readOperands h o n = none := by
  unfold readOperands
  by_cases h1 : h.toNat ≤ 7
  · rw [handleOperand_eq h1, countOperand_none fun hn => e ⟨h1, hn⟩]; rfl
  · rw [handleOperand_none h1]; rfl

theorem programOperands_eq {h : Byte} {o : Word} {d : List Byte} (h1 : h.toNat ≤ 7) (h2 : 1 ≤ d.length)
    (h3 : d.length ≤ 512) : programOperands h o d = some ⟨h.toNat, o.toNat, d⟩ := by
  unfold programOperands; rw [handleOperand_eq h1]
  show (if 1 ≤ d.length ∧ d.length ≤ 512 then _ else _) = _
  rw [if_pos ⟨h2, h3⟩]

theorem programOperands_none {h : Byte} {o : Word} {d : List Byte}
    (e : ¬ (h.toNat ≤ 7 ∧ 1 ≤ d.length ∧ d.length ≤ 512)) : programOperands h o d = none := by
  unfold programOperands
  by_cases h1 : h.toNat ≤ 7
  · rw [handleOperand_eq h1]
    show (if 1 ≤ d.length ∧ d.length ≤ 512 then _ else _) = _
    rw [if_neg fun hn => e ⟨h1, hn⟩]
  · rw [handleOperand_none h1]; rfl

theorem eraseOperands_eq {h : Byte} {u n : Half} (h1 : h.toNat ≤ 7) (h2 : u.toNat ≤ 1023) (h3 : 1 ≤ n.toNat)
    (h4 : n.toNat ≤ 1024) : eraseOperands h u n = some ⟨h.toNat, u.toNat, n.toNat⟩ := by
  unfold eraseOperands; rw [handleOperand_eq h1, unitOperand_eq h2, countOperand_eq h3 h4]; rfl

theorem eraseOperands_none {h : Byte} {u n : Half}
    (e : ¬ (h.toNat ≤ 7 ∧ u.toNat ≤ 1023 ∧ 1 ≤ n.toNat ∧ n.toNat ≤ 1024)) : eraseOperands h u n = none := by
  unfold eraseOperands
  by_cases h1 : h.toNat ≤ 7
  · rw [handleOperand_eq h1]
    by_cases h2 : u.toNat ≤ 1023
    · rw [unitOperand_eq h2, countOperand_none fun hn => e ⟨h1, h2, hn⟩]; rfl
    · rw [unitOperand_none h2]; rfl
  · rw [handleOperand_none h1]; rfl

end Sys2Proof.Machine
end

