-- ==== Sys2Proof/Laws/Control.lean ====
section
/-! SUPPORT. What the shared parts of the control commands and of queued work come to: an accepted owner-only command, its
refusals, WAIT_DIR, the queue, and the offers to scrub. -/

set_option Elab.async false

namespace Sys2Proof.Machine

theorem Directory.resolve_active {d : Directory} {r g : Byte} {a : Region} (h : d.record r.toNat = ⟨g, .active a⟩) :
    d.resolve ⟨r.toNat, g⟩ = some (.active a) := by
  unfold Directory.resolve; simp [h]

theorem Directory.lt_of_active {d : Directory} {n : Nat} {g : Byte} {a : Region} (h : d.record n = ⟨g, .active a⟩) :
    n < d.records.length :=
  Directory.lt_of_body (by rw [h]; simp)

theorem State.waitDirectory_eq {t : State} {p : Port} {w : Work} {ref : RegionRef} {n : Nat} (h : n < t.slots.length) :
    t.waitDirectory p w ref n = t.awaitsDirectory p w ref n := by
  unfold State.waitDirectory State.awaitsDirectory; rw [State.fillSlot_eq _ _ _ h]; rfl

theorem State.enqueue_eq {t : State} {p : Port} {w : Work} {x : Option Nat} {ref : RegionRef} {n : Nat}
    (h : n < t.slots.length) : t.enqueue n p w x ref = t.joinsQueue p w x ref n := by
  unfold State.enqueue State.joinsQueue; rw [State.fillSlot_eq _ _ _ h]; rfl

@[simp] theorem State.awaitsDirectory_port (s : State) (p : Port) (w : Work) (r : RegionRef) (n : Nat) (q : Port) :
    (s.awaitsDirectory p w r n).port q = s.port q := by
  unfold State.awaitsDirectory; rw [State.markDirty_port]; rfl

/-- An accepted owner-only command, from its frame to its answer (R51). -/
theorem State.take_owner {α : Type} {req : Instr} {p : Port} {cmd : Cmd} {tag : Byte} {args : Option α} {hb : α → Bool}
    {s : State} {block : α → State → State × Option Reply} {x : α} {r g : Byte} {a : Region}
    {checks : Region → Option Status} {accept : Region → Nat → State → State} {slot : Nat}
    (h : s.Receives p cmd tag) (hd : s.device.answer cmd = none) (hin : (s.port p).inhibit = false)
    (ha : args = some x) (hk : block x s = State.ownerCommand p ⟨r.toNat, g⟩ checks accept s)
    (hrec : s.dir.record r.toNat = ⟨g, .active a⟩) (ho : a.ident.owner = p) (hc : checks a = none)
    (hs : s.OffersSlot p slot) (hu : ((accept a slot s).port p).undecided = none) :
    s.take req p cmd tag args hb block = (accept a slot s).answered p cmd tag .ok (s.ticketBytes slot) := by
  rw [State.take_decided (t := accept a slot s) (r := .ok (s.ticket slot)) h ha hd (by simp [hin]) ?_ hu]
  · rfl
  · rw [hk]
    simp only [State.ownerCommand, State.ownerHead, Directory.resolve_active hrec, ho, if_true, hc, hs.check]

theorem State.serve_decided (s : State) (w : ReadWait) {p : Port} (h : (s.port p).undecided = none) :
    ((s.serve w).port p).undecided = none := by
  unfold State.serve State.finish
  by_cases e : p = w.port
  · subst e; simp
  · rw [State.setPort_port_of_ne _ e]; exact h

/-- Serving the waiting READs leaves no command undecided that was decided (R144). -/
theorem State.serveAll_decided {s : State} {p : Port} (h : (s.port p).undecided = none) :
    (s.serveAll.port p).undecided = none := by
  have : ∀ (l : List ReadWait) (t : State), (t.port p).undecided = none →
      ((l.foldl State.serve t).port p).undecided = none := by
    intro l
    induction l with
    | nil => intro t ht; exact ht
    | cons w rest ih => intro t ht; exact ih _ (State.serve_decided t w ht)
  have := this s.sched.waiters s h
  cases p <;> exact this

theorem State.offer_decided {s : State} {p : Port} (h : (s.port p).undecided = none) :
    (s.offer.port p).undecided = none := by
  unfold State.offer
  split
  · rw [State.offerQueue_port]; exact State.serveAll_decided h
  · exact h

/-! ## Scrub -/

theorem sum_eraseIdx {α : Type} (g : α → Nat) : ∀ (l : List α) (i : Nat) (h : i < l.length),
    ((l.eraseIdx i).map g).sum + g l[i] = (l.map g).sum
  | a :: l, 0, _ => by simp [Nat.add_comm]
  | a :: l, i + 1, h => by
    have := sum_eraseIdx g l i (by simpa using h)
    simp only [List.eraseIdx_cons_succ, List.map_cons, List.sum_cons, List.getElem_cons_succ]; omega

theorem sum_modify {α : Type} (g : α → Nat) (f : α → α) : ∀ (l : List α) (i : Nat) (h : i < l.length),
    ((l.modify i f).map g).sum + g l[i] = (l.map g).sum + g (f l[i])
  | a :: l, 0, _ => by simp; omega
  | a :: l, i + 1, h => by
    have := sum_modify g f l i (by simpa using h)
    simp only [List.modify_succ_cons, List.map_cons, List.sum_cons, List.getElem_cons_succ]; omega

/-- The units and extents an offer to scrub may still meet. -/
def Directory.scrubLeft (d : Directory) : Nat := (d.scrub.map fun e => e.extent.count - e.progress + 1).sum

theorem Directory.eligible_lt {d : Directory} {i : Nat} (h : d.eligible = some i) : i < d.scrub.length :=
  (List.findIdx?_eq_some_iff_getElem.1 h).1

theorem State.scrubLeft_removeComplete (s : State) (i : Nat) :
    (s.removeComplete i).dir.scrubLeft ≤ s.dir.scrubLeft := by
  unfold State.removeComplete
  split
  · rw [State.markDirty_dir]
    unfold Directory.scrubLeft
    simp only
    by_cases h : i < s.dir.scrub.length
    · have := sum_eraseIdx (fun e : ScrubExtent => e.extent.count - e.progress + 1) s.dir.scrub i h; omega
    · rw [List.eraseIdx_of_length_le (by omega)]
  · exact le_refl _

theorem State.scrubLeft_complete {s : State} {i : Nat} (h : i < s.dir.scrub.length)
    (hc : (s.dir.scrubAt i).complete = true) : (s.removeComplete i).dir.scrubLeft < s.dir.scrubLeft := by
  unfold State.removeComplete
  rw [if_pos hc, State.markDirty_dir]
  unfold Directory.scrubLeft
  have := sum_eraseIdx (fun e : ScrubExtent => e.extent.count - e.progress + 1) s.dir.scrub i h
  simp only; omega

theorem State.scrubLeft_scrubbed {s : State} {i : Nat} (h : i < s.dir.scrub.length)
    (hc : (s.dir.scrubAt i).complete = false) (u : Nat) (w : Bool) :
    (s.scrubbed i u w).dir.scrubLeft < s.dir.scrubLeft := by
  have hp : s.dir.scrub[i].progress < s.dir.scrub[i].extent.count := by
    unfold Directory.scrubAt ScrubExtent.complete at hc
    rw [List.getD_eq_getElem?_getD, List.getElem?_eq_getElem h] at hc
    simpa using hc
  have key : (s.dir.advance i).scrubLeft < s.dir.scrubLeft := by
    unfold Directory.scrubLeft Directory.advance
    have := sum_modify (fun e : ScrubExtent => e.extent.count - e.progress + 1)
      (fun e => { e with progress := e.progress + 1 }) s.dir.scrub i h
    simp only at this ⊢; omega
  have e : (s.scrubbed i u w).dir.scrub = (s.dir.advance i).scrub := by
    unfold State.scrubbed; cases w
    · rfl
    · simp
  unfold Directory.scrubLeft at key ⊢; rw [e]; exact key

/-- An offer to scrub with fuel enough does not depend on its fuel. -/
theorem State.offerScrub_fuel : ∀ (j k : Nat) (s : State), s.dir.scrubLeft < j → s.dir.scrubLeft < k →
    State.offerScrub j s = State.offerScrub k s := by
  intro j
  induction j with
  | zero => intro k s h; omega
  | succ j ih =>
    intro k s h hk
    obtain ⟨k, rfl⟩ : ∃ m, k = m + 1 := ⟨k - 1, by omega⟩
    simp only [State.offerScrub]
    cases he : s.dir.eligible with
    | none => rfl
    | some i =>
      have hi := Directory.eligible_lt he
      simp only
      cases hc : (s.dir.scrubAt i).complete with
      | true =>
        have := State.scrubLeft_complete hi hc
        simp only [if_true]; exact ih _ _ (by omega) (by omega)
      | false =>
        have h1 := State.scrubLeft_scrubbed hi hc (s.dir.scrubAt i).next
        have h2 := fun w => State.scrubLeft_removeComplete (s.scrubbed i (s.dir.scrubAt i).next w) i
        simp only [Bool.false_eq_true, if_false]
        split
        · have := h1 false; have := h2 false; exact ih _ _ (by omega) (by omega)
        · split
          · have := h1 true; have := h2 true; exact ih _ _ (by omega) (by omega)
          · rfl

theorem State.scrubLeft_lt_fuel (s : State) : s.dir.scrubLeft < s.scrubFuel := by
  unfold Directory.scrubLeft State.scrubFuel
  have : ∀ l : List ScrubExtent, (l.map fun e => e.extent.count - e.progress + 1).sum ≤
      (l.map fun e => e.extent.count + 1).sum := by
    intro l; induction l with
    | nil => simp
    | cons a l ih => simp only [List.map_cons, List.sum_cons]; omega
  have := this s.dir.scrub; omega

/-- With no READ and no slot waiting, a free array in service offers itself to scrub (R136 step 4). -/
theorem State.offer_eq_scrub {s : State} (hi : s.sched.activity = .idle) (hl : s.loaded = true)
    (hw : s.sched.waiters = []) (hq : s.sched.queue = []) {k : Nat} (hk : s.dir.scrubLeft < k) :
    s.offer = State.offerScrub k s := by
  have hs : s.serveAll = s := by
    unfold State.serveAll; rw [hw]; simp only [List.foldl_nil]; rw [← hw]
  unfold State.offer
  rw [if_pos ⟨hi, hl⟩, hs, hq]
  exact State.offerScrub_fuel _ _ _ s.scrubLeft_lt_fuel hk

end Sys2Proof.Machine
end

