-- ==== Sys2Proof/Tests/Slice0.lean ====
section
/-! SUPPORT. Tests: ill-formed terms refused, frames written out from R145 to R159, single steps with results taken from
the manual, and for every statement with hypotheses a state and operands that meet them. -/

set_option Elab.async false
set_option linter.unusedVariables false
set_option maxRecDepth 100000

namespace Sys2Proof.Tests

open Sys2Proof Sys2Proof.Machine

/-! ## Well-formedness -/

theorem test_wf_refuses_complete_frame : Instr.wellFormed (.frameError .a [0x02, 0, 0, 0, 0x2C]) = false := by decide
theorem test_wf_refuses_incomplete_frame : Instr.wellFormed (.frameError .a [0x02, 0, 0]) = false := by decide
theorem test_wf_accepts_bad_crc : Instr.wellFormed (.frameError .a [0x02, 0, 0, 0, 0x2D]) = true := by decide
theorem test_wf_refuses_known_code : Instr.wellFormed (.unknownCommand .a 0x02 0 []) = false := by decide
theorem test_wf_accepts_unknown_code : Instr.wellFormed (.unknownCommand .a 0x05 0 []) = true := by decide
theorem test_wf_refuses_long_lookup : Instr.wellFormed (.lookup .a 0 (List.replicate 256 0x41)) = false := by
  simp [Instr.wellFormed, nameFieldFits]
theorem test_wf_refuses_long_create : Instr.wellFormed (.create .a 0 0 0 0 1 (List.replicate 256 0x41)) = false := by
  simp [Instr.wellFormed, nameFieldFits]
theorem test_wf_refuses_long_open : Instr.wellFormed (.openHandle .a 0 0 (.byName (List.replicate 256 0x41))) = false := by
  simp [Instr.wellFormed, Selector.wellFormed, nameFieldFits]
theorem test_wf_refuses_selector_respelled : Instr.wellFormed (.openHandle .a 0 0 (.other 1 [])) = false := by decide
theorem test_wf_refuses_long_program : Instr.wellFormed (.program .a 0 0 0 (List.replicate 513 0)) = false := by
  simp [Instr.wellFormed, keptParams]

/-! ## Checks and frames -/

/-- R147: "For the nine bytes of the text 123456789 the CRC-8 is 0xF4." -/
theorem test_crc8_text : crc8 [0x31, 0x32, 0x33, 0x34, 0x35, 0x36, 0x37, 0x38, 0x39] = 0xF4 := by decide
/-- R147: over 0x02, 0x00, 0x00, 0x00 it is 0x2C. -/
theorem test_crc8_header : crc8 [0x02, 0x00, 0x00, 0x00] = 0x2C := by decide
/-- R82: the CRC-32 of the same text is 0xCBF43926. -/
theorem test_crc32_text : crc32 [0x31, 0x32, 0x33, 0x34, 0x35, 0x36, 0x37, 0x38, 0x39] = 0xCBF43926 := by decide

/-- STATUS, tag 0 (R145, R158). -/
theorem test_frame_status : decodeFrame .a [0x02, 0x00, 0x00, 0x00, 0x2C] = .request (.status .a 0) := by decide
/-- The same frame with its CRC byte wrong (R148 step 1). -/
theorem test_frame_bad_crc : decodeFrame .a [0x02, 0x00, 0x00, 0x00, 0x2D] = .badCrc 0 := by decide
/-- CREATE, tag 5, rights READ, AT unit 258, 2 units, name "AB" (R158). -/
theorem test_frame_create : decodeParams .b 5 .create [0x01, 0x01, 0x01, 0x02, 0x00, 0x02, 0x02, 0x41, 0x42] =
    some (.create .b 5 1 1 258 2 [0x41, 0x42]) := by decide
/-- A name length that does not fit N (R148 step 4). -/
theorem test_frame_create_length :
    decodeParams .b 5 .create [0x01, 0x01, 0x01, 0x02, 0x00, 0x02, 0x03, 0x41, 0x42] = none := by decide
/-- SHRINK of region 3 at generation 4 to 256 units, with override (R158). -/
theorem test_frame_shrink : decodeParams .a 7 .shrink [0x03, 0x04, 0x01, 0x00, 0x01] = some (.shrink .a 7 3 4 256 1) := by
  decide
/-- OPEN by name, EXCLUSIVE, and by reference, READ (R158). -/
theorem test_frame_open : decodeParams .a 7 .openHandle [0x02, 0x00, 0x01, 0x5A] = some (.openHandle .a 7 2 (.byName [0x5A])) ∧
    decodeParams .a 7 .openHandle [0x00, 0x01, 0x1F, 0xFF] = some (.openHandle .a 7 0 (.byReference 0x1F 0xFF)) := by decide
/-- An OPEN whose selector is neither 0 nor 1 passes the length check (R148 step 4). -/
theorem test_frame_open_selector :
    decodeParams .a 7 .openHandle [0x00, 0x02] = some (.openHandle .a 7 0 (.other 2 [])) := by decide
/-- READ through handle 1 at offset 0x00012000, 4096 bytes (R158). -/
theorem test_frame_read : decodeParams .a 9 .read [0x01, 0x00, 0x01, 0x20, 0x00, 0x10, 0x00] =
    some (.read .a 9 1 0x12000 4096) := by decide
/-- PROGRAM of two bytes at offset 512 (R158). -/
theorem test_frame_program : decodeParams .a 9 .program [0x00, 0x00, 0x00, 0x02, 0x00, 0xF0, 0x3C] =
    some (.program .a 9 0 512 [0xF0, 0x3C]) := by decide
/-- ERASE of units 1 and 2 of a region; COLLECT of ticket 5/3 (R158). -/
theorem test_frame_erase : decodeParams .a 9 .erase [0x00, 0x00, 0x01, 0x00, 0x02] = some (.erase .a 9 0 1 2) ∧
    decodeParams .b 9 .collect [0x05, 0x03] = some (.collect .b 9 5 3) := by decide
/-- UNIT_INFO of unit 700; FORMAT carries no parameters (R158). -/
theorem test_frame_unit_info : decodeParams .a 1 .unitInfo [0x02, 0xBC] = some (.unitInfo .a 1 700) ∧
    decodeParams .a 1 .format [0x00] = none := by decide
/-- 09, "A first write cut short": FORMAT has tag 0x21; its frame (R145, CRC by hand from R147). -/
theorem test_frame_format : decodeFrame .a [0x1F, 0x21, 0x00, 0x00, crc8 [0x1F, 0x21, 0x00, 0x00]] = .request (.format .a 0x21) := by
  decide

/-! ## Array -/

/-- 01, "two programs into one page": bytes 0 to 5. -/
theorem test_program_twice :
    ((ArrayState.programBytes (fun _ => true) 2 [0x0F, 0xAA, 0x55, 0x81]
      (ArrayState.programBytes (fun _ => true) 0 [0xF0, 0x3C, 0xFF, 0x00] .factory)).bytes 0 7) =
      [0xF0, 0x3C, 0x0F, 0x00, 0x55, 0x81, 0xFF] := by decide
/-- 01, "the life of a unit through one erase": count 1,337 to 1,338, INCOMPLETE, then GOOD. -/
theorem test_erase_life :
    ((ArrayState.factory.writeHeader 200 ⟨true, 1337, false⟩).eraseStart 200).facts 200 = ⟨.incomplete, 1338, false⟩ ∧
    (((ArrayState.factory.writeHeader 200 ⟨true, 1337, false⟩).eraseStart 200).eraseDone 200).facts 200 =
      ⟨.good, 1338, false⟩ := by decide
/-- 01, "the last erase of a unit": 59,999 to 60,000, WORN. -/
theorem test_last_erase :
    (((ArrayState.factory.writeHeader 612 ⟨true, 59999, false⟩).eraseStart 612).eraseDone 612).facts 612 =
      ⟨.worn, 60000, false⟩ := by decide

/-! ## States the tests start from -/

/-- Region 0, "A", of port A: units 100 to 107, the other port may READ. -/
def region : Region := ⟨⟨[0x41], .a, .read⟩, ⟨100, 8⟩, none, .openLevel⟩

/-- The image that holds it. -/
def image : Image :=
  Image.sealed ⟨1, ⟨0, some ⟨region.ident, region.extent, .openLevel⟩⟩ :: List.replicate 31 ⟨0, none⟩, [], [], 0⟩

/-- A port in a select period, no request complete yet, with a handle table. -/
def listening (handles : List Handle) : PortState := ⟨true, false, .receiving, none, none, false, handles⟩

/-- A part in service: READY, region 0, and port A's handle 0 on it in WRITE mode. -/
def serving : State :=
  { State.reset with
    device := .ready
    portA := listening (.opened ⟨⟨0, 0⟩, .write⟩ :: List.replicate 7 .closed)
    portB := listening closedTable
    dir := ⟨⟨0, .active region⟩ :: List.replicate 31 Record.blank, [], []⟩
    store := ⟨.complete image, .blank, some .copy0, 1, some 1, false, .idle⟩ }

/-- Port A's slot 0, a PROGRAM of byte 0 of region 0. -/
def programSlot (st : SlotState) : SlotBody :=
  ⟨st, some .a, .program 0 [0xF0], some 0, some ⟨0, 0⟩, some 0, 0, 0, none, none⟩

/-- Port A's slot 0, an ERASE of the first two units of region 0. -/
def eraseSlot (st : SlotState) : SlotBody :=
  ⟨st, some .a, .erase 0 2, some 0, some ⟨0, 0⟩, some 0, 0, 0, none, none⟩

/-- Port A's slot 0, a VERIFY of region 0. -/
def verifySlot (st : SlotState) : SlotBody :=
  ⟨st, some .a, .verify, some 0, some ⟨0, 0⟩, some 0, 0, 0, none, none⟩

/-- Port A's slot 0, a FIX of region 0. -/
def fixSlot (st : SlotState) : SlotBody :=
  ⟨st, some .a, .fix, none, some ⟨0, 0⟩, some 0, 0, 0, none, none⟩

/-- A state with slot 0 filled. -/
def withSlot (s : State) (b : SlotBody) : State := { s with slots := ⟨0, some b⟩ :: List.replicate 11 Slot.blank }

/-- A unit erase just started. -/
def run (unit : Nat) : EraseRun := ⟨unit, .factory, false, false, 0, false, false⟩

/-- The unit erase of slot 0 on unit 100, just started. -/
def erasing : State :=
  { withSlot serving (eraseSlot .running) with
    array := ArrayState.factory.eraseStart 100
    sched := { Scheduler.empty with activity := .erase (.slot 0) (run 100) } }

/-- A part in RECOVERY. -/
def recovering : State := { State.reset with device := .recovery, portA := listening closedTable, portB := listening closedTable }

/-- What the response in a port's RESPONDING state says. -/
def answer (s : State) (p : Port) : Option (Status × List Byte) :=
  match (s.port p).framing with
  | .responding r => some (r.status, r.result)
  | _ => none

/-- What a command answers from a state. -/
def answerOf (i : Instr) (s : State) (p : Port) : Option (Status × List Byte) :=
  match exec i s with
  | .next t => answer t p
  | _ => none

/-- The state a command leads to. -/
def after (i : Instr) (s : State) : State :=
  match exec i s with
  | .next t => t
  | _ => s

/-! ## Single steps -/

theorem test_identify : answerOf (.identify .b 1) State.reset .b = none ∧
    answerOf (.identify .b 1) (after (.selectFall .b) State.reset) .b =
      some (.ok, [0x54, 0x08, 0xD2, 1, 1, 4, 0, 0x20, 0, 2, 0, 32, 8, 12, 8, 0xEA, 0x60]) := by decide
/-- R162: every other command is refused NOT_READY in STARTING. -/
theorem test_starting : answerOf (.list .a 1) (after (.selectFall .a) State.reset) .a = some (.notReady, []) := by decide
/-- R144: a response that is cut off leaves the port IDLE. -/
theorem test_select_rise : ((after (.selectRise .a) (after (.identify .a 1) serving)).port .a).framing = .idle := by decide
theorem test_lookup : answerOf (.lookup .b 1 [0x41]) serving .b = some (.ok, [0, 0, 2]) := by decide
theorem test_lookup_unknown : answerOf (.lookup .b 1 [0x42]) serving .b = some (.noSuchRegion, []) := by decide
theorem test_list : answerOf (.list .b 1) serving .b = some (.ok, [1, 0, 0, 2, 1, 0x41]) := by decide
theorem test_read_record : answerOf (.readRecord .a 1 0) serving .a =
    some (.ok, [0, 2, 0, 27, 1, 0x41, 0, 0, 0, 0, 0, 0, 0, 0, 0, 0, 0, 0, 100, 0, 8, 0, 0, 0, 1, 0, 0, 0, 0, 0]) := by decide
/-- R44: the unit at offset 3 of region 0. -/
theorem test_unit_info : answerOf (.unitInfo .a 1 103) serving .a = some (.ok, [0, 0, 0, 0, 0, 0, 0, 0, 3, 0]) := by decide
/-- R44: without a directory a unit is UNKNOWN. -/
theorem test_unit_info_recovery : answerOf (.unitInfo .a 1 700) recovering .a = some (.ok, [0, 0, 0, 0, 4]) := by decide
/-- R53: the lowest FREE record, ticket 0/0. -/
theorem test_create : answerOf (.create .b 1 0 1 0 4 [0x42]) serving .b = some (.ok, [0, 0, 1, 0]) := by decide
theorem test_create_name_taken : answerOf (.create .b 1 0 1 0 4 [0x41]) serving .b = some (.nameTaken, []) := by decide
/-- R146: start byte, status, tag, flags with ATTENTION and REPLAYED, length, result, and a CRC-8 from the status on. -/
theorem test_response_frame : Response.frame ⟨.notReady, 0x31, true, true, false, [7]⟩ =
    [0x5A, Status.notReady.code, 0x31, 0x06, 0x00, 0x01, 0x07, crc8 [Status.notReady.code, 0x31, 0x06, 0x00, 0x01, 0x07]] := by
  decide
/-- R51: port B does not own region 0. -/
theorem test_grow_not_owner : answerOf (.grow .b 1 0 0 1) serving .b = some (.notOwner, []) := by decide
theorem test_grow : (after (.grow .a 1 0 0 1) serving).dir.record 0 = ⟨0, .active { region with growth := some 1 }⟩ := by
  decide
theorem test_shrink : (after (.shrink .a 1 0 0 6 0) serving).dir.scrub = [⟨⟨106, 2⟩, 0, false⟩] := by decide
/-- R61: an OPEN handle keeps a RETIRE without override away. -/
theorem test_retire_in_use : answerOf (.retire .a 1 0 0 0) serving .a = some (.inUse, []) := by decide
theorem test_retire_override : ((after (.retire .a 1 0 0 1) serving).handle .a 0) = .stale ⟨⟨0, 0⟩, .write⟩ ∧
    ((after (.retire .a 1 0 0 1) serving).attention .a) = true := by decide
theorem test_hold : answerOf (.hold .a 1 0 0 0) serving .a = some (.inUse, []) := by decide
/-- R89, R91: port B opens region 0 for READ. -/
theorem test_open : answerOf (.openHandle .b 1 0 (.byName [0x41])) serving .b = some (.ok, [0, 0, 0, 0, 0, 8]) := by decide
theorem test_open_no_right : answerOf (.openHandle .b 1 1 (.byReference 0 0)) serving .b = some (.noRight, []) := by decide
theorem test_close : (after (.close .a 1 0) serving).handle .a 0 = .closed := by decide
/-- R106: two bytes across a page boundary. -/
theorem test_program_range : answerOf (.program .a 1 0 511 [0, 0]) serving .a = some (.range, []) := by decide
/-- R116, R136: an idle array takes the program at once. -/
theorem test_program : (after (.program .a 1 0 512 [0]) serving).sched.activity = .program 0 819712 := by decide
theorem test_read : answerOf (.read .a 1 0 65535 1) serving .a = some (.ok, [0xFF]) := by decide
/-- R139: a READ of the unit under erase. -/
theorem test_read_erasing : answerOf (.read .a 1 0 0 1) erasing .a = some (.erasing, []) := by decide
theorem test_erase : (after (.erase .a 1 0 7 1) serving).array.header 107 = ⟨false, 1, false⟩ := by decide
/-- R121: a RUNNING ERASE is cancelled, and its unit stays INCOMPLETE. -/
theorem test_cancel : answerOf (.cancel .a 1 0 0) erasing .a = some (.ok, [7]) ∧
    ((after (.cancel .a 1 0 0) erasing).array.facts 100).condition = .incomplete := by decide
/-- R133: a live slot is not collected. -/
theorem test_collect_too_late : answerOf (.collect .a 1 0 0) erasing .a = some (.tooLate, [2]) := by decide
/-- R120, R139: the slot stands between its two units; the erase of the next unit follows. -/
theorem test_erase_end : (after (.eraseEnd .success) erasing).sched.activity = .between 0 101 ∧
    ((after (.eraseEnd .success) erasing).array.facts 100) = ⟨.good, 1, false⟩ ∧
    (∃ t, step (after (.eraseEnd .success) erasing) = .next t ∧ t.sched.activity = .erase (.slot 0) (run 101)) :=
  ⟨by decide, by decide, _, rfl, by decide⟩
/-- R121: a CANCEL between two units aborts no erase and leaves the next unit as it is. -/
theorem test_cancel_between :
    answerOf (.cancel .a 1 0 0) (after (.eraseEnd .success) erasing) .a = some (.ok, [7]) ∧
    (after (.cancel .a 1 0 0) (after (.eraseEnd .success) erasing)).array =
      (after (.eraseEnd .success) erasing).array := by decide
/-- R139: a READ that comes between two units, of the next one, waits there and is served before that unit starts. -/
theorem test_read_between : answerOf (.read .a 1 0 8192 1) (after (.eraseEnd .success) erasing) .a = none ∧
    (∃ t, step (after (.read .a 1 0 8192 1) (after (.eraseEnd .success) erasing)) = .next t ∧
      answer t .a = some (.ok, [0xFF]) ∧ t.sched.activity = .between 0 101) := ⟨by decide, _, rfl, by decide⟩
/-- R11, R13: a CANCEL of an erase that is writing its mark finds every data bit at 1. -/
theorem test_cancel_mark_writing :
    (after (.cancel .a 1 0 0) { erasing with
      array := { erasing.array with data := [(819200, 0)] }
      sched := { Scheduler.empty with activity := .erase (.slot 0) { run 100 with markWriting := true } } }).array.byte
        819200 = 0xFF := by decide
/-- R148, R150, R162: a refusal in STARTING is placed in the cache, and the same tag is judged anew in the next select
period, not replayed. -/
theorem test_cache_in_starting :
    (after (.fix .a 5 99 0) (after (.selectFall .a) State.reset)).portA.cache =
      some ⟨.fix, 5, ⟨.badParam, 5, false, false, false, []⟩⟩ ∧
    answerOf (.fix .a 5 0 0) (after (.selectFall .a) (after (.selectRise .a)
      (after (.fix .a 5 99 0) (after (.selectFall .a) State.reset)))) .a = some (.notReady, []) := by decide
/-- R166 and 09, "A fixed region met by reconciliation": a marked unit makes the region FIXED without a check word. -/
theorem test_startup_fixes :
    ((after .startupComplete { serving with device := .starting, array := ⟨[(101, ⟨true, 0, true⟩)], [], []⟩ }).dir.record 0).body.freeze =
      .fixed none := by decide
/-- R37: after the third failed attempt the part is DEGRADED. -/
theorem test_third_failure :
    (after .attemptFail { serving with store := { serving.store with writer := .writing ⟨image, .copy1, 3, [], false⟩ } }).device =
      .degraded := by decide

/-! ## Every statement's hypotheses are met

Each theorem `witness_<Name>` shows states and operands that meet the hypotheses of `Obligations.<Name>`, clause by
clause where it has several. -/

theorem listens {s : State} {p : Port}
    (h : (s.port p).framing = .receiving ∧ (s.port p).undecided = none ∧ s.device ≠ .inReset) : s.Listens p :=
  ⟨h.1, h.2.1, h.2.2⟩

theorem receives {s : State} {p : Port} {cmd : Cmd} {tag : Byte}
    (h : (s.port p).framing = .receiving ∧ (s.port p).undecided = none ∧ s.device ≠ .inReset ∧
      (s.port p).cache = none) : s.Receives p cmd tag :=
  ⟨⟨h.1, h.2.1, h.2.2.1⟩, by simp [h.2.2.2]⟩

theorem getD_replicate {α : Type} (m n : Nat) (x : α) : (List.replicate m x).getD n x = x := by
  rw [List.getD_eq_getElem?_getD, List.getElem?_replicate]
  split <;> rfl

theorem exists_ne (x : Byte) : ∃ c, c ≠ x := ⟨x + 1, by simp⟩

theorem serving_record (n : Nat) : serving.dir.record n = if n = 0 then ⟨0, .active region⟩ else Record.blank := by
  rcases n with _ | n
  · rfl
  · exact getD_replicate 31 n Record.blank

theorem serving_slot (n : Nat) : serving.slot n = Slot.blank := getD_replicate 12 n Slot.blank

theorem serving_handle (p : Port) (h : Nat) :
    serving.handle p h = if p = .a ∧ h = 0 then .opened ⟨⟨0, 0⟩, .write⟩ else .closed := by
  cases p
  · rcases h with _ | h
    · rfl
    · exact getD_replicate 7 h Handle.closed
  · exact getD_replicate 8 h Handle.closed

/-- A slot offered. -/
theorem offers {s : State} {p : Port} {n : Nat} (h : n < s.slots.length ∧ (s.slot n).body = none ∧
    (∀ m, m < n → (s.slot m).body ≠ none) ∧ s.slots.countP (Slot.ofPort p) < Config.slotQuota) : s.OffersSlot p n :=
  ⟨h.1, h.2.1, h.2.2.1, h.2.2.2⟩

/-- The part in service with the device state given. -/
def servingAs (d : Device) : State := { serving with device := d }

/-- The part in service with region 0's level and pending growth given. -/
def levelled (l : Freeze) (growth : Option Nat) : State :=
  { serving with dir := ⟨⟨0, .active { region with freeze := l, growth := growth }⟩ :: List.replicate 31 Record.blank, [], []⟩ }

/-- The part in service with record 31's body given. -/
def recorded (b : RecordBody) : State :=
  { serving with dir := ⟨List.replicate 31 Record.blank ++ [⟨7, b⟩], [], []⟩ }

/-- A slot of port A that has ended. -/
def ended : Slot := ⟨15, some ⟨.doneOk, some .a, .program 0 [0xF0], some 0, some ⟨0, 0⟩, some 0, 1, 0, none, none⟩⟩

theorem witness_StepRunsTheFrontCommand :
    { serving with pending := [.list .a 1, .status .b 2] }.pending = .list .a 1 :: [.status .b 2] := rfl

theorem witness_RequestFramesDecode :
    Instr.wellFormed (.create .b 255 1 1 258 2 [0x41, 0x42]) = true ∧
    Instr.request (.create .b 255 1 1 258 2 [0x41, 0x42]) =
      some (.b, 255, .create, [1, 1, 1, 2, 0, 2, 2, 0x41, 0x42]) ∧
    Instr.wellFormed (.status .a 0) = true ∧ Instr.request (.status .a 0) = some (.a, 0, .status, []) := by decide

theorem witness_CrcDetectsAChangedByte : (0x00 : Byte) ≠ 0xFF := by decide

theorem witness_FaultyFramesAreAnswered :
    (serving.Listens .a ∧ (List.replicate 65535 (0 : Byte)).length ≤ 65535 ∧
      ∃ crc, crc ≠ crc8 (0x02 :: 0 :: be16 (BitVec.ofNat 16 (List.replicate 65535 (0 : Byte)).length) ++
        List.replicate 65535 (0 : Byte))) ∧
    (serving.Receives .a .unitInfo 1 ∧
      decodeFrame .a [0x04, 1, 0, 1, 0xFF, crc8 [0x04, 1, 0, 1, 0xFF]] = .badLength .unitInfo 1) ∧
    (serving.Listens .b ∧ (0xFF : Byte) ∉ ([0x01, 0x02, 0x03, 0x04, 0x10, 0x11, 0x12, 0x13, 0x14, 0x15, 0x16, 0x17, 0x18,
      0x19, 0x1A, 0x1B, 0x1F, 0x20, 0x21, 0x30, 0x31, 0x32, 0x40, 0x41, 0x42] : List Byte)) :=
  ⟨⟨listens (by decide), (List.length_replicate ..).le, exists_ne _⟩,
    ⟨receives (by decide), by decide⟩, listens (by decide), by decide⟩

/-- A part whose port A holds an answered CREATE, tag 9. -/
def repeated (d : Device) : State :=
  { servingAs d with portA := { serving.portA with cache := some ⟨.create, 9, ⟨.ok, 9, false, false, false, [0, 0, 1, 0]⟩⟩ } }

theorem witness_RepeatsAreReplayed :
    Instr.request (.create .a 9 0 0 0 1 [0x42]) = some (.a, 9, .create, [0, 0, 0, 0, 0, 1, 1, 0x42]) ∧
    (∀ d, d ≠ .inReset → (repeated d).Listens .a) ∧ Cmd.create ∈ mutatingCommands ∧ (9 : Byte) ≠ 0 ∧
    (∀ d, ((repeated d).port .a).cache = some ⟨.create, 9, ⟨.ok, 9, false, false, false, [0, 0, 1, 0]⟩⟩) :=
  ⟨rfl, fun d h => listens ⟨rfl, rfl, h⟩, by decide, by decide, fun _ => rfl⟩

theorem witness_BadParametersAreRefused :
    Instr.request (.unitInfo .a 1 1024) = some (.a, 1, .unitInfo, [4, 0]) ∧
    (∀ d, d ≠ .inReset → (servingAs d).Receives .a .unitInfo 1) ∧ ¬ Instr.InRange (.unitInfo .a 1 1024) ∧
    Instr.InRange (.unitInfo .a 1 1023) :=
  ⟨rfl, fun d h => receives ⟨rfl, rfl, h, rfl⟩, by simp [Instr.InRange], by simp [Instr.InRange]⟩

theorem witness_DeviceStateAndInhibitRefusals :
    (Instr.request (.list .a 1) = some (.a, 1, .list, []) ∧ Instr.InRange (.list .a 1) ∧
      (servingAs .starting).Receives .a .list 1 ∧ (servingAs .recovery).Receives .a .list 1 ∧
      (servingAs .formatting).Receives .a .list 1 ∧
      Cmd.list ∉ [Cmd.identify, .status, .unitInfo, .portReset, .query, .collect, .format]) ∧
    (Instr.request (.format .a 1) = some (.a, 1, .format, []) ∧ Instr.InRange (.format .a 1) ∧
      serving.Receives .a .format 1 ∧ (servingAs .degraded).Receives .a .format 1) ∧
    (Instr.request (.fix .a 1 0 0) = some (.a, 1, .fix, [0, 0]) ∧ Instr.InRange (.fix .a 1 0 0) ∧
      (servingAs .degraded).Receives .a .fix 1 ∧ Cmd.fix ∈ controlCommands) ∧
    (∀ d : Device, d = .ready ∨ d = .degraded ∨ d = .recovery → ∃ s : State, s.device = d ∧ (s.port .a).inhibit = true ∧
      s.Receives .a .fix 1 ∧ s.Receives .a .erase 1 ∧ s.Receives .a .format 1 ∧ s.Receives .a .openHandle 1) ∧
    Instr.InRange (.erase .a 1 0 0 1) ∧ Instr.InRange (.openHandle .a 1 1 (.byReference 0 0)) := by
  refine ⟨⟨rfl, trivial, receives (by decide), receives (by decide), receives (by decide), by decide⟩,
    ⟨rfl, trivial, receives (by decide), receives (by decide)⟩,
    ⟨rfl, by simp [Instr.InRange, RegionNumber], receives (by decide), by decide⟩, fun d h => ?_,
    by simp [Instr.InRange], by simp [Instr.InRange, RegionNumber]⟩
  refine ⟨{ servingAs d with portA := { serving.portA with inhibit := true } }, rfl, rfl, ?_⟩
  rcases h with rfl | rfl | rfl <;>
    exact ⟨receives (by decide), receives (by decide), receives (by decide), receives (by decide)⟩

/-- A part with a request that waits at port A behind an undecided READ, or behind nothing. -/
def queued (i : Instr) (undecided : Option Instr) : State :=
  { serving with portA := { serving.portA with framing := .waiting i, undecided := undecided } }

theorem witness_RequestsWaitTheirTurn :
    (∃ s : State, (s.port .a).framing = .receiving ∧ s.device ≠ .inReset ∧
      (s.port .a).undecided = some (.read .a 1 0 0 1)) ∧
    (∀ i, ((queued i none).port .a).framing = .waiting i ∧ (queued i none).device ≠ .inReset ∧
      ((queued i none).port .a).undecided = none) ∧
    (∀ i, ((queued i (some (.read .a 1 0 0 1))).port .a).framing = .waiting i ∧
      ((queued i (some (.read .a 1 0 0 1))).port .a).undecided ≠ none) ∧
    (∀ i ∈ ([.identify .a 2, .list .a 2, .fix .a 2 0 0, .verify .a 2 0, .format .a 2, .read .a 2 0 0 1,
      .program .a 2 0 0 [0xF0], .erase .a 2 0 0 1, .cancel .a 2 0 0] : List Instr), i.FrameAt .a) ∧
    (∀ i ∈ ([.frameError .a [0x02, 0, 0, 0, 0x2D], .frameError .a [0x04, 1, 0, 1, 0xFF, crc8 [0x04, 1, 0, 1, 0xFF]],
      .unknownCommand .a 0x05 2 []] : List Instr), i.FrameAt .a) := by
  refine ⟨⟨{ serving with portA := { serving.portA with undecided := some (.read .a 1 0 0 1) } }, by decide⟩,
    fun _ => ⟨rfl, nofun, rfl⟩, fun _ => ⟨rfl, nofun⟩, fun i h => ?_, fun i h => ?_⟩
  · simp only [List.mem_cons, List.not_mem_nil, or_false] at h
    rcases h with rfl | rfl | rfl | rfl | rfl | rfl | rfl | rfl | rfl <;> exact .inl ⟨_, _, _, rfl⟩
  · simp only [List.mem_cons, List.not_mem_nil, or_false] at h
    rcases h with rfl | rfl | rfl
    · exact .inr (.inl ⟨_, rfl, .inl ⟨0, by decide⟩⟩)
    · exact .inr (.inl ⟨_, rfl, .inr ⟨.unitInfo, 1, by decide⟩⟩)
    · exact .inr (.inr ⟨_, _, _, rfl, by decide⟩)

theorem witness_RefusalsChangeNothing :
    (Instr.request (.grow .b 1 0 0 1) = some (.b, 1, .grow, [0, 0, 0, 1]) ∧ (serving.port .b).framing = .receiving ∧
      exec (.grow .b 1 0 0 1) serving = .next (after (.grow .b 1 0 0 1) serving) ∧
      ((after (.grow .b 1 0 0 1) serving).port .b).framing = .responding ⟨.notOwner, 1, false, false, false, []⟩ ∧
      Status.notOwner ≠ .ok) :=
  ⟨rfl, rfl, rfl, by decide, by decide⟩

theorem witness_IdentifyAnswers : ∀ d p, d ≠ .inReset → (servingAs d).Listens p :=
  fun d p h => by cases p <;> exact listens ⟨rfl, rfl, h⟩

theorem witness_StatusAnswersAndClearsTheNotice : ∀ d p, d ≠ .inReset → (servingAs d).Listens p := witness_IdentifyAnswers

theorem witness_PortResetClearsThePort : ∀ d p, d ≠ .inReset → d ≠ .starting →
    (servingAs d).Listens p ∧ (servingAs d).device ≠ .starting :=
  fun d p h h2 => ⟨witness_IdentifyAnswers d p h, h2⟩

/-! ### The part in service keeps every law -/

theorem serving_holds {i : Image} (h : serving.store.Holds i) : i = image := by
  rcases h with h | h | ⟨_, h, _⟩
  · exact (Copy.complete.inj h).symm
  · cases h
  · cases h

theorem image_record (n : Nat) : image.records.getD n ⟨0, none⟩ =
    if n = 0 then ⟨0, some ⟨region.ident, region.extent, .openLevel⟩⟩ else ⟨0, none⟩ := by
  rcases n with _ | n
  · rfl
  · exact getD_replicate 31 n (⟨0, none⟩ : DurableRecord)

theorem places_of_one {units : Nat → Option Extent} {e : Extent} (scrub : List Extent) (withdrawn : List Nat)
    (hu : ∀ n, units n = if n = 0 then some e else none) (hl : scrub.length ≤ 1) (he : e.first + e.count ≤ 1024)
    (hw : ∀ u ∈ withdrawn, u < 1024 ∧ e.contains u = false)
    (hs : ∀ f ∈ scrub, f.first + f.count ≤ 1024 ∧ (e.first + e.count ≤ f.first ∨ f.first + f.count ≤ e.first)) :
    PlacesApart units scrub withdrawn := by
  have zero : ∀ {n f}, units n = some f → n = 0 ∧ f = e := by
    intro n f h
    rw [hu] at h
    split at h
    · exact ⟨‹_›, (Option.some.inj h).symm⟩
    · cases h
  refine ⟨?_, ?_, ?_, ⟨?_, ?_, fun u h => (hw u h).1⟩⟩
  · intro m n _ _ _ h1 h2 _ _
    rw [(zero h1).1, (zero h2).1]
  · intro i j _ _ _ h1 h2 _ _
    obtain ⟨a, -⟩ := List.getElem?_eq_some_iff.1 h1
    obtain ⟨b, -⟩ := List.getElem?_eq_some_iff.1 h2
    omega
  · intro n f u h1 h2
    obtain ⟨rfl, rfl⟩ := zero h1
    refine ⟨fun h => by simp [(hw u h).2] at h2, fun g hg => ?_⟩
    have := (hs g hg).2
    simp only [Extent.contains, Bool.and_eq_true, decide_eq_true_eq, Bool.and_eq_false_iff, decide_eq_false_iff_not] at h2 ⊢
    omega
  · intro n f h1
    rw [(zero h1).2]
    exact he
  · exact fun f h => (hs f h).1

theorem serving_array : serving.ArrayLaw := by
  constructor
  · rfl
  · rfl
  · rfl
  · intro h; cases h
  · exact fun _ _ => rfl
  · exact fun _ => Nat.zero_le _
  · intro _ _ h; cases h

theorem serving_table : serving.TableLaw := by
  refine ⟨rfl, by decide, fun i h => ?_, fun p => by cases p <;> rfl, rfl, fun p => by cases p <;> decide⟩
  rw [serving_holds h]
  exact ⟨rfl, by decide⟩

theorem serving_service : serving.ServiceLaw := by
  refine ⟨?_, ?_, ?_, ?_, ?_, ?_⟩
  · intro _ _ h; cases h
  · intro h; cases h
  · intro _ h; cases h
  · intro h; cases h
  · intro h; cases h
  · rintro _ (h | ⟨h, -⟩) <;> cases h

theorem serving_idle : serving.IdleLaw := fun _ _ => ⟨rfl, rfl, rfl⟩

theorem serving_handles : serving.HandleLaw := by
  intro p h i q k j h1 h2 ne _
  rw [serving_handle] at h1 h2
  split at h1 <;> split at h2 <;> simp_all

theorem serving_open : serving.OpenLaw := by
  intro p h i h1
  rw [serving_handle] at h1
  split at h1
  · cases h1; exact ⟨region, rfl⟩
  · cases h1

theorem serving_names : serving.NameLaw := by
  constructor
  · intro m n x h1 h2
    rw [serving_record] at h1 h2
    split at h1 <;> split at h2
    · omega
    · cases h2
    · cases h1
    · cases h1
  · intro i h m n x h1 h2
    rw [serving_holds h, image_record] at h1 h2
    split at h1 <;> split at h2
    · omega
    · cases h2
    · cases h1
    · cases h1

/-- Units 100 to 107 in region 0, units 0 to 3 in a scrub extent of which two are clean, unit 1023 withdrawn, the others
free. -/
def placed : State := { serving with dir := { serving.dir with scrub := [⟨⟨0, 4⟩, 2, true⟩], withdrawn := [1023] } }

theorem serving_units (n : Nat) : (serving.dir.record n).body.units = if n = 0 then some ⟨100, 8⟩ else none := by
  rw [serving_record]
  split <;> rfl

theorem image_place {i : Image} (h : serving.store.Holds i) :
    PlacesApart (fun n => (i.records.getD n ⟨0, none⟩).region.map fun g => g.extent) i.scrub i.withdrawn := by
  rw [serving_holds h]
  refine places_of_one (e := ⟨100, 8⟩) _ _ (fun n => ?_) (by decide) (by decide) (by decide) (by decide)
  rw [image_record]
  split <;> rfl

theorem placed_place : placed.PlaceLaw := by
  refine ⟨places_of_one (e := ⟨100, 8⟩) _ _ serving_units (by decide) (by decide) (by decide) (by decide),
    fun i h => image_place h, ?_, by decide⟩
  intro _ h; cases h

theorem serving_place : serving.PlaceLaw := by
  refine ⟨places_of_one (e := ⟨100, 8⟩) _ _ serving_units (by decide) (by decide) (by decide) (by decide),
    fun i h => image_place h, ?_, by decide⟩
  intro _ h; cases h

theorem serving_queue : serving.QueueLaw := by
  refine ⟨by decide, fun n => ?_, fun n b h => ?_, ?_⟩
  · rw [serving_slot]; simp [serving, State.reset, Scheduler.empty]
  · rw [serving_slot] at h; cases h
  · intro _ h; cases h

theorem serving_store : serving.StoreLaw := by
  constructor
  · intro i h; rw [serving_holds h]; exact Image.sealed_agrees _
  · intro c h; cases h; exact ⟨image, rfl, rfl⟩
  · intro _ c i h
    cases c
    · exact .inl rfl
    · cases h
  · intro h; cases h
  · intro i j _ h; cases h
  · intro _ h; cases h
  · intro _ h; cases h
  · intro h; rcases h with h | h <;> cases h

theorem witness_UnitInfoReportsThePlace :
    placed.Receives .a .unitInfo 1 ∧ placed.device ≠ .starting ∧ placed.PlaceLaw ∧
    (placed.loaded = true ∧ (placed.dir.record 0).body.units = some ⟨100, 8⟩ ∧
      Extent.contains ⟨100, 8⟩ 100 = true ∧ Extent.contains ⟨100, 8⟩ 107 = true) ∧
    ((1023 : Half).toNat ≤ 1023 ∧ (1023 : Half).toNat ∈ placed.dir.withdrawn) ∧
    (∀ u, u = 0 ∨ u = 3 → u ∉ placed.dir.withdrawn ∧ placed.dir.scrub[0]? = some ⟨⟨0, 4⟩, 2, true⟩ ∧
      Extent.contains ⟨0, 4⟩ u = true) ∧
    (∀ u, u = 4 ∨ u = 99 ∨ u = 108 ∨ u = 1022 → u ∉ placed.dir.withdrawn ∧
      (∀ f ∈ placed.dir.scrub, f.extent.contains u = false) ∧
      ∀ n e, (placed.dir.record n).body.units = some e → e.contains u = false) ∧
    (∃ s : State, s.device = .recovery ∧ s.Receives .a .unitInfo 1 ∧ s.PlaceLaw ∧ s.loaded = false ∧
      0 ∈ s.formatWithdrawn ∧ 1023 ∉ s.formatWithdrawn) := by
  refine ⟨receives (by decide), by decide, placed_place, by decide, by decide, ?_, ?_, ?_⟩
  · rintro u (rfl | rfl) <;> decide
  · intro u hu
    refine ⟨?_, ?_, fun n e h => ?_⟩
    · rcases hu with rfl | rfl | rfl | rfl <;> decide
    · rcases hu with rfl | rfl | rfl | rfl <;> decide
    · have h : (serving.dir.record n).body.units = some e := h
      rw [serving_units] at h
      split at h
      · cases h; rcases hu with rfl | rfl | rfl | rfl <;> decide
      · cases h
  · refine ⟨{ servingAs .recovery with formatWithdrawn := [0] }, rfl, receives (by decide), ?_, rfl, by decide, by decide⟩
    exact ⟨serving_place.working, fun i h => image_place h, (fun _ h => nomatch h), by decide⟩

theorem witness_DirectoryQueriesAnswer :
    serving.loaded = true ∧ serving.Receives .a .list 1 ∧ serving.Receives .a .lookup 1 ∧ serving.NameLaw ∧
    ValidName [0x41] ∧ (serving.dir.record 0).body.name = some [0x41] ∧
    ValidName (List.replicate 12 0x7E) ∧ (∀ n, (serving.dir.record n).body.name ≠ some (List.replicate 12 0x7E)) ∧
    (∀ b, (recorded b).Receives .a .readRecord 1 ∧ (31 : Byte).toNat ≤ 31 ∧ (recorded b).loaded = true ∧
      (recorded b).dir.record (31 : Byte).toNat = ⟨7, b⟩) ∧
    (∃ r, Region.freeze r = .fixed (some 0xCBF43926) ∧ r.growth = none) := by
  refine ⟨rfl, receives (by decide), receives (by decide), serving_names, ?_, rfl, ?_, fun n => ?_, fun b => ?_,
    ⟨{ region with freeze := .fixed (some 0xCBF43926) }, rfl, rfl⟩⟩
  · unfold ValidName; decide
  · unfold ValidName; decide
  · rw [serving_record]; split <;> decide
  · exact ⟨receives ⟨rfl, rfl, nofun, rfl⟩, by decide, rfl, rfl⟩

/-! ### Regions -/

/-- The part in service without an OPEN handle. -/
def calm : State := { serving with portA := listening closedTable }

/-- The part in service, port B's handle 0 open on region 0 for READ. -/
def shared : State := { calm with portB := listening (.opened ⟨⟨0, 0⟩, .read⟩ :: List.replicate 7 .closed) }

/-- The part in service with `n` slots of port A ended and the others FREE. -/
def crowded (n : Nat) : State := { serving with slots := List.replicate n ended ++ List.replicate (12 - n) Slot.blank }

/-- The part in service with slot 0 QUEUED. -/
def waitingWork (b : SlotBody) : State :=
  { withSlot serving b with sched := { Scheduler.empty with queue := [0], nextArrival := 1 } }

theorem withSlot_slot (s : State) (b : SlotBody) (n : Nat) :
    (withSlot s b).slot n = if n = 0 then ⟨0, some b⟩ else Slot.blank := by
  rcases n with _ | n
  · rfl
  · exact getD_replicate 11 n Slot.blank

theorem calm_handle (p : Port) (h : Nat) : calm.handle p h = .closed := by
  cases p <;> exact getD_replicate 8 h Handle.closed

theorem shared_handle (p : Port) (h : Nat) :
    shared.handle p h = if p = .b ∧ h = 0 then .opened ⟨⟨0, 0⟩, .read⟩ else .closed := by
  cases p
  · exact getD_replicate 8 h Handle.closed
  · rcases h with _ | h
    · rfl
    · exact getD_replicate 7 h Handle.closed

theorem inRange_create (name : List Byte) (rights placement : Byte) (first count : Half)
    (h : (1 ≤ name.length ∧ name.length ≤ 12 ∧ ∀ b ∈ name, 0x21 ≤ b.toNat ∧ b.toNat ≤ 0x7E) ∧ rights.toNat ≤ 2 ∧
      1 ≤ count.toNat ∧ count.toNat ≤ 1024 ∧ (placement = 0 ∨ placement = 1 ∧ first.toNat + count.toNat ≤ 1024)) (p : Port)
    (tag : Byte) : Instr.InRange (.create p tag rights placement first count name) := h

theorem witness_CreateMakesAPendingRegion :
    (placed.Receives .b .create 1 ∧ placed.device = .ready ∧ (placed.port .b).inhibit = false ∧
      Instr.InRange (.create .b 1 1 0 0 4 [0x42]) ∧ Rights.code .read = 1 ∧
      (∀ n, (placed.dir.record n).body.name ≠ some [0x42]) ∧ 1 < placed.dir.records.length ∧
      (placed.dir.record 1).body = .free ∧ (∀ m, m < 1 → (placed.dir.record m).body ≠ .free) ∧
      placed.Fits 4 (4 : Half).toNat ∧ (∀ f, f < 4 → ¬ placed.Fits f (4 : Half).toNat) ∧ placed.OffersSlot .b 0) ∧
    (Instr.InRange (.create .b 1 2 1 1019 4 [0x42]) ∧ placed.Fits (1019 : Half).toNat (4 : Half).toNat) := by
  refine ⟨⟨receives (by decide), rfl, rfl, inRange_create _ _ _ _ _ (by decide) _ _, rfl, fun n => ?_, by decide, rfl, by decide,
    by simp only [State.Fits]; decide, by simp only [State.Fits]; decide, offers (by decide)⟩,
    inRange_create _ _ _ _ _ (by decide) _ _, by simp only [State.Fits]; decide⟩
  change (serving.dir.record n).body.name ≠ _
  rw [serving_record]; split <;> decide

theorem witness_CreateRefusalsInOrder :
    (serving.Receives .a .create 1 ∧ serving.device = .ready ∧ (serving.port .a).inhibit = false ∧
      Instr.InRange (.create .a 1 0 0 0 1 [0x41]) ∧ (serving.dir.record 0).body.name = some [0x41]) ∧
    (∀ n, (serving.dir.record n).body.name ≠ some [0x42]) ∧
    (∃ s : State, s.Receives .a .create 1 ∧ s.device = .ready ∧ (∀ n, (s.dir.record n).body.name ≠ some [0x42]) ∧
      ∀ n, n < s.dir.records.length → (s.dir.record n).body ≠ .free) ∧
    (placed.Receives .a .create 1 ∧ Instr.InRange (.create .a 1 0 1 0 4 [0x42]) ∧ (placed.dir.record 31).body = .free ∧
      ¬ placed.Fits 0 4 ∧ placed.FitsLater 0 4) ∧
    (Instr.InRange (.create .a 1 0 1 1020 4 [0x42]) ∧ ¬ placed.Fits 1020 4 ∧ ¬ placed.FitsLater 1020 4) ∧
    ((crowded 12).Receives .b .create 1 ∧ Instr.InRange (.create .b 1 0 1 0 4 [0x42]) ∧ (crowded 12).Fits 0 4 ∧
      ∀ n, n < (crowded 12).slots.length → ((crowded 12).slot n).body ≠ none) ∧
    ((crowded 8).Receives .a .create 1 ∧ (crowded 8).Fits 0 4 ∧ ((crowded 8).slot 8).body = none ∧
      8 < (crowded 8).slots.length ∧ Config.slotQuota ≤ (crowded 8).slots.countP (Slot.ofPort .a)) := by
  refine ⟨⟨receives (by decide), rfl, rfl, inRange_create _ _ _ _ _ (by decide) _ _, rfl⟩, fun n => ?_, ?_,
    ⟨receives (by decide), inRange_create _ _ _ _ _ (by decide) _ _, rfl, by simp only [State.Fits]; decide, ?_⟩,
    ⟨inRange_create _ _ _ _ _ (by decide) _ _, by simp only [State.Fits]; decide, ?_⟩,
    ⟨receives (by decide), inRange_create _ _ _ _ _ (by decide) _ _, by simp only [State.Fits]; decide, by decide⟩,
    ⟨receives (by decide), by simp only [State.Fits]; decide, rfl, by decide, by decide⟩⟩
  · rw [serving_record]; split <;> decide
  · refine ⟨{ serving with dir := ⟨List.replicate 32 ⟨0, .active region⟩, [], []⟩ }, receives (by decide), rfl, fun n => ?_,
      by decide⟩
    simp only [Directory.record, List.getD_eq_getElem?_getD, List.getElem?_replicate]
    split <;> decide
  · refine ⟨by decide, fun u _ h => .inr ⟨1, decide (u < 2), ?_⟩⟩
    rcases (by omega : u = 0 ∨ u = 1 ∨ u = 2 ∨ u = 3) with rfl | rfl | rfl | rfl <;> decide
  · intro h
    rcases h.2 1023 (by decide) (by decide) with h | ⟨_, _, h⟩
    · exact absurd h.1 (by decide)
    · exact absurd (show Place.withdrawn = _ from h) nofun

theorem witness_RegionCommandHead :
    Instr.request (.grow .b 1 31 7 1023) = some (.b, 1, .grow, [31, 7, 3, 255]) ∧
    Instr.regionCommand (.grow .b 1 31 7 1023) = some (31, 7) ∧ Instr.InRange (.grow .b 1 31 7 1023) ∧
    (∀ b, (recorded b).Receives .b .grow 1 ∧ (recorded b).device = .ready ∧ ((recorded b).port .b).inhibit = false ∧
      (recorded b).dir.record (31 : Byte).toNat = ⟨7, b⟩) ∧
    ((recorded .free).dir.record (31 : Byte).toNat).body = .free ∧
    ((recorded (.active region)).dir.record (31 : Byte).toNat).generation ≠ 8 ∧ region.ident.owner ≠ .b ∧
    (∀ b cmd, (recorded b).Receives .a cmd 1 ∧ ((recorded b).port .a).inhibit = false) ∧ region.ident.owner = .a ∧
    (∀ s : State, FirstRefusal (s.ownChecks { region with freeze := .held } (.grow .a 1 31 7 4) ++ s.slotChecks .a) .frozen ∧
      FirstRefusal (s.ownChecks region (.shrink .a 1 31 7 8 0) ++ s.slotChecks .a) .range ∧
      FirstRefusal (s.ownChecks { region with growth := some 4 } (.retire .a 1 31 7 0) ++ s.slotChecks .a) .inUse ∧
      FirstRefusal (s.ownChecks { region with freeze := .held } (.hold .a 1 31 7 0) ++ s.slotChecks .a) .frozen ∧
      FirstRefusal (s.ownChecks { region with freeze := .fixing } (.thaw .a 1 31 7) ++ s.slotChecks .a) .frozen ∧
      FirstRefusal (s.ownChecks region (.fix .a 1 31 7) ++ s.slotChecks .a) .inUse) ∧
    FirstRefusal (State.ownChecks (crowded 12) region (.thaw .a 1 0 0) ++ (crowded 12).slotChecks .a) .slotsFull ∧
    FirstRefusal (State.ownChecks (crowded 8) region (.thaw .a 1 0 0) ++ (crowded 8).slotChecks .a) .quota ∧
    FirstRefusal (State.ownChecks shared region (.grant .a 1 0 0 0 0) ++ shared.slotChecks .a) .inUse ∧
    ((recorded (.active { region with freeze := .fixed none })).dir.record (31 : Byte).toNat =
        ⟨7, .active { region with freeze := .fixed none }⟩ ∧
      (∀ v o, Instr.shrink .a 1 31 7 7 1 ≠ .grant .a 1 31 7 v o) ∧ (7 : Half).toNat < region.extent.count) := by
  refine ⟨rfl, rfl, by simp [Instr.InRange, RegionNumber], fun b => ⟨receives ⟨rfl, rfl, nofun, rfl⟩, rfl, rfl, rfl⟩, rfl,
    by decide, by decide, fun b cmd => ⟨receives ⟨rfl, rfl, nofun, rfl⟩, rfl⟩, rfl,
    fun s => ⟨⟨[], _, _, rfl, nofun, nofun⟩, ⟨[], _, _, rfl, by decide, nofun⟩, ⟨[_], _, _, rfl, nofun, ?_⟩,
      ⟨[], _, _, rfl, nofun, nofun⟩, ⟨[], _, _, rfl, .inl rfl, nofun⟩, ⟨[_], _, _, rfl, rfl, ?_⟩⟩,
    ⟨[_], _, _, rfl, by decide, ?_⟩, ⟨[_, _], _, _, rfl, by decide, ?_⟩, ⟨[_], _, _, rfl, ?_, ?_⟩, ⟨rfl, nofun, by decide⟩⟩
  · intro c h
    simp only [List.mem_singleton] at h
    subst h
    simp [region]
  · intro c h
    simp only [List.mem_singleton] at h
    subst h
    rintro (h | ⟨_, h⟩) <;> cases h
  · intro c h
    simp only [List.mem_singleton] at h
    subst h
    rintro (h | ⟨_, h⟩) <;> cases h
  · intro c h
    simp only [List.mem_cons, List.not_mem_nil, or_false] at h
    rcases h with rfl | rfl
    · rintro (h | ⟨_, h⟩) <;> cases h
    · exact fun h => h 11 (by decide) rfl
  · exact ⟨rfl, .b, 0, ⟨⟨0, 0⟩, .read⟩, rfl, nofun, rfl, .inl ⟨rfl, rfl⟩⟩
  · intro c h
    simp only [List.mem_singleton] at h
    subst h
    rintro ⟨n, b, hb, -⟩
    have hb : (serving.slot n).body = some b := hb
    rw [serving_slot] at hb
    cases hb

theorem witness_GrowMakesPendingGrowth :
    serving.Receives .a .grow 1 ∧ serving.device = .ready ∧ (serving.port .a).inhibit = false ∧
    Instr.InRange (.grow .a 1 0 0 4) ∧ serving.dir.record (0 : Byte).toNat = ⟨0, .active region⟩ ∧
    region.ident.owner = .a ∧ region.freeze = .openLevel ∧ region.growth = none ∧
    serving.Fits (region.extent.first + region.extent.count) (4 : Half).toNat ∧ serving.OffersSlot .a 0 :=
  ⟨receives (by decide), rfl, rfl, by simp [Instr.InRange, RegionNumber], rfl, rfl, rfl, rfl,
    by simp only [State.Fits]; decide, offers (by decide)⟩

/-- The work of region 0 that reaches its tail from `count` units on (R58). -/
def tailWork (count : Nat) (b : SlotBody) : Bool :=
  decide (b.region = some ⟨0, 0⟩) && match b.work with
    | .program o _ => decide (count ≤ o / 8192)
    | .erase u c => decide (count < u + c)
    | .verify => true
    | _ => false

theorem tailWork_iff (count : Nat) (b : SlotBody) : tailWork count b = true ↔ b.region = some ⟨0, 0⟩ ∧
    ((∃ o d, b.work = .program o d ∧ count ≤ o / 8192) ∨ (∃ u c, b.work = .erase u c ∧ count < u + c) ∨
      b.work = .verify) := by
  cases h : b.work <;> simp [tailWork, h]

theorem witness_ShrinkScrubsTheTail :
    (serving.Receives .a .shrink 1 ∧ serving.device = .ready ∧ (serving.port .a).inhibit = false ∧
      Instr.InRange (.shrink .a 1 0 0 7 0) ∧ serving.dir.record (0 : Byte).toNat = ⟨0, .active region⟩ ∧
      region.ident.owner = .a ∧ (7 : Half).toNat < region.extent.count ∧ region.freeze = .openLevel ∧ region.growth = none ∧
      (∀ n, (serving.slot n).body = none) ∧ serving.dir.scrub.length < 8 ∧ serving.OffersSlot .a 0) ∧
    (∀ count b, tailWork count b = true ↔ b.region = some ⟨0, 0⟩ ∧
      ((∃ o d, b.work = .program o d ∧ count ≤ o / 8192) ∨ (∃ u c, b.work = .erase u c ∧ count < u + c) ∨
        b.work = .verify)) ∧
    (∃ s : State, s.Receives .a .shrink 1 ∧ s.device = .ready ∧ Instr.InRange (.shrink .a 1 0 0 1 1) ∧
      s.dir.record (0 : Byte).toNat = ⟨0, .active region⟩ ∧ (1 : Half).toNat < region.extent.count ∧
      s.dir.scrub.length = 7 ∧ s.OffersSlot .a 1 ∧ (s.slot 0).body = some (eraseSlot .queued) ∧
      tailWork 1 (eraseSlot .queued) = true ∧ s.sched.queue = [0] ∧
      ∀ n b, (s.slot n).body = some b → b.state ≠ .running ∧ b.state ≠ .suspended) := by
  refine ⟨⟨receives (by decide), rfl, rfl, by simp [Instr.InRange, RegionNumber], rfl, rfl, by decide, rfl, rfl,
    fun n => by rw [serving_slot], by decide, offers (by decide)⟩, tailWork_iff, ?_⟩
  refine ⟨{ waitingWork (eraseSlot .queued) with
      dir := { serving.dir with scrub := (List.range 7).map fun k => ⟨⟨200 + k, 1⟩, 0, false⟩ } },
    receives (by decide), rfl, by simp [Instr.InRange, RegionNumber], rfl, by decide, by decide, offers (by decide), rfl, rfl,
    rfl, fun n b h => ?_⟩
  have h : ((withSlot serving (eraseSlot .queued)).slot n).body = some b := h
  rw [withSlot_slot] at h
  split at h
  · cases h; exact ⟨nofun, nofun⟩
  · cases h

theorem witness_RetireScrubsTheRegion :
    (calm.Receives .a .retire 1 ∧ calm.device = .ready ∧ (calm.port .a).inhibit = false ∧
      Instr.InRange (.retire .a 1 0 0 0) ∧ calm.dir.record (0 : Byte).toNat = ⟨0, .active region⟩ ∧
      region.ident.owner = .a ∧ region.freeze = .openLevel ∧ region.growth = none ∧ (∀ n, (calm.slot n).body = none) ∧
      (∀ q h, calm.handle q h = .closed) ∧ calm.dir.scrub.length < 8 ∧ calm.OffersSlot .a 0) ∧
    (serving.Receives .a .retire 1 ∧ Instr.InRange (.retire .a 1 0 0 1) ∧ serving.handle .a 0 = .opened ⟨⟨0, 0⟩, .write⟩ ∧
      (∀ n, (serving.slot n).body = none) ∧ serving.OffersSlot .a 0) := by
  refine ⟨⟨receives (by decide), rfl, rfl, by simp [Instr.InRange, RegionNumber], rfl, rfl, rfl, rfl, fun n => ?_, calm_handle,
    by decide, offers (by decide)⟩, receives (by decide), by simp [Instr.InRange, RegionNumber], rfl, fun n => ?_,
    offers (by decide)⟩
  · change (serving.slot n).body = none
    rw [serving_slot]
  · rw [serving_slot]

theorem witness_GrantReplacesTheRights :
    (∀ v : Rights, calm.Receives .a .grant 1 ∧ calm.device = .ready ∧ (calm.port .a).inhibit = false ∧
      Instr.InRange (.grant .a 1 0 0 v.code 0) ∧ calm.dir.record (0 : Byte).toNat = ⟨0, .active region⟩ ∧
      region.ident.owner = .a ∧ (∀ q h, calm.handle q h = .closed) ∧ (∀ n, (calm.slot n).body = none) ∧
      calm.OffersSlot .a 0) ∧
    (∃ lost : Port → HandleInfo → Bool, (∀ q i, lost q i = true ↔ q ≠ .a ∧ i.region = ⟨0, 0⟩ ∧
        ((i.mode = .read ∧ Rights.none = .none) ∨ (i.mode ≠ .read ∧ Rights.none ≠ .readWrite))) ∧
      shared.Receives .a .grant 1 ∧ Instr.InRange (.grant .a 1 0 0 0 1) ∧ shared.OffersSlot .a 0 ∧
      (∀ n, (shared.slot n).body = none) ∧ shared.handle .b 0 = .opened ⟨⟨0, 0⟩, .read⟩ ∧
      lost .b ⟨⟨0, 0⟩, .read⟩ = true) := by
  have none : ∀ n, (serving.slot n).body = none := fun n => by rw [serving_slot]
  refine ⟨fun v => ⟨receives (by decide), rfl, rfl, ?_, rfl, rfl, calm_handle, none, offers (by decide)⟩,
    fun q i => decide (q ≠ .a ∧ i.region = ⟨0, 0⟩), fun q i => ?_, receives (by decide),
    by simp [Instr.InRange, RegionNumber], offers (by decide), none, rfl, by decide⟩
  · cases v <;> simp [Instr.InRange, RegionNumber, Rights.code]
  · cases h : i.mode <;> simp

theorem witness_OverridesInvalidateHandles :
    shared.handle .b 0 = .opened ⟨⟨0, 0⟩, .read⟩ ∧ shared.handle .a 0 = .closed := ⟨rfl, rfl⟩

theorem witness_HoldAndThawSetTheLevel :
    ((shared.Receives .a .hold 1 ∧ shared.device = .ready ∧ (shared.port .a).inhibit = false ∧
      Instr.InRange (.hold .a 1 0 0 0) ∧ shared.dir.record (0 : Byte).toNat = ⟨0, .active region⟩ ∧
      region.ident.owner = .a ∧ region.freeze = .openLevel ∧ (∀ n, (shared.slot n).body = none) ∧
      (∀ q h i, shared.handle q h = .opened i → i.mode = .read) ∧ shared.OffersSlot .a 0) ∧
     (serving.Receives .a .hold 1 ∧ Instr.InRange (.hold .a 1 0 0 1) ∧ (∀ n, (serving.slot n).body = none) ∧
      serving.handle .a 0 = .opened ⟨⟨0, 0⟩, .write⟩ ∧ serving.OffersSlot .a 0)) ∧
    (∀ l, l = Freeze.openLevel ∨ l = .held → (levelled l none).Receives .a .thaw 1 ∧ (levelled l none).device = .ready ∧
      ((levelled l none).port .a).inhibit = false ∧ Instr.InRange (.thaw .a 1 0 0) ∧
      (levelled l none).dir.record (0 : Byte).toNat = ⟨0, .active { region with freeze := l, growth := none }⟩ ∧
      (levelled l none).OffersSlot .a 0) := by
  have none : ∀ n, (serving.slot n).body = none := fun n => by rw [serving_slot]
  refine ⟨⟨⟨receives (by decide), rfl, rfl, by simp [Instr.InRange, RegionNumber], rfl, rfl, rfl, none, fun q h i hh => ?_,
    offers (by decide)⟩, receives (by decide), by simp [Instr.InRange, RegionNumber], none, rfl, offers (by decide)⟩, ?_⟩
  · rw [shared_handle] at hh
    split at hh
    · cases hh; rfl
    · cases hh
  · rintro l (rfl | rfl) <;>
      exact ⟨receives (by decide), rfl, rfl, by simp [Instr.InRange, RegionNumber], rfl, offers (by decide)⟩

theorem witness_FixQueuesItsScan :
    (levelled .held none).Receives .a .fix 1 ∧ (levelled .held none).device = .ready ∧
    ((levelled .held none).port .a).inhibit = false ∧ Instr.InRange (.fix .a 1 0 0) ∧
    (levelled .held none).dir.record (0 : Byte).toNat = ⟨0, .active { region with freeze := .held, growth := none }⟩ ∧
    region.ident.owner = .a ∧ (levelled .held none).OffersSlot .a 0 :=
  ⟨receives (by decide), rfl, rfl, by simp [Instr.InRange, RegionNumber], rfl, rfl, offers (by decide)⟩

theorem sparseGet_constant {α : Type} (d w : α) (v : Nat) : ∀ n a, a ≤ v → v < a + n →
    sparseGet d ((List.range' a n).map fun u => (u, w)) v = w
  | 0, a, h1, h2 => by omega
  | n + 1, a, h1, h2 => by
    rw [List.range'_succ, List.map_cons, sparseGet]
    split
    · rfl
    · exact sparseGet_constant d w v n (a + 1) (by omega) (by omega)

/-- A part in RECOVERY whose units all are WORN, with a readable sequence number in copy 0. -/
def worn : State :=
  { recovering with
    array := ⟨(List.range' 0 1024).map fun u => (u, ⟨true, 60000, false⟩), (List.range' 0 1024).map fun u =>
      (u, ⟨.worn, 60000, false⟩), []⟩
    store := ⟨.damaged (some 41), .blank, none, 0, some 41, false, .idle⟩ }

theorem witness_FormatStartsItsPass :
    (∃ s : State, s.Receives .a .format 1 ∧ s.device = .recovery ∧ (s.port .a).inhibit = false ∧ s.store.writer ≠ .fault ∧
      s.OffersSlot .a 0 ∧ (s.array.facts 1).fixedMark = false ∧ (s.array.facts 1).eraseCount < 60000 ∧
      ∀ v, v < 1 → (s.array.facts v).fixedMark = true ∨ 60000 ≤ (s.array.facts v).eraseCount) ∧
    (recovering.Receives .a .format 1 ∧ (recovering.array.facts 0).fixedMark = false ∧
      (recovering.array.facts 0).eraseCount < 60000) ∧
    (worn.Receives .a .format 1 ∧ worn.device = .recovery ∧ worn.store.writer ≠ .fault ∧ worn.OffersSlot .a 0 ∧
      (∀ v, v < 1024 → (worn.array.facts v).fixedMark = true ∨ 60000 ≤ (worn.array.facts v).eraseCount) ∧
      worn.store.highest = some 41 ∧ (41 : Word) ≠ 0xFFFFFFFF) ∧
    (∀ h, ∃ s : State, s.Receives .a .format 1 ∧ s.device = .recovery ∧ s.store.writer ≠ .fault ∧ s.OffersSlot .a 0 ∧
      s.array = worn.array ∧ s.store.highest = h) := by
  refine ⟨⟨{ recovering with array := ⟨[(0, ⟨true, 0, true⟩)], [(0, ⟨.good, 0, true⟩)], []⟩ }, receives (by decide), rfl, rfl,
      nofun, offers (by decide), rfl, by decide, by decide⟩,
    ⟨receives (by decide), rfl, by decide⟩,
    ⟨receives (by decide), rfl, nofun, offers (by decide), fun v h => .inr ?_, rfl, by decide⟩,
    fun h => ⟨{ worn with store := { worn.store with highest := h } }, receives ⟨rfl, rfl, nofun, rfl⟩, rfl, nofun,
      ⟨Nat.succ_pos _, rfl, nofun, Nat.succ_pos _⟩, rfl, rfl⟩⟩
  rw [ArrayState.facts, worn, sparseGet_constant _ _ v 1024 0 (by omega) (by omega)]

/-! ### Handles, data commands and tickets -/

/-- The part in service, port B's eight entries all open for READ on other regions' numbers. -/
def full : State := { calm with portB := listening (List.replicate 8 (.opened ⟨⟨9, 0⟩, .read⟩)) }

theorem full_handle (q : Port) (k : Nat) (j : HandleInfo) (h : full.handle q k = .opened j) : j = ⟨⟨9, 0⟩, .read⟩ := by
  cases q
  · have e : full.handle .a k = .closed := getD_replicate 8 k Handle.closed
    rw [e] at h; cases h
  · have e : full.handle .b k = ((List.replicate 8 (Handle.opened ⟨⟨9, 0⟩, .read⟩))[k]?).getD .closed :=
      List.getD_eq_getElem?_getD ..
    rw [e, List.getElem?_replicate] at h
    split at h
    · cases h; rfl
    · cases h

theorem calm_names : calm.NameLaw := ⟨serving_names.working, serving_names.images⟩

theorem witness_OpenTakesTheLowestEntry :
    (calm.Receives .a .openHandle 1 ∧ calm.loaded = true ∧ Instr.InRange (.openHandle .a 1 2 (.byName [0x41])) ∧
      Mode.code .exclusive = 2 ∧ (calm.port .a).inhibit = false ∧ calm.NameLaw ∧ calm.Selects (.byName [0x41]) ⟨0, 0⟩ ∧
      (calm.dir.record 0).body = .active region ∧ region.ident.owner = .a ∧ region.freeze = .openLevel ∧
      (∀ q k, calm.handle q k = .closed) ∧ 0 < (calm.port .a).handles.length) ∧
    (shared.Receives .a .openHandle 1 ∧ shared.Selects (.byReference 0 0) ⟨0, 0⟩ ∧ Mode.code .write = 1 ∧
      (∀ q k j, shared.handle q k = .opened j → j.mode = .read)) ∧
    (shared.Receives .b .openHandle 1 ∧ region.ident.rights ≠ .none ∧ 1 < (shared.port .b).handles.length ∧
      shared.handle .b 1 = .closed ∧ ∀ k, k < 1 → shared.handle .b k ≠ .closed) := by
  refine ⟨⟨receives (by decide), rfl, ⟨by decide, by unfold ValidName; decide⟩, rfl, rfl, calm_names,
      ⟨rfl, nofun, .inr ⟨_, rfl, rfl⟩⟩, rfl, rfl, rfl, calm_handle, by decide⟩,
    ⟨receives (by decide), ⟨rfl, nofun, .inl ⟨_, rfl, rfl⟩⟩, rfl, fun q k j h => ?_⟩, receives (by decide), nofun, by decide, rfl,
    by decide⟩
  rw [shared_handle] at h
  split at h
  · cases h; rfl
  · cases h

theorem recorded_names (b : RecordBody) : (recorded b).NameLaw := by
  have last : ∀ n x, ((recorded b).dir.record n).body.name = some x → n = 31 := by
    intro n x h
    have h : ((List.replicate 31 Record.blank ++ [Record.mk 7 b]).getD n Record.blank).body.name = some x := h
    rw [List.getD_eq_getElem?_getD] at h
    rcases Nat.lt_trichotomy n 31 with hn | hn | hn
    · rw [List.getElem?_append_left (by simpa using hn), List.getElem?_replicate, if_pos hn] at h
      cases h
    · exact hn
    · rw [List.getElem?_eq_none (by simp; omega)] at h
      cases h
  exact ⟨fun m n x h1 h2 => (last m x h1).trans (last n x h2).symm, serving_names.images⟩

theorem witness_OpenRefusalsInOrder :
    (∀ b m, (recorded b).Receives .b .openHandle 1 ∧ (recorded b).loaded = true ∧
      Instr.InRange (.openHandle .b 1 (Mode.code m) (.byReference 31 7)) ∧ ((recorded b).port .b).inhibit = false ∧
      (recorded b).NameLaw ∧ (recorded b).dir.record 31 = ⟨7, b⟩) ∧
    (∀ b, b ≠ .free → (recorded b).Selects (.byReference 31 7) ⟨31, 7⟩) ∧
    (∀ ref, ¬ (recorded .free).Selects (.byReference 31 7) ref) ∧
    (serving.NameLaw ∧ Instr.InRange (.openHandle .b 1 0 (.byName [0x41])) ∧ serving.Selects (.byName [0x41]) ⟨0, 0⟩ ∧
      Instr.InRange (.openHandle .b 1 0 (.byName [0x42])) ∧ ∀ ref, ¬ serving.Selects (.byName [0x42]) ref) ∧
    (∀ a, RecordBody.retiring region.ident ≠ .active a) ∧
    (region.ident.owner ≠ .b ∧ Mode.write ≠ .read ∧ region.ident.rights = .read) ∧
    (∃ a : Region, a.ident.owner = .b ∧ a.freeze ≠ .openLevel) ∧
    (serving.Receives .b .openHandle 1 ∧ serving.handle .a 0 = .opened ⟨⟨0, 0⟩, .write⟩ ∧
      serving.dir.record (0 : Byte).toNat = ⟨0, .active region⟩ ∧
      ∃ s : State, s.handle .a 0 = .opened ⟨⟨0, 0⟩, .exclusive⟩ ∧ s.Receives .b .openHandle 1 ∧ region.ident.rights ≠ .none) ∧
    (full.Receives .b .openHandle 1 ∧ full.loaded = true ∧ full.dir.record (0 : Byte).toNat = ⟨0, .active region⟩ ∧
      (∀ q k j, full.handle q k = .opened j → j.region ≠ ⟨0, 0⟩) ∧
      ∀ k, k < (full.port .b).handles.length → full.handle .b k ≠ .closed) := by
  refine ⟨fun b m => ⟨receives ⟨rfl, rfl, nofun, rfl⟩, rfl, ?_, rfl, recorded_names b, rfl⟩,
    fun b h => ⟨rfl, h, .inl ⟨_, rfl, rfl⟩⟩, ?_, ⟨serving_names, ⟨by decide, by unfold ValidName; decide⟩,
      ⟨rfl, nofun, .inr ⟨_, rfl, rfl⟩⟩, ⟨by decide, by unfold ValidName; decide⟩, ?_⟩, nofun, ⟨nofun, nofun, rfl⟩,
    ⟨{ region with ident := { region.ident with owner := .b }, freeze := .held }, rfl, nofun⟩,
    ⟨receives (by decide), rfl, rfl, { serving with portA := listening [.opened ⟨⟨0, 0⟩, .exclusive⟩] }, rfl,
      receives (by decide), nofun⟩,
    receives (by decide), rfl, rfl, fun q k j h => ?_, by decide⟩
  · cases m <;> simp [Instr.InRange, RegionNumber, Mode.code]
  · rintro ⟨n, g⟩ ⟨h1, h2, ⟨r, h3, h4⟩ | ⟨_, h3, -⟩⟩
    · cases h3
      rw [h4] at h2
      exact h2 rfl
    · cases h3
  · rintro ⟨n, g⟩ ⟨h1, h2, ⟨_, h3, -⟩ | ⟨_, h3, h4⟩⟩
    · cases h3
    · cases h3
      rw [serving_record] at h4
      split at h4 <;> cases h4
  · rw [full_handle q k j h]; decide

theorem witness_CloseFreesTheEntry :
    (serving.Receives .a .close 1 ∧ serving.loaded = true ∧ (7 : Byte).toNat ≤ 7 ∧ serving.handle .a (7 : Byte).toNat = .closed) ∧
    (serving.handle .a (0 : Byte).toNat ≠ .closed ∧ ∀ n, (serving.slot n).body = none) ∧
    ((waitingWork (eraseSlot .queued)).Receives .a .close 1 ∧
      (waitingWork (eraseSlot .queued)).handle .a (0 : Byte).toNat ≠ .closed ∧
      ∃ b, ((waitingWork (eraseSlot .queued)).slot 0).body = some b ∧ b.port = some .a ∧ b.handle = some (0 : Byte).toNat ∧
        b.state.finished = false) :=
  ⟨⟨receives (by decide), rfl, by decide, rfl⟩, ⟨nofun, fun n => by rw [serving_slot]⟩, receives (by decide), nofun, _, rfl,
    rfl, rfl, rfl⟩

theorem witness_HandleAndTicketRefusals :
    (Instr.request (.program .b 1 7 0 [0]) = some (.b, 1, .program, [7, 0, 0, 0, 0, 0]) ∧
      Instr.handleUsed (.program .b 1 7 0 [0]) = some 7 ∧ serving.Receives .b .program 1 ∧ serving.loaded = true ∧
      (serving.port .b).inhibit = false ∧ Instr.InRange (.program .b 1 7 0 [0]) ∧
      serving.handle .b (7 : Byte).toNat = .closed) ∧
    (∃ s : State, s.Receives .b .program 1 ∧ s.loaded = true ∧ (s.port .b).inhibit = false ∧
      s.handle .b (7 : Byte).toNat = .stale ⟨⟨0, 0⟩, .read⟩) ∧
    (∃ s : State, s.Receives .b .program 1 ∧ s.loaded = true ∧ (s.port .b).inhibit = false ∧
      s.handle .b (7 : Byte).toNat = .opened ⟨⟨0, 0⟩, .read⟩) ∧
    (Instr.request (.collect .b 1 11 15) = some (.b, 1, .collect, [11, 15]) ∧
      Instr.ticketUsed (.collect .b 1 11 15) = some (11, 15) ∧ Instr.InRange (.collect .b 1 11 15) ∧
      serving.Receives .b .collect 1 ∧ serving.device ≠ .starting ∧ (serving.slot (11 : Byte).toNat).body = none) ∧
    ((crowded 12).Receives .b .collect 1 ∧ ((crowded 12).slot (11 : Byte).toNat).useCount = (15 : Byte).setWidth 4 ∧
      ∃ b, ((crowded 12).slot (11 : Byte).toNat).body = some b ∧ b.port ≠ some .b) := by
  refine ⟨⟨rfl, rfl, receives (by decide), rfl, rfl, by simp [Instr.InRange], rfl⟩,
    ⟨{ serving with portB := listening (List.replicate 7 .closed ++ [.stale ⟨⟨0, 0⟩, .read⟩]) }, receives (by decide), rfl, rfl,
      rfl⟩,
    ⟨{ serving with portB := listening (List.replicate 7 .closed ++ [.opened ⟨⟨0, 0⟩, .read⟩]) }, receives (by decide), rfl, rfl,
      rfl⟩,
    ⟨rfl, rfl, by simp [Instr.InRange], receives (by decide), nofun, rfl⟩, receives (by decide), rfl, _, rfl, nofun⟩

theorem witness_DataWorkJoinsTheQueue :
    serving.loaded = true ∧ serving.handle .a (0 : Byte).toNat = .opened ⟨⟨0, 0⟩, .write⟩ ∧ (0 : Byte).toNat ≤ 7 ∧
    (⟨100, 8⟩ : Extent) = serving.dir.extentOf 0 ∧ serving.Receives .a .verify 1 ∧ serving.OffersSlot .a 0 ∧
    serving.Receives .a .program 1 ∧ (serving.port .a).inhibit = false ∧ Mode.write ≠ .read ∧
    (∀ n, n = 1 ∨ n = 512 → 1 ≤ (List.replicate n (0 : Byte)).length ∧ (List.replicate n (0 : Byte)).length ≤ 512 ∧
      (65536 - 512 : Word).toNat + (List.replicate n (0 : Byte)).length ≤ 8 * 8192 ∧
      (65536 - 512 : Word).toNat / 512 = ((65536 - 512 : Word).toNat + (List.replicate n (0 : Byte)).length - 1) / 512) ∧
    (8 * 8192 < (65535 : Word).toNat + [(0 : Byte), 0].length ∧
      (511 : Word).toNat / 512 ≠ ((511 : Word).toNat + [(0 : Byte), 0].length - 1) / 512) ∧
    serving.Receives .a .erase 1 ∧
    ((0 : Half).toNat ≤ 1023 ∧ 1 ≤ (8 : Half).toNat ∧ (8 : Half).toNat ≤ 1024 ∧ (0 : Half).toNat + (8 : Half).toNat ≤ 8) ∧
    ((1023 : Half).toNat ≤ 1023 ∧ (1024 : Half).toNat ≤ 1024 ∧ 8 < (1023 : Half).toNat + (1024 : Half).toNat) := by
  refine ⟨rfl, rfl, by decide, rfl, receives (by decide), offers (by decide), receives (by decide), rfl, nofun, ?_, by decide,
    receives (by decide), by decide, by decide⟩
  rintro n (rfl | rfl) <;> rw [List.length_replicate] <;> decide

/-- The part in service with an activity on the array. -/
def working (b : SlotBody) (x : Activity) : State :=
  { withSlot serving b with sched := { Scheduler.empty with activity := x } }

theorem witness_ReadIsDecidedByTheActivity :
    (serving.Receives .a .read 1 ∧ serving.loaded = true ∧ Instr.InRange (.read .a 1 0 65535 1) ∧
      serving.handle .a (0 : Byte).toNat = .opened ⟨⟨0, 0⟩, .write⟩ ∧ (⟨100, 8⟩ : Extent) = serving.dir.extentOf 0 ∧
      (65535 : Word).toNat + (1 : Half).toNat ≤ 8 * 8192 ∧ 8 * 8192 < (65535 : Word).toNat + (2 : Half).toNat ∧
      serving.sched.activity = .idle) ∧
    (∀ b x, (working b x).Receives .a .read 1 ∧ (working b x).loaded = true ∧ (working b x).sched.activity = x ∧
      (working b x).handle .a (0 : Byte).toNat = .opened ⟨⟨0, 0⟩, .write⟩ ∧ (⟨100, 8⟩ : Extent) = (working b x).dir.extentOf 0) ∧
    (Instr.InRange (.read .a 1 0 8191 4096) ∧ (8191 : Word).toNat + (4096 : Half).toNat ≤ 8 * 8192 ∧
      (run 100).unit = (100 * 8192 + (8191 : Word).toNat) / 8192 ∧
      (run 101).unit = (100 * 8192 + (8191 : Word).toNat + (4096 : Half).toNat - 1) / 8192 ∧
      ∀ u, u = 99 ∨ u = 102 → u ≠ (100 * 8192 + (8191 : Word).toNat) / 8192 ∧
        u ≠ (100 * 8192 + (8191 : Word).toNat + (4096 : Half).toNat - 1) / 8192) ∧
    (∃ r : EraseRun, r.unit = 102 ∧ r.suspended = false ∧ r.suspensions = 23 ∧ r.sliceDone = true ∧ r.markWriting = false) ∧
    (∃ r : EraseRun, r.unit = 102 ∧ r.suspended = false ∧ 24 ≤ r.suspensions) :=
  ⟨⟨receives (by decide), rfl, by simp [Instr.InRange], rfl, rfl, by decide, by decide, rfl⟩,
    fun b x => ⟨receives ⟨rfl, rfl, nofun, rfl⟩, rfl, rfl, rfl, rfl⟩,
    ⟨by simp [Instr.InRange], by decide, by decide, by decide, by rintro u (rfl | rfl) <;> decide⟩,
    ⟨{ run 102 with suspensions := 23, sliceDone := true }, rfl, rfl, rfl, rfl, rfl⟩,
    ⟨{ run 102 with suspensions := 24 }, rfl, rfl, by decide⟩⟩

theorem witness_QueryAndCollectAnswer :
    ((11 : Byte).toNat ≤ 11 ∧ (15 : Byte).toNat ≤ 15 ∧ (crowded 12).device ≠ .starting ∧
      ((crowded 12).slot (11 : Byte).toNat).body = ended.body ∧
      ((crowded 12).slot (11 : Byte).toNat).useCount = (15 : Byte).setWidth 4 ∧
      (∃ b, ended.body = some b ∧ b.port = some .a ∧ b.region = some ⟨0, 0⟩ ∧ b.state = .doneOk ∧ b.state.finished = true) ∧
      (crowded 12).Receives .a .query 1 ∧ (crowded 12).Receives .a .collect 1) ∧
    (∀ st, (working (eraseSlot st) .idle).Receives .a .collect 1 ∧
      ((working (eraseSlot st) .idle).slot (0 : Byte).toNat).body = some (eraseSlot st) ∧
      ((working (eraseSlot st) .idle).slot (0 : Byte).toNat).useCount = (0 : Byte).setWidth 4) ∧
    SlotState.running.finished = false ∧ (∃ b : SlotBody, b.region = none ∧ b.state = .doneFail .arrayFault) :=
  ⟨⟨by decide, by decide, nofun, rfl, rfl, ⟨_, rfl, rfl, rfl, rfl, rfl⟩, receives (by decide), receives (by decide)⟩,
    fun st => ⟨receives ⟨rfl, rfl, nofun, rfl⟩, rfl, rfl⟩, rfl,
    ⟨⟨.doneFail .arrayFault, some .a, .format, none, none, none, 0, 0, none, none⟩, rfl, rfl⟩⟩

theorem witness_CancelActsByTheSlot :
    (∀ b x, (working b x).Receives .a .cancel 1 ∧ (working b x).loaded = true ∧
      ((working b x).slot (0 : Byte).toNat).body = some b ∧
      ((working b x).slot (0 : Byte).toNat).useCount = (0 : Byte).setWidth 4 ∧ (working b x).sched.activity = x ∧
      (working b x).dir.record 0 = ⟨0, .active region⟩) ∧
    (∀ st, (eraseSlot st).port = some .a ∧ (fixSlot st).port = some .a ∧ (verifySlot st).port = some .a ∧
      (programSlot st).port = some .a ∧ (eraseSlot st).state = st ∧ (eraseSlot st).work ≠ .fix ∧ (fixSlot st).work = .fix ∧
      (verifySlot st).work = .verify) ∧
    (fixSlot .queued).region = some ⟨0, 0⟩ ∧
    (∃ r : ScanRun, r.slot = (0 : Byte).toNat) ∧ (∃ r : MarkRun, r.slot = (0 : Byte).toNat) ∧
    SlotState.isWaitDir (.waitDir none) = true ∧ SlotState.finished .doneOk = true :=
  ⟨fun b x => ⟨receives ⟨rfl, rfl, nofun, rfl⟩, rfl, rfl, rfl, rfl, rfl⟩, fun st => ⟨rfl, rfl, rfl, rfl, rfl, nofun, rfl, rfl⟩,
    rfl, ⟨⟨0, ⟨100, 8⟩, 0, 0, none⟩, rfl⟩, ⟨⟨0, ⟨100, 8⟩, 0⟩, rfl⟩, rfl, rfl⟩

/-! ### The link, the writer and the array -/

theorem witness_LinkEventsMoveTheFraming :
    ((State.reset.port .a).selectLow = false ∧ State.reset.device = .starting) ∧
    (∃ s : State, (s.port .a).selectLow = false ∧ s.device = .ready) ∧
    (∃ s : State, (s.port .a).selectLow = false ∧ s.device = .inReset) ∧
    (∃ s : State, (s.port .a).framing = .executing (.read .a 1 0 0 1)) ∧
    (∀ i, (serving.port .a).framing ≠ .executing i) ∧
    ((after (.identify .a 1) serving).port .a).framing = .responding ⟨.ok, 1, false, false, false,
      [0x54, 0x08, 0xD2, 1, 0, 0x04, 0x00, 0x20, 0x00, 0x02, 0x00, 32, 8, 12, 8, 0xEA, 0x60]⟩ :=
  ⟨⟨rfl, rfl⟩, ⟨{ State.reset with device := .ready }, rfl, rfl⟩, ⟨{ State.reset with device := .inReset }, rfl, rfl⟩,
    ⟨{ serving with portA := { serving.portA with framing := .executing (.read .a 1 0 0 1) } }, rfl⟩, fun _ => nofun, by decide⟩

/-- The part in service with its writer WRITING, the attempt given. -/
def writing (attempt : Nat) (format : Bool) : State :=
  { servingAs (if format then .formatting else .ready) with
    store := ⟨.complete image, .blank, some .copy0, 1, some 1, false,
      .writing ⟨Image.sealed { image with sequence := 2 }, .copy1, attempt, serving.dir.records, format⟩⟩ }

theorem witness_ChangesStartAWrite :
    (writing 1 false).store.writer ≠ .idle ∧ (serving.store.writer = .idle ∧ serving.store.durable ≠ 0xFFFFFFFF) ∧
    (∃ s : State, s.store.writer = .idle ∧ s.store.durable = 0xFFFFFFFF) ∧
    (∃ s : State, s.dir.records[0]? = some ⟨0, .active { region with freeze := .fixing }⟩ ∧
      s.fixWord ⟨0, 0⟩ = some 0xCBF43926 ∧ ((s.capture 2).records[0]?).isSome = true) ∧
    (∃ s : State, s.dir.records[0]? = some ⟨0, .active { region with freeze := .fixing }⟩ ∧ s.fixWord ⟨0, 0⟩ = none) ∧
    (∀ b, (recorded b).dir.records[31]? = some ⟨7, b⟩ ∧ ((recorded b).capture 2).records.length = 32) := by
  refine ⟨nofun, ⟨rfl, by decide⟩, ⟨{ serving with store := { serving.store with durable := 0xFFFFFFFF } }, rfl, rfl⟩,
    ⟨withSlot (levelled .fixing none) { fixSlot (.waitDir none) with value := some 0xCBF43926 }, rfl, by decide, by decide⟩,
    ⟨levelled .fixing none, rfl, by decide⟩, fun b => ⟨rfl, ?_⟩⟩
  simp only [State.capture, Image.sealed_records, List.length_mapIdx]
  rfl

theorem witness_FailedAttemptsRepeatOrDegrade : ∀ n f, ∃ job, (writing n f).store.writer = .writing job ∧ job.attempt = n :=
  fun _ f => by cases f <;> exact ⟨_, rfl, rfl⟩

/-- The part in service with record 31 as given and slot 0 of a CREATE, the write of record 31's creation in flight or
complete. -/
def creating (b : RecordBody) (st : SlotState) (store : Store) : State :=
  { withSlot (recorded b) ⟨st, some .a, .create, none, some ⟨31, 7⟩, none, 0, 0, none, none⟩ with store := store }

/-- That write: record 31 PENDING at the capture. -/
def creation : WriteJob :=
  ⟨Image.sealed ⟨2, List.replicate 31 ⟨0, none⟩ ++ [⟨7, some ⟨region.ident, ⟨200, 4⟩, .openLevel⟩⟩], [], [], 0⟩, .copy1, 1,
    (recorded (.pending region.ident ⟨200, 4⟩)).dir.records, false⟩

theorem witness_CompletedWritesSettleTheDirectory :
    (∃ (s u : State) (job : WriteJob), s.store.writer = .writing job ∧ job.format = false ∧
      u = { s with
        store := { s.store.setCopy job.target (.complete job.image) with
          current := some job.target, durable := job.image.sequence, writer := .idle }
        dir := u.dir
        slots := u.slots } ∧
      u.dir.records.length = s.dir.records.length ∧ u.dir.withdrawn = s.dir.withdrawn ∧
      u.dir.scrub = s.dir.scrub.map (fun f => if f.extent ∈ job.image.scrub then { f with eligible := true } else f) ∧
      (∀ n r c x, s.dir.records[n]? = some r → c = job.captured.getD n ⟨0, .free⟩ →
        x = job.image.records.getD n ⟨0, none⟩ →
        u.dir.records[n]? = some (match c.body, r.body with
          | .pending _ _, .pending d e => ⟨r.generation, .active ⟨d, e, none, .openLevel⟩⟩
          | .retiring _, .retiring _ => ⟨r.generation + 1, .free⟩
          | .active old, .active a => ⟨r.generation, .active { a with
              extent := if old.growth.isSome then ⟨a.extent.first, a.extent.count + a.growth.getD 0⟩ else a.extent
              growth := if old.growth.isSome then none else a.growth
              freeze := match a.freeze, x.region.map DurableRegion.freeze with
                | .fixing, some (.fixed w) => .fixed w
                | l, _ => l }⟩
          | _, _ => r)) ∧
      u.slots = s.slots.map (fun x => match x.body with
        | some b => if b.state = .waitDir (some job.image.sequence) then Slot.endedAs x.useCount b .doneOk else x
        | none => x) ∧ u.slots ≠ s.slots) ∧
    ∃ job, (writing 1 true).store.writer = .writing job ∧ job.format = true := by
  refine ⟨⟨creating (.pending region.ident ⟨200, 4⟩) (.waitDir (some 2))
      ⟨.complete image, .blank, some .copy0, 1, some 1, false, .writing creation⟩,
    creating (.active ⟨region.ident, ⟨200, 4⟩, none, .openLevel⟩) .doneOk
      ⟨.complete image, .complete creation.image, some .copy1, 2, some 1, false, .idle⟩,
    creation, rfl, rfl, rfl, rfl, rfl, rfl, ?_, by decide, by decide⟩, _, rfl, rfl⟩
  intro n r c x h1 h2 _
  have h1 : (List.replicate 31 Record.blank ++ [⟨7, .pending region.ident ⟨200, 4⟩⟩])[n]? = some r := h1
  have hn : n < 32 := by
    obtain ⟨a, -⟩ := List.getElem?_eq_some_iff.1 h1
    simpa using a
  rcases Nat.lt_succ_iff_lt_or_eq.1 hn with hn | rfl
  · have e : c = Record.blank := by
      rw [h2]
      change (List.replicate 31 Record.blank ++ _).getD n Record.blank = _
      rw [List.getD_eq_getElem?_getD, List.getElem?_append_left (by simpa using hn), List.getElem?_replicate, if_pos hn]
      rfl
    rw [List.getElem?_append_left (by simpa using hn), List.getElem?_replicate, if_pos hn] at h1
    cases h1
    rw [e]
    change (List.replicate 31 Record.blank ++ _)[n]? = _
    rw [List.getElem?_append_left (by simpa using hn), List.getElem?_replicate, if_pos hn]
  · cases h1
    rw [h2]
    rfl

/-- The part in service, its array idle, its queue and scrub list as given, slot 0 filled. -/
def offering (b : SlotBody) (queue : List Nat) (scrub : List ScrubExtent) (array : ArrayState) : State :=
  { withSlot serving b with
    array := array
    dir := { serving.dir with scrub := scrub }
    sched := { Scheduler.empty with queue := queue } }

theorem witness_OffersFollowTheOrder :
    (erasing.sched.activity ≠ .idle ∧ recovering.loaded = false) ∧
    (∀ b q e array, (offering b q e array).sched.activity = .idle ∧ (offering b q e array).loaded = true ∧
      (offering b q e array).sched.waiters = [] ∧ (offering b q e array).sched.queue = q ∧
      ((offering b q e array).slot 0).body = some b ∧ 0 < (offering b q e array).slots.length ∧
      (offering b q e array).dir.scrub = e ∧ (offering b q e array).array = array) ∧
    ((offering (programSlot .queued) [0] [] .factory).startChecks (programSlot .queued) = true ∧
      (ArrayState.factory.facts 100).condition ≠ .incomplete ∧
      ((ArrayState.factory.eraseStart 100).facts 100).condition = .incomplete) ∧
    ((offering (eraseSlot .queued) [0] [] .factory).startChecks (eraseSlot .queued) = true ∧
      (ArrayState.factory.facts 100).eraseCount < 60000 ∧
      60000 ≤ ((ArrayState.factory.writeHeader 100 ⟨true, 60000, false⟩).facts 100).eraseCount) ∧
    (∀ progress withdrawn array, ∃ s : State, s.sched.activity = .idle ∧ s.loaded = true ∧ s.sched.waiters = [] ∧
      s.sched.queue = [] ∧ s.dir.withdrawn = withdrawn ∧ s.array = array ∧
      s.dir.scrub[1]? = some ⟨⟨1022, 2⟩, progress, true⟩ ∧
      ∀ (j : Nat) (g : ScrubExtent), j < 1 → s.dir.scrub[j]? = some g → g.eligible = false) ∧
    (2 ≤ 2 ∧ (ArrayState.factory.facts 1023).eraseCount < 60000 ∧ 1022 ∈ [1022] ∧ 1022 ∉ [1023] ∧
      60000 ≤ ((ArrayState.factory.writeHeader 1022 ⟨true, 60000, false⟩).facts 1022).eraseCount ∧ 0 + 1 < 2 ∧
      2 = 1 + 1) := by
  refine ⟨⟨nofun, rfl⟩, fun b q e array => ⟨rfl, rfl, rfl, rfl, rfl, Nat.succ_pos _, rfl, rfl⟩,
    ⟨by decide, by decide, by decide⟩, ⟨by decide, by decide, by decide⟩, fun progress withdrawn array => ?_, by decide⟩
  refine ⟨{ offering (eraseSlot .doneOk) [] [] array with
      dir := ⟨serving.dir.records, [⟨⟨0, 4⟩, 0, false⟩, ⟨⟨1022, 2⟩, progress, true⟩], withdrawn⟩ },
    rfl, rfl, rfl, rfl, rfl, rfl, rfl, fun j g h h2 => ?_⟩
  have : j = 0 := by omega
  subst this
  cases h2
  rfl

/-- An array with a WORN, a marked and a used unit, and one programmed byte. -/
def used : ArrayState :=
  ⟨[(0, ⟨true, 60000, false⟩), (1023, ⟨true, 1, true⟩)], [(0, ⟨.worn, 60000, false⟩), (1023, ⟨.good, 1, true⟩)], [(8191, 0xF0)]⟩

theorem witness_ArrayOperationsOnAUnit :
    Memory.wf used.data = true ∧ sparseWf Header.factory used.headers = true ∧
    sparseWf UnitFacts.factory used.map = true := by decide

theorem witness_ProgramsEnd :
    (working (programSlot .running) (.program 0 819200)).sched.activity = .program 0 819200 ∧
    0 < (working (programSlot .running) (.program 0 819200)).slots.length ∧
    ((working (programSlot .running) (.program 0 819200)).slot 0).body = some (programSlot .running) ∧
    (programSlot .running).work = .program 0 [0xF0] ∧
    Memory.wf (working (programSlot .running) (.program 0 819200)).array.data = true ∧
    (∀ landed : Bool, ∃ final : ArrayState, Memory.wf final.data = true ∧ final.headers = ArrayState.factory.headers ∧
      final.map = ArrayState.factory.map ∧ ∀ x, final.byte x = if 819200 ≤ x ∧ x < 819200 + 1 ∧ landed = true
        then ArrayState.factory.byte x &&& [(0xF0 : Byte)].getD (x - 819200) 0 else ArrayState.factory.byte x) := by
  refine ⟨rfl, by decide, rfl, rfl, rfl, fun landed => ?_⟩
  refine ⟨⟨[], [], if landed then [(819200, 0xF0)] else []⟩, by cases landed <;> rfl, rfl, rfl, fun x => ?_⟩
  cases landed
  · simp [ArrayState.byte, sparseGet]
  · by_cases h : 819200 = x
    · subst h; decide
    · simp [ArrayState.byte, sparseGet, h]; intros; omega

theorem witness_SlotErasesEnd :
    (∀ u done c, ∃ s : State, s.sched.activity = .erase (.slot 0) (run u) ∧ (run u).suspended = false ∧ 0 < s.slots.length ∧
      ∃ b, (s.slot 0).body = some b ∧ b.work = .erase 0 c ∧ b.progress = done) ∧
    (erasing.sched.activity = .erase (.slot 0) (run 100) ∧ (eraseSlot .running).progress + 1 < 2) ∧
    2 ≤ 1 + 1 :=
  ⟨fun u done c => ⟨{ withSlot serving { eraseSlot .running with work := .erase 0 c, progress := done } with
      sched := { Scheduler.empty with activity := .erase (.slot 0) (run u) } }, rfl, rfl, Nat.succ_pos _, _, rfl, rfl, rfl⟩,
    ⟨rfl, by decide⟩, by decide⟩

/-- A FORMAT pass that erases the unit given, over the headers given. -/
def formatting (unit : Nat) (headers : List (Nat × Header)) (highest : Option Word) : State :=
  { servingAs .formatting with
    array := ⟨headers, headers.map fun c => (c.1, c.2.facts), []⟩
    store := ⟨.damaged highest, .blank, none, 0, highest, false, .idle⟩
    slots := [⟨0, some ⟨.running, some .a, .format, none, none, none, unit, 0, none, none⟩⟩]
    sched := { Scheduler.empty with activity := .erase (.format 0) (run unit) } }

theorem witness_ScrubAndFormatErasesEnd :
    (∀ progress array, ∃ s : State, s.sched.activity = .erase .scrub (run 1) ∧ (run 1).suspended = false ∧
      s.array = array ∧ s.dir.scrub[1]? = some ⟨⟨0, 4⟩, progress, true⟩ ∧
      ∀ (j : Nat) (g : ScrubExtent), j < 1 → s.dir.scrub[j]? = some g → g.eligible = false) ∧
    (1 + 1 < 4 ∧ 4 ≤ 3 + 1) ∧
    (((ArrayState.factory.eraseStart 1).eraseDone 1).facts 1).eraseCount < 60000 ∧
    (∃ array : ArrayState, 60000 ≤ ((array.eraseDone 1).facts 1).eraseCount) ∧
    (placed.PlaceLaw ∧ placed.dir.scrub[0]? = some ⟨⟨0, 4⟩, 2, true⟩ ∧ Extent.contains ⟨0, 4⟩ 3 = true ∧
      3 ∉ placed.dir.withdrawn) ∧
    (∀ u l h, (formatting u l h).sched.activity = .erase (.format 0) (run u) ∧ (run u).suspended = false ∧
      0 < (formatting u l h).slots.length ∧ (∃ b, ((formatting u l h).slot 0).body = some b) ∧
      (formatting u l h).store.highest = h) ∧
    (1021 < 1024 ∧ (((formatting 1021 [(1022, ⟨true, 0, true⟩)] none).array.eraseDone 1021).facts 1022).fixedMark = true ∧
      (((formatting 1021 [(1022, ⟨true, 0, true⟩)] none).array.eraseDone 1021).facts 1023).fixedMark = false ∧
      (((formatting 1021 [(1022, ⟨true, 0, true⟩)] none).array.eraseDone 1021).facts 1023).eraseCount < 60000) ∧
    (60000 ≤ (((formatting 1023 [(1023, ⟨true, 60000, false⟩)] (some 41)).array.eraseDone 1023).facts 1023).eraseCount ∧
      1023 < 1024 ∧ ∀ v, 1023 < v → ¬ v < 1024) := by
  refine ⟨fun progress array => ⟨{ placed with
      array := array
      dir := { placed.dir with scrub := [⟨⟨200, 4⟩, 0, false⟩, ⟨⟨0, 4⟩, progress, true⟩] }
      sched := { Scheduler.empty with activity := .erase .scrub (run 1) } }, rfl, rfl, rfl, rfl, fun j g h h2 => ?_⟩,
    by decide, by decide, ⟨ArrayState.factory.writeHeader 1 ⟨true, 60000, false⟩, by decide⟩,
    ⟨placed_place, rfl, by decide, by decide⟩, fun u l h => ⟨rfl, rfl, Nat.succ_pos _, ⟨_, rfl⟩, rfl⟩, by decide,
    ⟨by decide, by decide, fun v h h2 => by omega⟩⟩
  have : j = 0 := by omega
  subst this
  cases h2
  rfl

theorem witness_MarkWritesEnd :
    (∀ k, (working (fixSlot .running) (.mark ⟨0, ⟨100, 8⟩, k⟩)).sched.activity = .mark ⟨0, ⟨100, 8⟩, k⟩ ∧
      0 < (working (fixSlot .running) (.mark ⟨0, ⟨100, 8⟩, k⟩)).slots.length ∧
      ((working (fixSlot .running) (.mark ⟨0, ⟨100, 8⟩, k⟩)).slot 0).body = some (fixSlot .running) ∧
      (working (fixSlot .running) (.mark ⟨0, ⟨100, 8⟩, k⟩)).store.writer ≠ .fault ∧
      (working (fixSlot .running) (.mark ⟨0, ⟨100, 8⟩, k⟩)).dir.record (fixSlot .running).regionNumber = ⟨0, .active region⟩) ∧
    (∃ s : State, s.sched.activity = .mark ⟨0, ⟨100, 8⟩, 7⟩ ∧ s.store.writer = .fault ∧ 0 < s.slots.length ∧
      (s.slot 0).body = some (fixSlot .running)) ∧
    (6 + 1 < 8 ∧ 8 ≤ 7 + 1) ∧
    (∀ landed : Bool, ∀ a, a = (if landed = true then used.markUnit 1023 else used) →
      ∃ v, v < 8 ∧ (a.facts (1016 + v)).fixedMark = true) ∧
    (∀ v, v < 8 → (ArrayState.factory.facts (100 + v)).fixedMark = false) := by
  refine ⟨fun k => ⟨rfl, Nat.succ_pos _, rfl, nofun, rfl⟩,
    ⟨{ working (fixSlot .running) (.mark ⟨0, ⟨100, 8⟩, 7⟩) with store := { serving.store with writer := .fault } }, rfl, rfl,
      by decide, rfl⟩, by decide, ?_, fun v _ => rfl⟩
  rintro landed a rfl
  cases landed <;> exact ⟨7, by decide, by decide⟩

theorem witness_ScanStepsEnd :
    (∀ b c k, (working b (.scan ⟨0, ⟨100, 8⟩, k, 0xFFFFFFFF, c⟩)).sched.activity = .scan ⟨0, ⟨100, 8⟩, k, 0xFFFFFFFF, c⟩ ∧
      0 < (working b (.scan ⟨0, ⟨100, 8⟩, k, 0xFFFFFFFF, c⟩)).slots.length ∧
      ((working b (.scan ⟨0, ⟨100, 8⟩, k, 0xFFFFFFFF, c⟩)).slot 0).body = some b) ∧
    (6 + 1 < 8 ∧ 8 ≤ 7 + 1) ∧ (verifySlot .running).work = .verify ∧ (fixSlot .running).work = .fix :=
  ⟨fun _ _ _ => ⟨rfl, Nat.succ_pos _, rfl⟩, by decide, rfl, rfl⟩

/-- The erase of unit 102 in a state of its run, with the READs that wait. -/
def suspendable (owner : EraseOwner) (r : EraseRun) (waiters : List ReadWait) : State :=
  { withSlot serving (eraseSlot .running) with sched := { Scheduler.empty with activity := .erase owner r, waiters := waiters } }

theorem witness_SuspensionsServeReads :
    (∀ o r w, (suspendable o r w).sched.activity = .erase o r ∧ (suspendable o r w).sched.waiters = w ∧
      (suspendable o r w).pending = []) ∧
    ((run 102).suspended = false ∧ (run 102).suspensions < 24 ∧ (run 102).markWriting = false) ∧
    (∃ r : EraseRun, r.suspended = false ∧ 24 ≤ r.suspensions) ∧ (∃ r : EraseRun, r.suspended = true) ∧
    ([⟨.a, 1, 819200, 1⟩] : List ReadWait) ≠ [] ∧ (∀ n, EraseOwner.scrub ≠ .slot n) ∧
    (serving.pending = [] ∧ (∀ o r, serving.sched.activity ≠ .erase o r) ∧ ∀ n u, serving.sched.activity ≠ .between n u) ∧
    (∀ w array, ∃ s : State, s.pending = [] ∧ s.sched.activity = .between 0 101 ∧
      (s.slot 0).body = some (eraseSlot .running) ∧ s.sched.waiters = w ∧ s.array = array) ∧
    (ArrayState.factory.facts 101).eraseCount < 60000 ∧
    60000 ≤ ((ArrayState.factory.writeHeader 101 ⟨true, 60000, false⟩).facts 101).eraseCount :=
  ⟨fun _ _ _ => ⟨rfl, rfl, rfl⟩, by decide, ⟨{ run 102 with suspensions := 24 }, rfl, by decide⟩,
    ⟨{ run 102 with suspended := true }, rfl⟩, nofun, fun _ => nofun, ⟨rfl, fun _ _ => nofun, fun _ _ => nofun⟩,
    fun w array => ⟨{ withSlot serving (eraseSlot .running) with
      array := array, sched := { Scheduler.empty with activity := .between 0 101, waiters := w } }, rfl, rfl, rfl, rfl, rfl⟩,
    by decide, by decide⟩

/-! ### Reset, start-up and the laws -/

theorem witness_ResetAndPowerEvents :
    (∃ s : State, s.device = .inReset) ∧ (∀ b x, (working b x).device ≠ .inReset ∧ (working b x).sched.activity = x) ∧
    (working (programSlot .running) (.program 0 819200)).slotWork 0 = some (.program 0 [0xF0]) ∧
    Memory.wf (working (programSlot .running) (.program 0 819200)).array.data = true ∧
    sparseWf Header.factory (working (fixSlot .running) (.mark ⟨0, ⟨100, 8⟩, 7⟩)).array.headers = true ∧
    (∃ s : State, s.device = .inReset ∧ s.resetAsserted = true ∧ s.powerGood = true) ∧
    (∃ s : State, s.device = .inReset ∧ s.resetAsserted = false ∧ s.powerGood = false) :=
  ⟨⟨{ State.reset with device := .inReset }, rfl⟩, fun _ _ => ⟨nofun, rfl⟩, rfl, rfl, rfl,
    ⟨{ State.reset with device := .inReset, resetAsserted := true }, rfl, rfl, rfl⟩,
    ⟨{ State.reset with device := .inReset, powerGood := false }, rfl, rfl, rfl⟩⟩

/-- The part as unit 100 is erased, with data and queue given. -/
def erasingOver (data : List Host.Cell) (queue : List Instr) : State :=
  { erasing with array := { erasing.array with data := data }, pending := queue }

theorem erasingOver_array {data : List Host.Cell} (h : Memory.wf data = true) (queue : List Instr) :
    (erasingOver data queue).ArrayLaw := by
  have hh : ∀ u, (erasingOver data queue).array.header u = if 100 = u then ⟨false, 1, false⟩ else Header.factory :=
    fun u => rfl
  have hf : ∀ u, (erasingOver data queue).array.facts u = if 100 = u then ⟨.incomplete, 1, false⟩ else UnitFacts.factory :=
    fun u => rfl
  refine ⟨h, rfl, rfl, nofun, fun _ u => ?_, fun u => ?_, ?_⟩
  · rw [hh, hf]; split <;> rfl
  · rw [hh]; split <;> decide
  · rintro owner r h -
    cases h
    rfl

theorem witness_ResetCutsAnErase :
    ((erasingOver [(819200, 0xF0)] []).device ≠ .inReset ∧ (erasingOver [(819200, 0xF0)] []).ArrayLaw ∧
      (erasingOver [(819200, 0xF0)] []).sched.activity = .erase (.slot 0) (run 100) ∧
      ∃ t, exec .resetAssert (erasingOver [(819200, 0xF0)] []) = .next t) :=
  ⟨nofun, erasingOver_array (by decide) [], rfl, _, rfl⟩

theorem witness_StartUpChoosesTheDirectory :
    ((servingAs .starting).device = .starting ∧ (servingAs .starting).store.copy .copy0 = .complete image ∧
      image.check = image.crc ∧ (∀ d j, d ≠ CopyId.copy0 → (servingAs .starting).store.copy d = .complete j →
        j.check = j.crc → j.sequence.toNat < image.sequence.toNat) ∧
      image.records[31]? = some ⟨0, none⟩ ∧
      image.records[0]? = some ⟨0, some ⟨region.ident, region.extent, .openLevel⟩⟩) ∧
    (∃ s : State, s.device = .starting ∧ (s.array.header 100).fixedMark = true) ∧
    (State.reset.device = .starting ∧ State.reset.store.copy0 = .blank ∧ State.reset.store.copy1 = .blank ∧
      ∀ u, u < 1024 → (State.reset.array.header u).condition = .good ∧ (State.reset.array.header u).fixedMark = false) ∧
    (∃ s : State, s.device = .starting ∧ (∀ c i, s.store.copy c = .complete i → i.check ≠ i.crc) ∧
      (s.store.copy0 ≠ .blank ∨ s.store.copy1 ≠ .blank)) := by
  refine ⟨⟨rfl, rfl, rfl, fun d j hd h _ => ?_, rfl, rfl⟩,
    ⟨{ servingAs .starting with array := ⟨[(100, ⟨true, 0, true⟩)], [], []⟩ }, rfl, rfl⟩, ⟨rfl, rfl, rfl, fun _ _ => ⟨rfl, rfl⟩⟩,
    ⟨{ State.reset with store := { Store.factory with copy0 := .damaged none } }, rfl, fun c i => ?_, .inl nofun⟩⟩
  · cases d
    · exact absurd rfl hd
    · cases h
  · cases c <;> nofun

/-- The part in service as port B opens region 0. -/
def opening : State := { serving with pending := [.openHandle .b 1 0 (.byName [0x41])] }

/-- The part in service as a program of its first byte ends. -/
def programming : State :=
  { working (programSlot .running) (.program 0 819200) with pending := [.programEnd .success] }

theorem opening_array : opening.ArrayLaw :=
  ⟨rfl, rfl, rfl, nofun, serving_array.agrees, serving_array.limit, serving_array.started⟩

theorem programming_array : programming.ArrayLaw :=
  ⟨rfl, rfl, rfl, nofun, fun _ _ => rfl, fun _ => Nat.zero_le _, fun _ _ => nofun⟩

theorem opening_service : opening.ServiceLaw :=
  ⟨serving_service.pass, serving_service.work, serving_service.writes, serving_service.closed, serving_service.calm,
    serving_service.fresh⟩

theorem witness_StepsKeepTheArrayLaw : opening.ArrayLaw ∧ (∃ t, step opening = .next t) ∧ programming.ArrayLaw ∧
    ∃ t, step programming = .next t :=
  ⟨opening_array, ⟨_, rfl⟩, programming_array, _, rfl⟩

/-- The part between the units 100 and 101 of its ERASE, a byte of unit 101 programmed. -/
def pausing : State :=
  { withSlot serving (eraseSlot .running) with
    pending := [.eraseEnd .success]
    array := ⟨[], [], [(827392, 0xF0)]⟩
    sched := { Scheduler.empty with activity := .between 0 101 } }

theorem witness_DataBitsChangeByProgramOrErase :
    (programming.ArrayLaw ∧ ∃ t, step programming = .next t ∧ t.array.byte 819200 ≠ programming.array.byte 819200) ∧
    ((erasingOver [(819200, 0xF0)] [.eraseEnd .success]).ArrayLaw ∧
      ∃ t, step (erasingOver [(819200, 0xF0)] [.eraseEnd .success]) = .next t ∧
        t.array.byte 819200 ≠ (erasingOver [(819200, 0xF0)] [.eraseEnd .success]).array.byte 819200) ∧
    (pausing.ArrayLaw ∧ ∃ t, step pausing = .next t ∧ t.array.byte 827392 ≠ pausing.array.byte 827392) :=
  ⟨⟨programming_array, _, rfl, by decide⟩, ⟨erasingOver_array (by decide) _, _, rfl, by decide⟩,
    ⟨by decide, rfl, rfl, nofun, fun _ _ => rfl, fun _ => Nat.zero_le _, fun _ _ => nofun⟩, _, rfl, by decide⟩

theorem witness_StepsKeepTablesAndService : opening.TableLaw ∧ opening.ServiceLaw ∧ ∃ t, step opening = .next t :=
  ⟨⟨serving_table.records, serving_table.scrub, serving_table.images, serving_table.handles, serving_table.slots,
    serving_table.quota⟩, opening_service, _, rfl⟩

theorem witness_StepsLeaveNoWorkWaiting : opening.ServiceLaw ∧ opening.IdleLaw ∧ ∃ t, step opening = .next t :=
  ⟨opening_service, serving_idle, _, rfl⟩

theorem witness_StepsKeepTheHandles : opening.HandleLaw ∧ opening.ServiceLaw ∧ opening.OpenLaw ∧
    (∃ t, step { opening with portA := listening closedTable } = .next t ∧ t.handle .b 0 = .opened ⟨⟨0, 0⟩, .read⟩) ∧
    opening.handle .b 0 ≠ .opened ⟨⟨0, 0⟩, .read⟩ :=
  ⟨serving_handles, opening_service, serving_open, ⟨_, rfl, by decide⟩, nofun⟩

theorem witness_StepsKeepNamesUnique : opening.NameLaw ∧ ∃ t, step opening = .next t :=
  ⟨⟨serving_names.working, serving_names.images⟩, _, rfl⟩

theorem witness_StepsKeepUnitsInOnePlace : opening.ServiceLaw ∧ opening.PlaceLaw ∧ ∃ t, step opening = .next t :=
  ⟨opening_service, ⟨serving_place.working, serving_place.images, serving_place.erasing, serving_place.formatted⟩, _, rfl⟩

theorem witness_StepsKeepTheQueue : opening.ServiceLaw ∧ opening.QueueLaw ∧ ∃ t, step opening = .next t :=
  ⟨opening_service, ⟨serving_queue.once, serving_queue.queued, serving_queue.kinds, serving_queue.served⟩, _, rfl⟩

theorem witness_StepsKeepTheStore : opening.ServiceLaw ∧ opening.StoreLaw ∧ ∃ t, step opening = .next t :=
  ⟨opening_service, ⟨serving_store.checked, serving_store.current, serving_store.newest, serving_store.empty, serving_store.apart,
    serving_store.target, serving_store.number, serving_store.unloaded⟩, _, rfl⟩

theorem witness_DurableDirectorySurvivesReset :
    serving.ServiceLaw ∧ serving.StoreLaw ∧ serving.loaded = true ∧ serving.powerGood = true ∧
    serving.store.current = some .copy0 ∧ serving.store.copy .copy0 = .complete image :=
  ⟨serving_service, serving_store, rfl, rfl, rfl, rfl⟩

end Sys2Proof.Tests
end

section
/-! PROOFS. The handle tables over a step (R94, R97): every step but an OPEN only makes OPEN entries STALE or CLOSED and
keeps the records that the others name; an OPEN adds one entry, with the checks of R90 behind it. -/

namespace Sys2Proof.Machine

/-! ## Records that stay ACTIVE -/

/-- Every ACTIVE record of `d` is ACTIVE in `e` at the same generation (R22). -/
def Directory.KeepsActive (d e : Directory) : Prop :=
  ∀ n g r, d.record n = ⟨g, .active r⟩ → ∃ r', e.record n = ⟨g, .active r'⟩

theorem Directory.record_of_records {d e : Directory} (h : e.records = d.records) (n : Nat) :
    e.record n = d.record n := by
  unfold Directory.record; rw [h]

theorem Directory.keepsActive_of_records {d e : Directory} (h : e.records = d.records) : d.KeepsActive e :=
  fun n _ r hr => ⟨r, (Directory.record_of_records h n).trans hr⟩

theorem Directory.record_setBody {d : Directory} {n : Nat} (h : n < d.records.length) (b : RecordBody) (m : Nat) :
    (d.setBody n b).record m = if m = n then ⟨(d.record n).generation, b⟩ else d.record m := by
  rw [Directory.setBody_eq d n b h]
  unfold Directory.record
  by_cases e : m = n
  · subst e; simp [h]
  · simp [e, List.getD_eq_getElem?_getD, List.getElem?_set_ne (Ne.symm e)]

theorem Directory.record_setBody_of_ne (d : Directory) {n m : Nat} (h : m ≠ n) (b : RecordBody) :
    (d.setBody n b).record m = d.record m := by
  unfold Directory.setBody Directory.record
  simp [List.getD_eq_getElem?_getD, Ne.symm h]

theorem Directory.keepsActive_mapRegion (d : Directory) (n : Nat) (f : Region → Region) :
    d.KeepsActive (d.mapRegion n f) := by
  intro m g r hm
  unfold Directory.mapRegion
  split
  · next x hx =>
    rw [Directory.record_setBody (Directory.lt_of_body (by rw [hx]; simp))]
    split
    · next e => subst e; rw [hm]; exact ⟨_, rfl⟩
    · exact ⟨r, hm⟩
  · exact ⟨r, hm⟩

/-- A record that was FREE takes a new body (R53). -/
theorem Directory.keepsActive_setBody_of_free {d : Directory} {n : Nat} (h : (d.record n).body = .free)
    (b : RecordBody) : d.KeepsActive (d.setBody n b) := by
  intro m g r hm
  have hne : m ≠ n := by rintro rfl; rw [hm] at h; cases h
  exact ⟨r, (Directory.record_setBody_of_ne d hne b).trans hm⟩

theorem Directory.body_of_lowestFree {d : Directory} {n : Nat} (h : d.lowestFree = some n) :
    (d.record n).body = .free := by
  obtain ⟨hn, hb, _⟩ := List.findIdx?_eq_some_iff_getElem.1 h
  rw [Directory.record_eq hn]
  exact eq_of_beq hb

theorem Directory.keepsActive_shrink (d : Directory) (n k : Nat) (e : Extent) : d.KeepsActive (d.shrink n k e) :=
  Directory.keepsActive_mapRegion d n _

/-- A completed write leaves an ACTIVE record ACTIVE (R34). -/
theorem settleRecord_active (was : Record) (carried : DurableRecord) (g : Byte) (r : Region) :
    ∃ r', settleRecord was carried ⟨g, .active r⟩ = ⟨g, .active r'⟩ := by
  unfold settleRecord
  cases was.body <;> exact ⟨_, rfl⟩

theorem Directory.keepsActive_settle (d : Directory) (job : WriteJob) : d.KeepsActive (d.settle job) := by
  intro n g r hn
  have hl := Directory.lt_of_active hn
  have hl' : n < (d.settle job).records.length := by simpa [Directory.settle] using hl
  rw [Directory.record_eq hl] at hn
  rw [Directory.record_eq hl']
  simp only [Directory.settle, List.getElem_mapIdx, hn]
  exact settleRecord_active _ _ g r

/-! ## Handle entries -/

theorem closedTable_entry (k : Nat) : closedTable.getD k .closed = .closed := by
  by_cases h : k < Config.handleCount
  · simp [closedTable, h]
  · exact List.getD_eq_default _ _ (by simpa using h)

/-- A port whose table is all CLOSED has no OPEN entry. -/
theorem State.not_opened_of_closedTable {s : State} {p : Port} (h : (s.port p).handles = closedTable) (k : Nat)
    (i : HandleInfo) : s.handle p k ≠ .opened i := by
  unfold State.handle; rw [h, closedTable_entry]; exact nofun

theorem State.handle_setHandle (s : State) (p q : Port) (k l : Nat) (x : Handle) :
    (s.setHandle p k x).handle q l =
      if (q, l) = (p, k) ∧ k < (s.port p).handles.length then x else s.handle q l := by
  unfold State.setHandle State.handle
  rw [State.setPort_port]
  by_cases hq : q = p
  · subst hq
    simp only [if_true, List.getD_eq_getElem?_getD, List.getElem?_set, Prod.mk.injEq, true_and]
    by_cases hl : k = l
    · subst hl
      by_cases hk : k < (s.port q).handles.length <;> simp [hk]
    · simp [hl, Ne.symm hl]
  · simp [hq]

/-- An override leaves OPEN exactly the OPEN entries it does not reach (R100). -/
theorem State.handle_invalidate_opened (s : State) (f : Port → HandleInfo → Bool) (p : Port) (k : Nat)
    (i : HandleInfo) :
    (s.invalidate f).handle p k = .opened i ↔ s.handle p k = .opened i ∧ f p i = false := by
  unfold State.handle State.invalidate
  rw [State.mapPorts_port, State.cancelQueued_port]
  simp only [PortState.makeStale, List.getD_eq_getElem?_getD, List.getElem?_map]
  cases (s.port p).handles[k]? with
  | none => simp
  | some x =>
    cases x with
    | closed => simp
    | stale j => simp
    | opened j =>
      cases hf : f p j with
      | true => simp [hf]; rintro rfl; exact hf
      | false => simp [hf]; rintro rfl; exact hf

/-- The entry an OPEN takes lies in the table (R91). -/
theorem State.entry_of_lowestClosed {s : State} {p : Port} {k : Nat} (h : s.lowestClosed p = some k) :
    k < (s.port p).handles.length :=
  (List.findIdx?_eq_some_iff_getElem.1 h).1

/-! ## What a step can do to the handle tables -/

/-- Handle tables and records untouched. -/
structure State.TablesKept (s t : State) : Prop where
  handles : ∀ p, (t.port p).handles = (s.port p).handles
  records : t.dir.records = s.dir.records

theorem State.TablesKept.handle {s t : State} (h : s.TablesKept t) (p : Port) (k : Nat) :
    t.handle p k = s.handle p k := by
  unfold State.handle; rw [h.handles]

theorem State.tablesKept_setPort {s : State} {p : Port} {q : PortState} (h : q.handles = (s.port p).handles) :
    s.TablesKept (s.setPort p q) where
  handles := fun p' => by
    rw [State.setPort_port]
    split
    · next e => subst e; exact h
    · rfl
  records := by rw [State.setPort_dir]

/-- Every OPEN entry of `t` was OPEN in `s`, and the ACTIVE record it names is ACTIVE in `t` at its generation. The
latter rests on the device state's agreement with the handles: FORMAT's write replaces the directory (R172). -/
structure State.HandlesFrom (s t : State) : Prop where
  opened : ∀ p k i, t.handle p k = .opened i → s.handle p k = .opened i
  active : s.ServiceLaw → ∀ p k i r, t.handle p k = .opened i →
    s.dir.record i.region.number = ⟨i.region.generation, .active r⟩ →
    ∃ r', t.dir.record i.region.number = ⟨i.region.generation, .active r'⟩

/-- `t` is `s` with entry `k` of port `p` OPEN for `i`: no OPEN entry on the region conflicts with it, and it names an
ACTIVE record at its generation (R90, R91). -/
structure State.Opens (s : State) (p : Port) (k : Nat) (i : HandleInfo) (t : State) : Prop where
  others : ∀ q l, (q, l) ≠ (p, k) → t.handle q l = s.handle q l
  entry : t.handle p k = .opened i
  apart : ∀ q l j, s.handle q l = .opened j → j.region = i.region → i.mode.conflicts j.mode = false
  names : ∃ r, s.dir.record i.region.number = ⟨i.region.generation, .active r⟩
  records : t.dir.records = s.dir.records

/-- What the command `c`, taken, does to the handle tables. -/
def State.HandlesAfter (s : State) (c : Instr) (t : State) : Prop :=
  s.HandlesFrom t ∨ ∃ p tag m sel k i, c = .openHandle p tag m sel ∧ s.Opens p k i t

/-! ### The laws after it -/

theorem Mode.conflicts_comm (m n : Mode) : m.conflicts n = n.conflicts m := by cases m <;> cases n <;> rfl

theorem State.HandlesFrom.handleLaw {s t : State} (h : s.HandlesFrom t) (hs : s.HandleLaw) : t.HandleLaw :=
  fun p k i q l j hi hj => hs p k i q l j (h.opened p k i hi) (h.opened q l j hj)

theorem State.HandlesFrom.openLaw {s t : State} (h : s.HandlesFrom t) (hv : s.ServiceLaw) (hs : s.OpenLaw) :
    t.OpenLaw := fun p k i hi =>
  have ⟨r, hr⟩ := hs p k i (h.opened p k i hi)
  h.active hv p k i r hi hr

section
variable {s t : State} {p : Port} {k : Nat} {i : HandleInfo}

/-- An OPEN entry after an OPEN is the new one or an old one. -/
theorem State.Opens.cases (h : s.Opens p k i t) {q : Port} {l : Nat} {j : HandleInfo}
    (hj : t.handle q l = .opened j) : (q, l) = (p, k) ∧ j = i ∨ (q, l) ≠ (p, k) ∧ s.handle q l = .opened j := by
  by_cases e : (q, l) = (p, k)
  · obtain ⟨rfl, rfl⟩ := Prod.mk.inj e
    rw [h.entry] at hj
    exact .inl ⟨e, (Handle.opened.inj hj).symm⟩
  · exact .inr ⟨e, (h.others q l e).symm.trans hj⟩

theorem State.Opens.handleLaw (h : s.Opens p k i t) (hs : s.HandleLaw) : t.HandleLaw := by
  intro q l a q' l' b ha hb hne hr
  rcases h.cases ha with ⟨e, rfl⟩ | ⟨-, ha'⟩ <;> rcases h.cases hb with ⟨e', rfl⟩ | ⟨-, hb'⟩
  · exact absurd (e.trans e'.symm) hne
  · exact h.apart _ _ _ hb' hr.symm
  · rw [Mode.conflicts_comm]; exact h.apart _ _ _ ha' hr
  · exact hs _ _ _ _ _ _ ha' hb' hne hr

theorem State.Opens.openLaw (h : s.Opens p k i t) (hs : s.OpenLaw) : t.OpenLaw := by
  intro q l j hj
  rw [Directory.record_of_records h.records]
  rcases h.cases hj with ⟨-, rfl⟩ | ⟨-, hj'⟩
  · exact h.names
  · exact hs q l j hj'

end

/-! ### Composition -/

section
variable {s₀ s t : State}

theorem State.HandlesFrom.refl (s : State) : s.HandlesFrom s := ⟨fun _ _ _ => id, fun _ _ _ _ r _ h => ⟨r, h⟩⟩

/-- A further change that opens no entry and keeps ACTIVE records ACTIVE. -/
theorem State.HandlesFrom.step (h : s₀.HandlesFrom s)
    (ho : ∀ p k i, t.handle p k = .opened i → s.handle p k = .opened i) (hd : s.dir.KeepsActive t.dir) :
    s₀.HandlesFrom t where
  opened := fun p k i hi => h.opened p k i (ho p k i hi)
  active := fun hv p k i r hi hr =>
    have ⟨r', hr'⟩ := h.active hv p k i r (ho p k i hi) hr
    hd _ _ r' hr'

theorem State.HandlesFrom.kept (h : s₀.HandlesFrom s) (hk : s.TablesKept t) : s₀.HandlesFrom t :=
  h.step (fun p k _ hi => (hk.handle p k).symm.trans hi) (Directory.keepsActive_of_records hk.records)

theorem State.TablesKept.from (hk : s.TablesKept t) : s.HandlesFrom t := (State.HandlesFrom.refl s).kept hk

theorem State.HandlesFrom.setDir (h : s₀.HandlesFrom s) {d : Directory} (hd : s.dir.KeepsActive d) :
    s₀.HandlesFrom { s with dir := d } :=
  h.step (fun p k i hi => by cases p <;> exact hi) hd

theorem State.HandlesFrom.of_closed (h : ∀ p, (t.port p).handles = closedTable) : s.HandlesFrom t where
  opened := fun p k i hi => absurd hi (State.not_opened_of_closedTable (h p) k i)
  active := fun _ p k i _ hi => absurd hi (State.not_opened_of_closedTable (h p) k i)

theorem State.Opens.kept {p : Port} {k : Nat} {i : HandleInfo} (h : s₀.Opens p k i s) (hk : s.TablesKept t) :
    s₀.Opens p k i t where
  others := fun q l hne => (hk.handle q l).trans (h.others q l hne)
  entry := (hk.handle p k).trans h.entry
  apart := h.apart
  names := h.names
  records := hk.records.trans h.records

theorem State.HandlesFrom.reframe (s₀ : State) : ReframeClosed s₀.HandlesFrom :=
  fun _ _ _ hq h => h.kept (State.tablesKept_setPort hq.handles)

theorem State.Opens.reframe (s₀ : State) (p : Port) (k : Nat) (i : HandleInfo) : ReframeClosed (s₀.Opens p k i) :=
  fun _ _ _ hq h => h.kept (State.tablesKept_setPort hq.handles)

theorem State.HandlesAfter.reframe (s₀ : State) (c : Instr) : ReframeClosed (s₀.HandlesAfter c) := by
  rintro t p q hq (h | ⟨p', tag, m, sel, k, i, hc, h⟩)
  · exact .inl (State.HandlesFrom.reframe s₀ t p q hq h)
  · exact .inr ⟨p', tag, m, sel, k, i, hc, State.Opens.reframe s₀ p' k i t p q hq h⟩

end

/-! ## The acceptances -/

section
variable {s₀ s : State}

theorem State.HandlesFrom.waitDirectory (h : s₀.HandlesFrom s) (p : Port) (w : Work) (ref : RegionRef) (n : Nat) :
    s₀.HandlesFrom (s.waitDirectory p w ref n) :=
  h.kept ⟨by simp, by simp⟩

theorem State.HandlesFrom.cancelQueued (h : s₀.HandlesFrom s) (f : SlotBody → Bool) (c : Status) :
    s₀.HandlesFrom (s.cancelQueued f c) :=
  h.kept ⟨by simp, by simp⟩

theorem State.HandlesFrom.offer (h : s₀.HandlesFrom s) : s₀.HandlesFrom s.offer :=
  h.kept ⟨by simp, by simp⟩

theorem State.HandlesFrom.setFreeze (h : s₀.HandlesFrom s) (n : Nat) (l : Freeze) :
    s₀.HandlesFrom (s.setFreeze n l) :=
  h.setDir (Directory.keepsActive_mapRegion s.dir n _)

theorem State.HandlesFrom.invalidate (h : s₀.HandlesFrom s) (f : Port → HandleInfo → Bool) :
    s₀.HandlesFrom (s.invalidate f) :=
  h.step (fun p k i hi => ((s.handle_invalidate_opened f p k i).1 hi).1) (Directory.keepsActive_of_records rfl)

theorem State.HandlesFrom.invalidateIf (h : s₀.HandlesFrom s) (override : Bool) (f : Port → HandleInfo → Bool) :
    s₀.HandlesFrom (if override then s.invalidate f else s) := by
  split
  · exact h.invalidate f
  · exact h

theorem State.acceptCreate_handles (s : State) (p : Port) (a : CreateArgs) {record : Nat} (first slot : Nat)
    (h : (s.dir.record record).body = .free) : s.HandlesFrom (s.acceptCreate p a record first slot) :=
  ((State.HandlesFrom.refl s).setDir (Directory.keepsActive_setBody_of_free h _)).waitDirectory _ _ _ _

theorem State.acceptGrow_handles (s : State) (p : Port) (ref : RegionRef) (k : Nat) (r : Region) (n : Nat) :
    s.HandlesFrom (State.acceptGrow p ref k r n s) :=
  ((State.HandlesFrom.refl s).setDir (Directory.keepsActive_mapRegion _ _ _)).waitDirectory _ _ _ _

theorem State.acceptShrink_handles (s : State) (p : Port) (ref : RegionRef) (k : Nat) (override : Bool) (r : Region)
    (n : Nat) : s.HandlesFrom (State.acceptShrink p ref k override r n s) := by
  have ht : s.HandlesFrom (if override then s.cancelQueued (fun b => b.touchesTail ref k) .stale else s) := by
    split
    · exact (State.HandlesFrom.refl s).cancelQueued _ _
    · exact .refl s
  exact (ht.setDir (Directory.keepsActive_shrink _ _ _ _)).waitDirectory _ _ _ _

theorem State.acceptGrant_handles (s : State) (p : Port) (ref : RegionRef) (v : Rights) (override : Bool) (r : Region)
    (n : Nat) : s.HandlesFrom (State.acceptGrant p ref v override r n s) :=
  (((State.HandlesFrom.refl s).invalidateIf override _).setDir
    (Directory.keepsActive_mapRegion _ _ _)).waitDirectory _ _ _ _

theorem State.acceptHold_handles (s : State) (p : Port) (ref : RegionRef) (override : Bool) (r : Region) (n : Nat) :
    s.HandlesFrom (State.acceptHold p ref override r n s) :=
  (((State.HandlesFrom.refl s).invalidateIf override _).setFreeze _ _).waitDirectory _ _ _ _

theorem State.acceptThaw_handles (s : State) (p : Port) (ref : RegionRef) (r : Region) (n : Nat) :
    s.HandlesFrom (State.acceptThaw p ref r n s) :=
  ((State.HandlesFrom.refl s).setFreeze _ _).waitDirectory _ _ _ _

theorem State.acceptFix_handles (s : State) (p : Port) (ref : RegionRef) (r : Region) (n : Nat) :
    s.HandlesFrom (State.acceptFix p ref r n s) :=
  (((State.HandlesFrom.refl s).setFreeze ref.number .fixing).kept
    (t := (s.setFreeze ref.number .fixing).enqueue n p .fix none ref) ⟨by simp, by simp⟩).offer

theorem firstOf_none {l : List (Bool × Status)} (h : firstOf l = none) {b : Bool} {st : Status} (hm : (b, st) ∈ l) :
    b = false := by
  unfold firstOf at h
  rw [Option.map_eq_none_iff, List.find?_eq_none] at h
  simpa using h (b, st) hm

/-- An accepted RETIRE finds or leaves no OPEN handle on its region (R61, R62). -/
theorem State.not_opened_of_retire {s : State} {ref : RegionRef} {override : Bool} {r : Region}
    (hc : retireChecks s ref override r = none) {p : Port} {k : Nat} {i : HandleInfo}
    (hi : (if override then s.invalidate (onRegion ref) else s).handle p k = .opened i) : i.region ≠ ref := by
  have hf : onRegion ref p i = false := by
    cases override with
    | true => exact ((s.handle_invalidate_opened _ p k i).1 hi).2
    | false =>
      have ha : (!false && s.anyOpen (onRegion ref)) = false := firstOf_none hc (st := .inUse) (by simp)
      exact (State.anyOpen_false _).1 (by simpa using ha) p k i hi
  exact ne_of_beq_false hf

/-- A reference that resolves names a record at its own generation (R22). -/
theorem Directory.resolve_some {d : Directory} {ref : RegionRef} {b : RecordBody} (h : d.resolve ref = some b) :
    d.record ref.number = ⟨ref.generation, b⟩ := by
  unfold Directory.resolve at h
  simp only at h
  split at h
  · cases h
  · split at h
    · next hg => cases h; rw [← hg]
    · cases h

theorem State.ownerHead_ok {s : State} {p : Port} {ref : RegionRef} {r : Region} (h : s.ownerHead p ref = .ok r) :
    s.dir.record ref.number = ⟨ref.generation, .active r⟩ := by
  unfold State.ownerHead at h
  split at h
  · cases h
  · next x hx =>
    split at h
    · cases h; exact Directory.resolve_some hx
    · cases h
  · cases h

/-- RETIRE takes an ACTIVE record away, which no OPEN handle names any more (R62, R97). -/
theorem State.acceptRetire_handles {s : State} {p : Port} {ref : RegionRef} {override : Bool} {r : Region} (n : Nat)
    (hr : s.ownerHead p ref = .ok r) (hc : retireChecks s ref override r = none) :
    s.HandlesFrom (State.acceptRetire p ref override r n s) := by
  have ht := (State.HandlesFrom.refl s).invalidateIf override (onRegion ref)
  have hno := fun p k i => State.not_opened_of_retire (p := p) (k := k) (i := i) hc
  unfold State.acceptRetire
  generalize (if override then s.invalidate (onRegion ref) else s) = t at ht hno ⊢
  have hh : ∀ p k, State.handle { t with dir := t.dir.retire ref.number r } p k = t.handle p k :=
    fun p k => by cases p <;> rfl
  refine State.HandlesFrom.waitDirectory ⟨fun p k i hi => ht.opened p k i (hh p k ▸ hi), ?_⟩ p .retire ref n
  intro hv p k i x hi hx
  rw [hh] at hi
  have hne : i.region.number ≠ ref.number := by
    intro e
    rw [e, State.ownerHead_ok hr] at hx
    have hg : ref.generation = i.region.generation := congrArg Record.generation hx
    exact hno p k i hi (congrArg₂ RegionRef.mk e hg.symm)
  obtain ⟨x', hx'⟩ := ht.active hv p k i x hi hx
  exact ⟨x', (Directory.record_setBody_of_ne t.dir hne _).trans hx'⟩

end

/-! ## The blocks -/

section
variable {s : State}

theorem State.ownerCommand_handles {p : Port} {ref : RegionRef} {checks : Region → Option Status}
    {accept : Region → Nat → State → State}
    (ha : ∀ r n, s.ownerHead p ref = .ok r → checks r = none → s.HandlesFrom (accept r n s)) :
    s.HandlesFrom (s.ownerCommand p ref checks accept).1 := by
  unfold State.ownerCommand
  split
  · exact .refl s
  · next r hr =>
    split
    · exact .refl s
    · next hc =>
      split
      · exact .refl s
      · exact ha r _ hr hc

theorem createBlock_handles (p : Port) (a : CreateArgs) (s : State) : s.HandlesFrom (createBlock p a s).1 := by
  unfold createBlock
  split
  · exact .refl s
  · split
    · exact .refl s
    · next record hrec =>
      split
      · split <;> exact .refl s
      · split
        · exact .refl s
        · exact s.acceptCreate_handles p a _ _ (Directory.body_of_lowestFree hrec)

theorem formatBlock_handles (p : Port) (s : State) : s.HandlesFrom (formatBlock p s).1 := by
  unfold formatBlock
  split
  · exact .refl s
  · split
    · exact .refl s
    · exact State.TablesKept.from ⟨fun q => by cases q <;> simp [State.acceptFormat], by simp [State.acceptFormat]⟩

theorem closeBlock_handles (p : Port) (k : Nat) (s : State) : s.HandlesFrom (closeBlock p k s).1 := by
  unfold closeBlock
  split
  · exact .refl s
  · split
    · exact .refl s
    · refine (State.HandlesFrom.refl s).step (fun q l i hi => ?_) (Directory.keepsActive_of_records (by simp))
      rw [State.handle_setHandle] at hi
      split at hi
      · cases hi
      · exact hi

theorem State.queueWork_handles (s : State) (n : Nat) (p : Port) (w : Work) (k : Nat) (ref : RegionRef) :
    s.HandlesFrom (s.queueWork n p w k ref) :=
  State.TablesKept.from ⟨by simp, by simp⟩

theorem verifyBlock_handles (p : Port) (k : Nat) (s : State) : s.HandlesFrom (verifyBlock p k s).1 := by
  unfold verifyBlock
  split
  · exact .refl s
  · split
    · exact .refl s
    · exact s.queueWork_handles _ _ _ _ _

theorem writeBlock_handles (p : Port) (k : Nat) (f : Extent → Bool) (w : Work) (s : State) :
    s.HandlesFrom (writeBlock p k f w s).1 := by
  unfold writeBlock
  split
  · exact .refl s
  · split
    · exact .refl s
    · split
      · exact .refl s
      · split
        · exact .refl s
        · exact s.queueWork_handles _ _ _ _ _

theorem State.readPath_handles (s : State) (w : ReadWait) : s.HandlesFrom (s.readPath w).1 := by
  have hw : s.HandlesFrom (s.await w) := State.TablesKept.from ⟨by simp, by simp⟩
  unfold State.readPath
  split
  · exact .refl s
  · exact hw
  · exact hw
  · exact hw
  · exact hw
  · split
    · exact .refl s
    · split
      · exact hw
      · split
        · exact .refl s
        · split
          · exact State.TablesKept.from ⟨by simp, by simp⟩
          · exact hw

theorem readBlock_handles (p : Port) (tag : Byte) (a : ReadArgs) (s : State) :
    s.HandlesFrom (readBlock p tag a s).1 := by
  unfold readBlock
  split
  · exact .refl s
  · simp only
    split
    · exact s.readPath_handles _
    · exact .refl s

theorem State.cancelWaiting_handles (s : State) (n : Nat) (b : SlotBody) : s.HandlesFrom (s.cancelWaiting n b) := by
  have ht : s.HandlesFrom ((s.dequeue n).mapSlot n fun b => { b with state := .cancelled .host }) :=
    State.TablesKept.from ⟨by simp, by simp⟩
  unfold State.cancelWaiting
  simp only
  split
  · exact ht.setFreeze _ _
  · exact ht

theorem State.cancelErase_tables (s : State) (n : Nat) : s.TablesKept (s.cancelErase n) := by
  unfold State.cancelErase; exact ⟨by simp, by simp⟩

theorem State.abortErase_handles (s : State) (n : Nat) (run : EraseRun) : s.HandlesFrom (s.abortErase n run) :=
  ((State.HandlesFrom.refl s).kept
    (t := State.drawn { s with array := s.array.stopErase run (Config.eraseSets s.draws) })
    ⟨fun q => by cases q <;> rfl, rfl⟩).kept (State.cancelErase_tables _ n)

theorem cancelBlock_handles (p : Port) (tag : Byte) (k : Ticket) (s : State) :
    s.HandlesFrom (cancelBlock p tag k s).1 := by
  unfold cancelBlock
  split
  · exact .refl s
  · split
    case h_1 => exact s.cancelWaiting_handles _ _
    case h_4 => exact .refl s
    all_goals
      split
      · split
        · exact s.abortErase_handles _ _
        · exact .refl s
      · split
        · exact (s.cancelErase_tables _).from
        · exact .refl s
      · split
        · exact State.TablesKept.from ⟨by simp, by simp⟩
        · exact .refl s
      · exact .refl s

theorem collectBlock_handles (p : Port) (k : Ticket) (s : State) : s.HandlesFrom (collectBlock p k s).1 := by
  unfold collectBlock
  split
  · exact .refl s
  · split
    · exact State.TablesKept.from ⟨by simp, by simp⟩
    · exact .refl s

theorem State.clearNotice_handles (s : State) (p : Port) : s.HandlesFrom (s.clearNotice p) :=
  (State.tablesKept_setPort (q := { s.port p with staleNotice := false }) rfl).from

theorem State.HandlesFrom.releaseFixes {s₀ : State} (h : s₀.HandlesFrom s) (p : Port) :
    s₀.HandlesFrom (s.releaseFixes p) := by
  unfold State.releaseFixes
  refine List.foldlRecOn _ _ h fun t ht x _ => ?_
  split
  · split
    · exact ht.setFreeze _ _
    · exact ht
  · exact ht

theorem State.resetPort_handles (s : State) (p : Port) : s.HandlesFrom (s.resetPort p) := by
  unfold State.resetPort
  refine ((State.HandlesFrom.refl s).releaseFixes p).step (fun q k i hi => ?_)
    (Directory.keepsActive_of_records (by simp))
  by_cases e : q = p
  · subst e
    exact absurd hi (State.not_opened_of_closedTable (by simp) k i)
  · unfold State.handle at hi ⊢
    rw [State.setPort_port_of_ne _ e] at hi
    cases q <;> exact hi

/-- An OPEN's target carries the generation its record has (R25, R89). -/
theorem Directory.openTarget_generation {d : Directory} {a : Target} {ref : RegionRef} (h : d.openTarget a = some ref) :
    (d.record ref.number).generation = ref.generation := by
  cases a with
  | name x =>
    obtain ⟨n, -, rfl⟩ := Option.map_eq_some_iff.1 h
    rfl
  | reference ref' =>
    obtain ⟨b, hb, rfl⟩ := Option.map_eq_some_iff.1 h
    rw [Directory.resolve_some hb]

/-- The entry an accepted OPEN writes (R91), its checks passed (R90). -/
theorem State.opens_setHandle {p : Port} {k : Nat} {i : HandleInfo} {r : Region} (hk : s.lowestClosed p = some k)
    (hc : openChecks s p i.mode i.region r = none)
    (hr : s.dir.record i.region.number = ⟨i.region.generation, .active r⟩) :
    s.Opens p k i (s.setHandle p k (.opened i)) where
  others := fun q l hne => by rw [State.handle_setHandle, if_neg fun h => hne h.1]
  entry := by rw [State.handle_setHandle, if_pos ⟨rfl, State.entry_of_lowestClosed hk⟩]
  apart := fun q l j hj hij => by
    have ha : s.anyOpen (fun _ j => j.region == i.region && i.mode.conflicts j.mode) = false :=
      firstOf_none hc (st := .conflict) (by simp)
    simpa [hij] using (State.anyOpen_false _).1 ha q l j hj
  names := ⟨r, hr⟩
  records := by rw [State.setHandle_dir]

/-- An accepted OPEN has passed the conflict check and names an ACTIVE record (R90, R91). -/
theorem openBlock_handles (p : Port) (a : Mode × Target) (s : State) :
    s.HandlesFrom (openBlock p a s).1 ∨ ∃ k i, s.Opens p k i (openBlock p a s).1 := by
  unfold openBlock
  split
  · exact .inl (.refl s)
  · next ref href =>
    split
    · next r hr =>
      split
      · exact .inl (.refl s)
      · next hc =>
        split
        · exact .inl (.refl s)
        · next k hk =>
          have hrec : s.dir.record ref.number = ⟨ref.generation, .active r⟩ := by
            rw [← Directory.openTarget_generation href, ← hr]
          exact .inr ⟨k, ⟨ref, a.1⟩, State.opens_setHandle hk hc hrec⟩
    · exact .inl (.refl s)

end

/-! ## A request taken -/

theorem State.HandlesFrom.take {α : Type} {req : Instr} {p : Port} {cmd : Cmd} {tag : Byte} {args : Option α}
    {heldBack : α → Bool} {block : α → State → State × Option Reply} {s : State}
    (hb : ∀ a, s.HandlesFrom (block a s).1) : s.HandlesFrom (s.take req p cmd tag args heldBack block) :=
  State.take_induct (State.HandlesFrom.reframe s) (.refl s) fun a _ _ => hb a

theorem State.HandlesFrom.arrive {req : Instr} {p : Port} {take : State → State} {s : State}
    (h : s.HandlesFrom (take s)) : s.HandlesFrom (s.arrive req p take) :=
  State.arrive_induct (State.HandlesFrom.reframe s) (.refl s) fun _ _ _ => h

theorem takeFrameError_handles (p : Port) (frame : List Byte) (s : State) :
    s.HandlesFrom (takeFrameError p frame s) := by
  have hc := State.HandlesFrom.reframe s
  unfold takeFrameError
  split
  · exact hc.answerFrame _ _ _ (.refl s)
  · split
    · exact hc.sendReplay _ _ (.refl s)
    · exact hc.answerFrame _ _ _ (.refl s)
  · exact .refl s

theorem takeUnknown_handles (p : Port) (tag : Byte) (s : State) : s.HandlesFrom (takeUnknown p tag s) :=
  (State.HandlesFrom.reframe s).answerFrame _ _ _ (.refl s)

theorem takeOpen_handles (p : Port) (tag mode : Byte) (sel : Selector) (s : State) :
    s.HandlesAfter (.openHandle p tag mode sel) (takeOpen p tag mode sel s) := by
  refine State.take_induct (State.HandlesAfter.reframe s _) (.inl (.refl s)) fun a _ _ => ?_
  rcases openBlock_handles p a s with h | ⟨k, i, h⟩
  · exact .inl h
  · exact .inr ⟨p, tag, mode, sel, k, i, rfl, h⟩

/-- Of all requests OPEN alone can make an entry OPEN (R94). -/
theorem takeRequest_handles (c : Instr) (s : State) : s.HandlesAfter c (takeRequest c s) := by
  cases c with
  | openHandle p tag mode sel => exact takeOpen_handles p tag mode sel s
  | frameError p frame => exact .inl (takeFrameError_handles p frame s)
  | unknownCommand p code tag params => exact .inl (takeUnknown_handles p tag s)
  | identify | unitInfo | list | readRecord => left; unfold takeRequest; exact .take fun _ => .refl s
  | lookup => exact .inl (.take fun _ => by unfold lookupBlock; split <;> exact .refl s)
  | query => exact .inl (.take fun _ => by unfold queryBlock; split <;> exact .refl s)
  | status p => left; unfold takeRequest; exact .take fun _ => s.clearNotice_handles p
  | portReset p => left; unfold takeRequest; exact .take fun _ => s.resetPort_handles p
  | create p => exact .inl (.take fun a => createBlock_handles p a s)
  | grow => exact .inl (.take fun _ => State.ownerCommand_handles fun _ _ _ _ => s.acceptGrow_handles _ _ _ _ _)
  | shrink =>
    exact .inl (.take fun _ => State.ownerCommand_handles fun _ _ _ _ => s.acceptShrink_handles _ _ _ _ _ _)
  | retire =>
    exact .inl (.take fun _ => State.ownerCommand_handles fun _ n hr hc => State.acceptRetire_handles n hr hc)
  | grant => exact .inl (.take fun _ => State.ownerCommand_handles fun _ _ _ _ => s.acceptGrant_handles _ _ _ _ _ _)
  | hold => exact .inl (.take fun _ => State.ownerCommand_handles fun _ _ _ _ => s.acceptHold_handles _ _ _ _ _)
  | thaw => exact .inl (.take fun _ => State.ownerCommand_handles fun _ _ _ _ => s.acceptThaw_handles _ _ _ _)
  | fix => exact .inl (.take fun _ => State.ownerCommand_handles fun _ _ _ _ => s.acceptFix_handles _ _ _ _)
  | verify p => exact .inl (.take fun k => verifyBlock_handles p k s)
  | format p => left; unfold takeRequest; exact .take fun _ => formatBlock_handles p s
  | close p => exact .inl (.take fun k => closeBlock_handles p k s)
  | read p tag => exact .inl (.take fun a => readBlock_handles p tag a s)
  | program p => exact .inl (.take fun a => writeBlock_handles p _ _ _ s)
  | erase p => exact .inl (.take fun a => writeBlock_handles p _ _ _ s)
  | cancel p tag => exact .inl (.take fun k => cancelBlock_handles p tag k s)
  | collect p => exact .inl (.take fun k => collectBlock_handles p k s)
  | _ => exact .inl (.refl s)

/-! ## Events -/

section
variable {s : State}

theorem State.HandlesFrom.fixFault {s₀ : State} (h : s₀.HandlesFrom s) (n region : Nat) (e : Extent) :
    s₀.HandlesFrom (s.fixFault n region e) := by
  have ht : s₀.HandlesFrom ((s.endSlot n (.doneFail .arrayFault)).setActivity .idle) := h.kept ⟨by simp, by simp⟩
  unfold State.fixFault
  simp only
  split
  · exact (ht.setFreeze region (.fixed none)).kept ⟨by simp, by simp⟩
  · exact (ht.setFreeze region .held).kept ⟨by simp, by simp⟩

theorem State.endMark_handles (s : State) (r : ArrayEnd) : s.HandlesFrom (s.endMark r) := by
  have ha : ∀ u, s.HandlesFrom { s with array := s.array.markUnit u } :=
    fun u => State.TablesKept.from ⟨fun q => by cases q <;> rfl, rfl⟩
  unfold State.endMark
  split
  · next run _ =>
    have hm := ha (run.extent.first + run.done)
    simp only
    split
    · split
      · exact hm.kept ⟨by simp, by simp⟩
      · exact hm.kept ⟨by simp, by simp⟩
    · refine State.HandlesFrom.fixFault ?_ _ _ _
      split
      · exact hm.kept ⟨by simp, by simp⟩
      · exact State.TablesKept.from ⟨by simp, by simp⟩
  · exact .refl s

/-- While FORMAT's image is written no directory is in service (R172). -/
theorem State.ServiceLaw.not_loaded_of_format (hv : s.ServiceLaw) {job : WriteJob} (hw : s.store.writer = .writing job)
    (hf : job.format = true) : s.loaded = false := by
  rcases hv.writes job hw with ⟨h, -⟩ | ⟨-, hd, -⟩
  · rw [hf] at h; cases h
  · unfold State.loaded; rw [hd]; rfl

/-- FORMAT's write completes out of service, where no handle is OPEN; any other keeps ACTIVE records ACTIVE (R34,
R172). -/
theorem State.writeCompletes_handles (s : State) : s.HandlesFrom s.writeCompletes := by
  unfold State.writeCompletes
  split
  · next job hw =>
    split
    · next hf =>
      have hh : ∀ p k, (s.completeFormat job).handle p k = s.handle p k := fun p k => by cases p <;> rfl
      refine ⟨fun p k i hi => hh p k ▸ hi, fun hv p k i _ hi => ?_⟩
      exact absurd (hh p k ▸ hi) (hv.closed (hv.not_loaded_of_format hw hf) p k i)
    · exact (((State.HandlesFrom.refl s).step (t := s.completeWrite job) (fun p k i hi => by cases p <;> exact hi)
        (s.dir.keepsActive_settle job)).kept ⟨by simp, by simp⟩).offer
  · exact .refl s

theorem State.startup_closed (s : State) (p : Port) : (s.startup.port p).handles = closedTable := by
  have he : ∀ d c q, ((s.initialise.enterService d c q).port p).handles = closedTable := fun d c q => by
    unfold State.enterService; rw [State.offer_port_handles, State.kick_port]; cases p <;> rfl
  unfold State.startup
  split
  · exact he _ _ _
  · exact he _ _ _
  · cases p <;> rfl

theorem State.enterReset_handles (s : State) : s.HandlesFrom s.enterReset := by
  unfold State.enterReset
  split
  · exact .refl s
  · exact .of_closed fun p => by cases p <;> rfl

theorem State.HandlesFrom.leaveReset {s₀ : State} (h : s₀.HandlesFrom s) : s₀.HandlesFrom s.leaveReset := by
  unfold State.leaveReset
  split
  · exact h.kept ⟨fun p => by cases p <;> rfl, rfl⟩
  · exact h

theorem State.selectFall_handles (s : State) (p : Port) : s.HandlesFrom (after (.selectFall p) s) := by
  show s.HandlesFrom (if (s.port p).selectLow then s else
    if s.device = .inReset then s.setPort p { s.port p with selectLow := true }
    else s.setPort p ((s.port p).beginPeriod s.device))
  split
  · exact .refl s
  · split
    · exact (State.tablesKept_setPort (q := { s.port p with selectLow := true }) rfl).from
    · exact (State.tablesKept_setPort (by simp)).from

theorem State.selectRise_handles (s : State) (p : Port) : s.HandlesFrom (after (.selectRise p) s) := by
  have hq : (s.port p).selectRise.handles = (s.port p).handles := by unfold PortState.selectRise; split <;> rfl
  exact (State.tablesKept_setPort hq).from

theorem State.frameError_handles (s : State) (p : Port) (frame : List Byte) :
    s.HandlesFrom (after (.frameError p frame) s) := by
  have ha : s.HandlesFrom (s.arrive (.frameError p frame) p (takeFrameError p frame)) :=
    (takeFrameError_handles p frame s).arrive
  simp only [after, exec, execFrameError]
  split
  · exact ha
  · exact ha
  · exact .refl s

theorem State.unknownCommand_handles (s : State) (p : Port) (code tag : Byte) (params : List Byte) :
    s.HandlesFrom (after (.unknownCommand p code tag params) s) := by
  simp only [after, exec, execUnknownCommand]
  split
  · exact (takeUnknown_handles p tag s).arrive
  · exact .refl s

theorem State.responseSent_handles (s : State) (p : Port) : s.HandlesFrom (after (.responseSent p) s) := by
  simp only [after, exec, execResponseSent]
  split
  · exact (State.tablesKept_setPort (q := { s.port p with framing := .finished }) rfl).from
  · exact .refl s

theorem State.startupComplete_handles (s : State) : s.HandlesFrom (after .startupComplete s) := by
  simp only [after, exec, execStartupComplete]
  split
  · exact .of_closed s.startup_closed
  · exact .refl s

/-- No event opens an entry or takes away a record that an OPEN entry names. -/
theorem after_event_handles (c : Instr) (s : State) (hr : c.request = none) (hw : ∀ q, c ≠ .waitingRequestTaken q) :
    s.HandlesFrom (after c s) := by
  cases c with
  | waitingRequestTaken q => exact absurd rfl (hw q)
  | selectFall p => exact s.selectFall_handles p
  | selectRise p => exact s.selectRise_handles p
  | frameError p frame => exact s.frameError_handles p frame
  | unknownCommand p code tag params => exact s.unknownCommand_handles p code tag params
  | responseSent p => exact s.responseSent_handles p
  | inhibitInputChange p level => exact (State.tablesKept_setPort (q := { s.port p with inhibit := level }) rfl).from
  | directoryWriteComplete => exact s.writeCompletes_handles
  | attemptFail | attemptTimeout => exact State.TablesKept.from (t := s.attemptFails) ⟨by simp, by simp⟩
  | programEnd r => exact State.TablesKept.from (t := s.endProgram r) ⟨by simp, by simp⟩
  | programTimeout => exact State.TablesKept.from (t := s.endProgram .arrayFault) ⟨by simp, by simp⟩
  | eraseEnd r => exact State.TablesKept.from (t := s.endErase r) ⟨by simp, by simp⟩
  | eraseTimeout => exact State.TablesKept.from (t := s.endErase .arrayFault) ⟨by simp, by simp⟩
  | markWriteEnd r => exact s.endMark_handles r
  | markWriteTimeout => exact s.endMark_handles .arrayFault
  | scanStepEnd => exact State.TablesKept.from (t := s.endScan) ⟨by simp, by simp⟩
  | runSliceExpiry => exact State.TablesKept.from (t := s.endSlice) ⟨by simp, by simp⟩
  | resetAssert => exact s.enterReset_handles.kept ⟨fun p => by cases p <;> rfl, rfl⟩
  | powerLoss => exact s.enterReset_handles.kept ⟨fun p => by cases p <;> rfl, rfl⟩
  | resetRelease =>
    exact State.HandlesFrom.leaveReset (s := { s with resetAsserted := false })
      (State.TablesKept.from ⟨fun p => by cases p <;> rfl, rfl⟩)
  | powerGood =>
    exact State.HandlesFrom.leaveReset (s := { s with powerGood := true })
      (State.TablesKept.from ⟨fun p => by cases p <;> rfl, rfl⟩)
  | startupComplete => exact s.startupComplete_handles
  | openHandle p tag m sel => cases sel <;> cases hr
  | _ => cases hr

end

/-! ## The step -/

section
variable {s t : State}

/-- A request's own arm takes it once it has arrived (R144, R149). -/
theorem after_request {c : Instr} {p : Port} {tag : Byte} {cmd : Cmd} {params : List Byte}
    (h : c.request = some (p, tag, cmd, params)) (s : State) : after c s = s.arrive c p (takeRequest c) := by
  unfold Instr.request at h
  split at h <;> cases h <;> rfl

theorem after_request_handles {c : Instr} (h : c.request ≠ none) (s : State) : s.HandlesAfter c (after c s) := by
  obtain ⟨⟨p, tag, cmd, params⟩, hr⟩ := Option.ne_none_iff_exists'.1 h
  rw [after_request hr]
  exact State.arrive_induct (State.HandlesAfter.reframe s c) (.inl (.refl s)) fun _ _ _ => takeRequest_handles c s

theorem after_waiting_handles (q : Port) (s : State) : s.HandlesFrom (after (.waitingRequestTaken q) s) ∨
    ∃ c, (s.port q).framing = .waiting c ∧ s.HandlesAfter c (after (.waitingRequestTaken q) s) := by
  simp only [after, exec, execWaitingRequestTaken]
  split
  · next c hc =>
    split
    · exact .inl (.refl s)
    · exact .inr ⟨c, hc, takeRequest_handles c s⟩
  · exact .inl (.refl s)

/-- The command at the front is an OPEN of port `p`, arriving or taken from WAITING (R94). -/
def State.TakesOpen (s : State) (p : Port) : Prop :=
  ∃ tag m sel rest, s.pending = .openHandle p tag m sel :: rest ∨
    ∃ q, s.pending = .waitingRequestTaken q :: rest ∧ (s.port q).framing = .waiting (.openHandle p tag m sel)

/-- What a step can do to the handle tables: nothing but make entries STALE or CLOSED, or what an OPEN does. -/
def State.StepsHandles (s t : State) : Prop := s.HandlesFrom t ∨ ∃ p k i, s.TakesOpen p ∧ s.Opens p k i t

theorem State.ServiceLaw.setPending (h : s.ServiceLaw) (l : List Instr) :
    State.ServiceLaw { s with pending := l } :=
  ⟨h.pass, h.work, h.writes, h.closed, h.calm, h.fresh⟩

theorem State.HandlesFrom.of_pending {l : List Instr} (h : State.HandlesFrom { s with pending := l } t) :
    s.HandlesFrom t :=
  ⟨h.opened, fun hv => h.active (hv.setPending l)⟩

theorem State.Opens.of_pending {l : List Instr} {p : Port} {k : Nat} {i : HandleInfo}
    (h : State.Opens { s with pending := l } p k i t) : s.Opens p k i t :=
  ⟨h.others, h.entry, h.apart, h.names, h.records⟩

theorem State.background_tables (s : State) : s.TablesKept s.background := ⟨by simp, by simp⟩

theorem step_handles (h : step s = .next t) : s.StepsHandles t := by
  rcases step_cases h with ⟨c, rest, hp, rfl⟩ | ⟨-, rfl⟩
  · by_cases hr : c.request = none
    · by_cases hw : ∃ q, c = .waitingRequestTaken q
      · obtain ⟨q, rfl⟩ := hw
        rcases after_waiting_handles q { s with pending := rest } with
          hf | ⟨c, hc, hf | ⟨p, tag, m, sel, k, i, rfl, ho⟩⟩
        · exact .inl hf.of_pending
        · exact .inl hf.of_pending
        · exact .inr ⟨p, k, i, ⟨tag, m, sel, rest, .inr ⟨q, hp, hc⟩⟩, ho.of_pending⟩
      · exact .inl (after_event_handles c _ hr (fun q e => hw ⟨q, e⟩)).of_pending
    · rcases after_request_handles hr { s with pending := rest } with hf | ⟨p, tag, m, sel, k, i, rfl, ho⟩
      · exact .inl hf.of_pending
      · exact .inr ⟨p, k, i, ⟨tag, m, sel, rest, .inl hp⟩, ho.of_pending⟩
  · exact .inl s.background_tables.from

theorem State.StepsHandles.handleLaw (h : s.StepsHandles t) (hs : s.HandleLaw) : t.HandleLaw := by
  rcases h with hf | ⟨p, k, i, -, ho⟩
  · exact hf.handleLaw hs
  · exact ho.handleLaw hs

theorem State.StepsHandles.openLaw (h : s.StepsHandles t) (hv : s.ServiceLaw) (hs : s.OpenLaw) : t.OpenLaw := by
  rcases h with hf | ⟨p, k, i, -, ho⟩
  · exact hf.openLaw hv hs
  · exact ho.openLaw hs

/-- An entry that becomes OPEN is the one an OPEN took (R94). -/
theorem State.StepsHandles.takesOpen (h : s.StepsHandles t) {p : Port} {k : Nat} {i : HandleInfo}
    (ht : t.handle p k = .opened i) (hs : s.handle p k ≠ .opened i) : s.TakesOpen p := by
  rcases h with hf | ⟨q, l, j, htake, ho⟩
  · exact absurd (hf.opened p k i ht) hs
  · rcases ho.cases ht with ⟨e, -⟩ | ⟨-, hi⟩
    · exact (Prod.mk.inj e).1 ▸ htake
    · exact absurd hi hs

end

/-- Settles O55: an OPEN passes the conflict check and names an ACTIVE record, and no other command opens an entry or
takes away a record that an OPEN entry names. -/
theorem stepsKeepTheHandles : Obligations.StepsKeepTheHandles := by
  unfold Obligations.StepsKeepTheHandles
  exact ⟨fun s t h => ⟨(step_handles h).handleLaw, fun p k i => (step_handles h).takesOpen⟩,
    fun s t hv hs h => (step_handles h).openLaw hv hs⟩

end Sys2Proof.Machine
end

section
/-! PROOFS. READ (R105 to R112, R139 to R141): the read path's answer for each activity of the array, and the command
from its frame to its answer or to its wait. -/

namespace Sys2Proof.Machine

/-! ## The checks before the read path -/

/-- With a directory in service the device state refuses only FORMAT and, in DEGRADED, the control commands (R155). -/
theorem Device.answer_none_of_loaded {s : State} (h : s.loaded = true) {c : Cmd} (hf : c ≠ .format)
    (hc : isControl c = false) : s.device.answer c = none := by
  have hd : s.device = .ready ∨ s.device = .degraded := by simpa [State.loaded] using h
  rcases hd with hd | hd <;> simp [hd, Device.answer, hf, hc]

theorem State.useHandle_opened {s : State} {p : Port} {k : Nat} {i : HandleInfo} (h : s.handle p k = .opened i) :
    s.useHandle p k = .ok i := by
  unfold State.useHandle; rw [h]

theorem readBlock_past_extent {s : State} {p : Port} {tag : Byte} {a : ReadArgs} {i : HandleInfo}
    (h : s.handle p a.handle = .opened i)
    (hr : (s.dir.extentOf i.region.number).count * 8192 < a.offset + a.length) :
    readBlock p tag a s = refuse .range s := by
  have hn : readInRange (s.dir.extentOf i.region.number) a = false := decide_eq_false (Nat.not_le.2 hr)
  simp [readBlock, State.useHandle_opened h, hn]

theorem readBlock_within_extent {s : State} {p : Port} {tag : Byte} {a : ReadArgs} {i : HandleInfo}
    (h : s.handle p a.handle = .opened i)
    (hr : a.offset + a.length ≤ (s.dir.extentOf i.region.number).count * 8192) :
    readBlock p tag a s = s.readPath ⟨p, tag, (s.dir.extentOf i.region.number).address a.offset, a.length⟩ := by
  have hn : readInRange (s.dir.extentOf i.region.number) a = true := decide_eq_true hr
  simp [readBlock, State.useHandle_opened h, hn]

/-! ## The units a READ touches -/

theorem touchedUnits_contains_iff {address length u : Nat} :
    (touchedUnits address length).contains u = true ↔
      u = address / 8192 ∨ u = (address + length - 1) / 8192 := by
  simp [touchedUnits]

theorem ArrayState.touchesIncomplete_eq (a : ArrayState) (address length : Nat) :
    a.touchesIncomplete address length =
      ((a.facts (address / 8192)).condition == .incomplete ||
        (a.facts ((address + length - 1) / 8192)).condition == .incomplete) := by
  simp [ArrayState.touchesIncomplete, touchedUnits]

/-! ## The read path by the current activity -/

/-- The activities behind which a READ waits: a page program, a scan, the time between two units, a mark phase
(R139). -/
def Activity.HoldsReads (x : Activity) : Prop :=
  (∃ k y, x = .program k y) ∨ (∃ run, x = .scan run) ∨ (∃ k v, x = .between k v) ∨ ∃ run, x = .mark run

theorem State.readPath_idle {s : State} (h : s.sched.activity = .idle) (w : ReadWait) :
    s.readPath w = (s, some (s.readReply w)) := by
  unfold State.readPath; rw [h]

theorem State.readPath_waits {s : State} (h : s.sched.activity.HoldsReads) (w : ReadWait) :
    s.readPath w = (s.await w, none) := by
  unfold State.readPath
  rcases h with ⟨_, _, h⟩ | ⟨_, h⟩ | ⟨_, _, h⟩ | ⟨_, h⟩ <;> rw [h]

section
variable {s : State} {w : ReadWait} {owner : EraseOwner} {run : EraseRun}

theorem State.readPath_erasing (ha : s.sched.activity = .erase owner run)
    (ht : (touchedUnits w.address w.length).contains run.unit = true) : s.readPath w = refuse .erasing s := by
  unfold State.readPath; rw [ha]; simp only [ht, if_true]

/-- The read path during the erase of a unit that the READ does not touch (R139 to R141). -/
theorem State.readPath_apart (ha : s.sched.activity = .erase owner run)
    (ht : (touchedUnits w.address w.length).contains run.unit = false) :
    s.readPath w =
      if run.suspended then (s.await w, none)
      else if Config.suspensionBudget ≤ run.suspensions then refuse .arrayBusy s
      else if run.sliceDone then ((s.await w).askSuspend owner run, none)
      else (s.await w, none) := by
  unfold State.readPath; rw [ha]; simp only [ht, Bool.false_eq_true, if_false]

theorem State.readPath_suspended (ha : s.sched.activity = .erase owner run)
    (ht : (touchedUnits w.address w.length).contains run.unit = false) (hs : run.suspended = true) :
    s.readPath w = (s.await w, none) := by
  rw [State.readPath_apart ha ht, if_pos hs]

theorem State.readPath_over_budget (ha : s.sched.activity = .erase owner run)
    (ht : (touchedUnits w.address w.length).contains run.unit = false) (hs : run.suspended = false)
    (hb : 24 ≤ run.suspensions) : s.readPath w = refuse .arrayBusy s := by
  rw [State.readPath_apart ha ht, if_neg (by simp [hs]), if_pos hb]

/-- Within the budget a READ joins the waiters, and after the run slice the suspension is asked for (R140). -/
theorem State.readPath_in_budget (ha : s.sched.activity = .erase owner run)
    (ht : (touchedUnits w.address w.length).contains run.unit = false) (hs : run.suspended = false)
    (hb : run.suspensions < 24) :
    s.readPath w = (if run.sliceDone then (s.await w).askSuspend owner run else s.await w, none) := by
  rw [State.readPath_apart ha ht, if_neg (by simp [hs]), if_neg (Nat.not_le.2 hb)]
  split <;> rfl

end

/-! ## The suspension request -/

section
variable {s : State} {owner : EraseOwner} {run : EraseRun}

theorem State.askSuspend_of_markWriting (h : run.markWriting = true) : s.askSuspend owner run = s := by
  unfold State.askSuspend; simp [h]

/-- A request within the budget, before the mark is being written, draws whether it comes in time (R140; log 10). -/
theorem State.askSuspend_draws (h : run.markWriting = false) (hb : run.suspensions < 24) :
    s.askSuspend owner run =
      if Config.suspendInTime s.draws = true then
        (match owner with
          | .slot k => State.mapSlot
            ({ s with draws := s.draws + 1 }.setActivity (.erase owner { run with settled := true, suspended := true }))
            k (fun b => { b with state := .suspended })
          | _ => { s with draws := s.draws + 1 }.setActivity
            (.erase owner { run with settled := true, suspended := true }))
      else { s with draws := s.draws + 1 }.setActivity
        (.erase owner { run with settled := true, markWriting := true }) := by
  have hn : ¬ Config.suspensionBudget ≤ run.suspensions := Nat.not_le.2 hb
  unfold State.askSuspend
  simp only [h, hn, decide_false, Bool.or_self, Bool.false_eq_true, if_false]
  cases owner <;> rfl

/-- The request reads and writes no port. -/
theorem State.askSuspend_setPort (s : State) (owner : EraseOwner) (run : EraseRun) (p : Port) (q : PortState) :
    (s.askSuspend owner run).setPort p q = (s.setPort p q).askSuspend owner run := by
  unfold State.askSuspend
  rw [State.setPort_draws]
  split
  · rfl
  · split
    · cases owner <;> cases p <;> rfl
    · cases p <;> rfl

end

/-! ## READ from its frame on -/

/-- A READ that waits: its entry with the waiters and its port EXECUTING (R139, R144). -/
def State.readWaits (s : State) (req : Instr) (w : ReadWait) : State :=
  (s.await w).setPort w.port { s.port w.port with framing := .executing req }

@[simp] theorem State.readWaits_draws (s : State) (req : Instr) (w : ReadWait) :
    (s.readWaits req w).draws = s.draws := by
  unfold State.readWaits; rw [State.setPort_draws, State.await_draws]

section
variable {s t : State} {p : Port} {tag h : Byte} {o : Word} {n : Half}

theorem exec_read (hs : s.Receives p .read tag) :
    exec (.read p tag h o n) s = .next (takeRead p tag h o n s) :=
  congrArg Host.Outcome.next (hs.arrive _ _)

theorem exec_read_decided (hs : s.Receives p .read tag) (hl : s.loaded = true)
    (hin : Instr.InRange (.read p tag h o n)) {r : Reply}
    (hk : readBlock p tag ⟨h.toNat, o.toNat, n.toNat⟩ s = (s, some r)) :
    exec (.read p tag h o n) s = .next (s.answered p .read tag r.status r.result r.incompleteData) := by
  obtain ⟨hh, hn1, hn2⟩ := hin
  rw [exec_read hs, takeRead, State.take_decided hs (readOperands_eq hh hn1 hn2)
    (Device.answer_none_of_loaded hl nofun rfl) rfl hk hs.decided]

theorem exec_read_undecided (hs : s.Receives p .read tag) (hl : s.loaded = true)
    (hin : Instr.InRange (.read p tag h o n))
    (hk : readBlock p tag ⟨h.toNat, o.toNat, n.toNat⟩ s = (t, none)) :
    exec (.read p tag h o n) s = .next (t.setPort p { t.port p with framing := .executing (.read p tag h o n) }) := by
  obtain ⟨hh, hn1, hn2⟩ := hin
  rw [exec_read hs, takeRead, State.take_undecided hs (readOperands_eq hh hn1 hn2)
    (Device.answer_none_of_loaded hl nofun rfl) rfl hk]

theorem exec_read_waits (hs : s.Receives p .read tag) (hl : s.loaded = true)
    (hin : Instr.InRange (.read p tag h o n)) {a l : Nat}
    (hk : readBlock p tag ⟨h.toNat, o.toNat, n.toNat⟩ s = (s.await ⟨p, tag, a, l⟩, none)) :
    exec (.read p tag h o n) s = .next (s.readWaits (.read p tag h o n) ⟨p, tag, a, l⟩) := by
  rw [exec_read_undecided hs hl hin hk, State.await_port]; rfl

theorem exec_read_asks (hs : s.Receives p .read tag) (hl : s.loaded = true)
    (hin : Instr.InRange (.read p tag h o n)) {a l : Nat} {owner : EraseOwner} {run : EraseRun}
    (hk : readBlock p tag ⟨h.toNat, o.toNat, n.toNat⟩ s =
      ((s.await ⟨p, tag, a, l⟩).askSuspend owner run, none)) :
    exec (.read p tag h o n) s =
      .next ((s.readWaits (.read p tag h o n) ⟨p, tag, a, l⟩).askSuspend owner run) := by
  rw [exec_read_undecided hs hl hin hk, State.askSuspend_port, State.askSuspend_setPort, State.await_port]; rfl

end

/-- Settles O32: the checks of R105 give RANGE or hand the READ to the read path, which decides by the activity. -/
theorem readIsDecidedByTheActivity : Obligations.ReadIsDecidedByTheActivity := by
  unfold Obligations.ReadIsDecidedByTheActivity
  rintro s w p tag h o n x e a hs hl hin hx rfl ha hw
  obtain rfl : w = s.readWaits (.read p tag h o n) ⟨p, tag, a, n.toNat⟩ := hw
  refine ⟨fun hpast => exec_read_decided hs hl hin (readBlock_past_extent hx hpast), fun hwithin => ?_⟩
  have hb : readBlock p tag ⟨h.toNat, o.toNat, n.toNat⟩ s = s.readPath ⟨p, tag, a, n.toNat⟩ :=
    ha ▸ readBlock_within_extent hx hwithin
  refine ⟨fun hidle => ?idle, fun hholds => ?holds,
    fun owner run herase => ⟨fun htouch => ?touched, fun hfirst hlast => ?apart⟩⟩
  case idle =>
    rw [← ArrayState.touchesIncomplete_eq]
    exact exec_read_decided hs hl hin (hb.trans (State.readPath_idle hidle _))
  case holds => exact exec_read_waits hs hl hin (hb.trans (State.readPath_waits hholds _))
  case touched =>
    exact exec_read_decided hs hl hin
      (hb.trans (State.readPath_erasing herase (touchedUnits_contains_iff.2 htouch)))
  case apart =>
    have hclear : (touchedUnits a n.toNat).contains run.unit = false :=
      Bool.eq_false_iff.2 fun hc => (touchedUnits_contains_iff.1 hc).elim hfirst hlast
    refine ⟨fun hsus => ?suspended, fun hsus hover => ?overBudget, fun hsus hbudget => ?inBudget⟩
    case suspended => exact exec_read_waits hs hl hin (hb.trans (State.readPath_suspended herase hclear hsus))
    case overBudget =>
      exact exec_read_decided hs hl hin (hb.trans (State.readPath_over_budget herase hclear hsus hover))
    case inBudget =>
      rw [State.readPath_in_budget herase hclear hsus hbudget] at hb
      refine ⟨fun hstays => exec_read_waits hs hl hin (hb.trans ?_), fun hslice hmark => ?_⟩
      · rcases hstays with hslice | hmark
        · rw [if_neg (by simp [hslice])]
        · rw [State.askSuspend_of_markWriting hmark, ite_self]
      · rw [if_pos hslice] at hb
        have hasked := State.askSuspend_draws (s := s.readWaits (.read p tag h o n) ⟨p, tag, a, n.toNat⟩)
          (owner := owner) hmark hbudget
        rw [State.readWaits_draws] at hasked
        exact (exec_read_asks hs hl hin hb).trans (congrArg Host.Outcome.next hasked)

end Sys2Proof.Machine
end

section
/-! PROOFS. IDENTIFY (R156): no replay, no device state and no inhibit input comes before its fixed answer. -/

namespace Sys2Proof.Machine

/-- The result of IDENTIFY byte by byte, the part's constants evaluated (R156). -/
theorem identifyResult_eq (p : Port) : identifyResult p =
    [0x54, 0x08, 0xD2, 1, if p = .a then 0 else 1, 0x04, 0x00, 0x20, 0x00, 0x02, 0x00, 32, 8, 12, 8, 0xEA, 0x60] := by
  cases p <;> decide

/-- No device state answers IDENTIFY before its port does (R155). -/
theorem Device.answer_identify (d : Device) : d.answer .identify = none := by cases d <;> decide

/-- The replay cache holds back no command that is not mutating, whatever it holds (R150, R151). -/
theorem State.Listens.receives {s : State} {p : Port} {cmd : Cmd} (h : s.Listens p) (hc : cmd ∉ mutatingCommands)
    (tag : Byte) : s.Receives p cmd tag :=
  ⟨h, fun _ _ => .inl hc⟩

theorem takeIdentify_eq {s : State} {p : Port} {tag : Byte} (h : s.Receives p .identify tag) :
    takeIdentify p tag s = s.answered p .identify tag .ok (identifyResult p) := by
  unfold takeIdentify
  exact State.take_decided (r := .ok (identifyResult p)) h rfl (Device.answer_identify s.device) rfl rfl h.decided

theorem exec_identify {s : State} {p : Port} (h : s.Listens p) (tag : Byte) :
    exec (.identify p tag) s = .next (takeIdentify p tag s) :=
  congrArg Host.Outcome.next (h.arrive _ _)

/-- Settles O11: a listening port takes IDENTIFY at once, and no check of R148 comes before its answer. -/
theorem identifyAnswers : Obligations.IdentifyAnswers := by
  unfold Obligations.IdentifyAnswers
  intro s p tag hs
  rw [exec_identify hs tag, takeIdentify_eq (hs.receives (by decide) tag), identifyResult_eq]

end Sys2Proof.Machine
end

section
/-! PROOFS. The checks before a block sees a request, for every request at once (R148 steps 3, 5, 6 and 7): repeats,
values out of range, the refusals of the device states, and the inhibit input. -/

namespace Sys2Proof.Machine

/-! ## What the arm of a request hands to `State.take` -/

/-- Whether an asserted inhibit input holds a request back: the control commands, PROGRAM, ERASE, FORMAT, and an OPEN
in a mode other than READ (R152). -/
def heldByInhibit (i : Instr) (cmd : Cmd) : Bool :=
  isControl cmd || cmd == .program || cmd == .erase || cmd == .format ||
    match i with
    | .openHandle _ _ m _ => decide (m ≠ 0)
    | _ => false

/-- A request taken in the order of R148, its operands none exactly where a value is out of range (step 5), its test for
the inhibit input true for what R152 lists (step 7). -/
inductive TakenInOrder (i : Instr) (p : Port) (tag : Byte) (cmd : Cmd) : Prop
  | intro {α : Type} {args : Option α} {heldBack : α → Bool} {block : α → State → State × Option Reply}
      (take : ∀ s, takeRequest i s = s.take i p cmd tag args heldBack block)
      (outOfRange : ¬ i.InRange → args = none)
      (inRange : i.InRange → ∃ a, args = some a ∧ (heldByInhibit i cmd = true → heldBack a = true)) :
      TakenInOrder i p tag cmd

/-- A request other than OPEN: the inhibit input holds it back by its command alone, whatever its operands (R152). -/
theorem TakenInOrder.byCommand {i : Instr} {p : Port} {tag : Byte} {cmd : Cmd} {α : Type} {args : Option α}
    {block : α → State → State × Option Reply}
    (outOfRange : ¬ i.InRange → args = none) (inRange : i.InRange → ∃ a, args = some a)
    (take : ∀ s, takeRequest i s = s.take i p cmd tag args (fun _ => heldByInhibit i cmd) block := by
      intro s; unfold takeRequest; rfl) : TakenInOrder i p tag cmd :=
  .intro take outOfRange fun hi => (inRange hi).imp fun _ ha => ⟨ha, id⟩

theorem overrideOf_isSome {b : Byte} (h : b.toNat ≤ 1) : ∃ v, overrideOf b = some v :=
  (overrideOf_some h).elim (fun e => ⟨_, e.2⟩) fun e => ⟨_, e.2⟩

theorem createOperands_some {p : Port} {tag rights placement : Byte} {first count : Half} {name : List Byte}
    (h : Instr.InRange (.create p tag rights placement first count name)) :
    ∃ a, createOperands rights placement first count name = some a := by
  obtain ⟨v, hv⟩ := Rights.ofCode_some h.2.1
  exact (createOperands_eq h (Rights.code_of_ofCode hv)).elim (fun e => ⟨_, e.2⟩) fun e => ⟨_, e.2⟩

/-- An OPEN is held back by the mode its operand form gives (R152). -/
theorem takenInOrder_open (p : Port) (tag m : Byte) (sel : Selector) :
    TakenInOrder (.openHandle p tag m sel) p tag .openHandle :=
  .intro (fun _ => rfl) openOperands_none fun h =>
    have ⟨_, _, ha, hw⟩ := openOperands_some h
    ⟨_, ha, fun hm => hw (of_decide_eq_true hm)⟩

/-- Every request is taken in the order of R148. -/
theorem Instr.takenInOrder {i : Instr} {p : Port} {tag : Byte} {cmd : Cmd} {params : List Byte}
    (h : i.request = some (p, tag, cmd, params)) : TakenInOrder i p tag cmd := by
  cases i with
  | identify | status | portReset | list | format =>
    cases h; exact .byCommand (fun hn => absurd trivial hn) fun _ => ⟨(), rfl⟩
  | unitInfo => cases h; exact .byCommand unitOperand_none fun hu => ⟨_, unitOperand_eq hu⟩
  | lookup => cases h; exact .byCommand nameOperand_none fun hn => ⟨_, nameOperand_eq hn⟩
  | readRecord => cases h; exact .byCommand regionOperand_none fun hr => ⟨_, regionOperand_eq hr⟩
  | create => cases h; exact .byCommand createOperands_none createOperands_some
  | grow => cases h; exact .byCommand growOperands_none fun ⟨hr, h1, h2⟩ => ⟨_, growOperands_eq hr h1 h2⟩
  | shrink =>
    cases h
    exact .byCommand shrinkOperands_none fun ⟨hr, h1, h2, ho⟩ =>
      have ⟨_, ho⟩ := overrideOf_isSome ho
      ⟨_, shrinkOperands_eq hr h1 h2 ho⟩
  | retire | hold =>
    cases h
    exact .byCommand overrideOperands_none fun ⟨hr, ho⟩ =>
      have ⟨_, ho⟩ := overrideOf_isSome ho
      ⟨_, overrideOperands_eq hr ho⟩
  | grant =>
    cases h
    exact .byCommand grantOperands_none fun ⟨hr, hv, ho⟩ =>
      have ⟨_, hv⟩ := Rights.ofCode_some hv
      have ⟨_, ho⟩ := overrideOf_isSome ho
      ⟨_, grantOperands_eq hr (Rights.code_of_ofCode hv) ho⟩
  | thaw | fix => cases h; exact .byCommand refOperand_none fun hr => ⟨_, refOperand_eq hr⟩
  | verify | close => cases h; exact .byCommand handleOperand_none fun hh => ⟨_, handleOperand_eq hh⟩
  | openHandle _ _ m sel => cases sel <;> (cases h; exact takenInOrder_open ..)
  | read => cases h; exact .byCommand readOperands_none fun ⟨hh, h1, h2⟩ => ⟨_, readOperands_eq hh h1 h2⟩
  | program => cases h; exact .byCommand programOperands_none fun ⟨hh, h1, h2⟩ => ⟨_, programOperands_eq hh h1 h2⟩
  | erase => cases h; exact .byCommand eraseOperands_none fun ⟨hh, hu, h1, h2⟩ => ⟨_, eraseOperands_eq hh hu h1 h2⟩
  | query | cancel | collect => cases h; exact .byCommand ticketOperand_none fun ⟨hn, hu⟩ => ⟨_, ticketOperand_eq hn hu⟩
  | _ => cases h

/-! ## Each check's answer -/

section
variable {i : Instr} {s : State} {p : Port} {tag : Byte} {cmd : Cmd} {params : List Byte}

theorem exec_request (hr : i.request = some (p, tag, cmd, params)) (h : s.Listens p) :
    exec i s = .next (takeRequest i s) := by
  rw [exec_eq_next, after_request hr, h.arrive]

theorem State.replay_eq {e : CacheEntry} (hc : (s.port p).cache = some e) (hm : cmd ∈ mutatingCommands) (ht : tag ≠ 0)
    (h1 : e.cmd = cmd) (h2 : e.tag = tag) : s.replay p cmd tag = some e.response := by
  unfold State.replay
  rw [hc]
  exact if_pos ⟨(isMutating_iff cmd).2 hm, ht, h1, h2⟩

theorem State.take_replay {α : Type} {args : Option α} {heldBack : α → Bool}
    {block : α → State → State × Option Reply} {r : Response} (h : s.replay p cmd tag = some r) :
    s.take i p cmd tag args heldBack block = s.sendReplay p r := by
  unfold State.take; rw [h]

theorem exec_replay (hr : i.request = some (p, tag, cmd, params)) (h : s.Listens p) {r : Response}
    (hc : s.replay p cmd tag = some r) : exec i s = .next (s.sendReplay p r) := by
  obtain ⟨take, _, _⟩ := Instr.takenInOrder hr
  rw [exec_request hr h, take, State.take_replay hc]

theorem exec_badParam (hr : i.request = some (p, tag, cmd, params)) (h : s.Receives p cmd tag) (hn : ¬ i.InRange) :
    exec i s = .next (s.answered p cmd tag .badParam []) := by
  obtain ⟨take, outOfRange, _⟩ := Instr.takenInOrder hr
  rw [exec_request hr h.toListens, take, State.take_badParam h (outOfRange hn)]

theorem exec_device (hr : i.request = some (p, tag, cmd, params)) (h : s.Receives p cmd tag) (hi : i.InRange)
    {st : Status} (hd : s.device.answer cmd = some st) : exec i s = .next (s.answered p cmd tag st []) := by
  obtain ⟨take, _, inRange⟩ := Instr.takenInOrder hr
  obtain ⟨a, ha, _⟩ := inRange hi
  rw [exec_request hr h.toListens, take, State.take_device h ha hd]

theorem exec_inhibited (hr : i.request = some (p, tag, cmd, params)) (h : s.Receives p cmd tag) (hi : i.InRange)
    (hd : s.device.answer cmd = none) (hb : heldByInhibit i cmd = true) (hin : (s.port p).inhibit = true) :
    exec i s = .next (s.answered p cmd tag .inhibited []) := by
  obtain ⟨take, _, inRange⟩ := Instr.takenInOrder hr
  obtain ⟨a, ha, hheld⟩ := inRange hi
  rw [exec_request hr h.toListens, take, State.take_inhibited h ha hd (hheld hb) hin]

end

/-! ## The device states -/

section
variable {d : Device} {c : Cmd}

theorem Device.answer_starting (h1 : c ≠ .identify) (h2 : c ≠ .status) :
    Device.starting.answer c = some .notReady := by
  simp [Device.answer, h1, h2]

theorem Device.answer_format_loaded (h : d = .ready ∨ d = .degraded) : d.answer .format = some .wrongState := by
  rcases h with rfl | rfl <;> rfl

theorem not_format_of_control (h : c ∈ controlCommands) : c ≠ .format := by
  rintro rfl; exact absurd h (by decide)

theorem Device.answer_control_degraded (h : c ∈ controlCommands) : Device.degraded.answer c = some .dirFault := by
  simp [Device.answer, not_format_of_control h, (isControl_iff c).2 h]

theorem Device.answer_control_ready (h : c ∈ controlCommands) : Device.ready.answer c = none := by
  simp [Device.answer, not_format_of_control h]

theorem Device.answer_recovery (h : c ∉ [Cmd.identify, .status, .unitInfo, .portReset, .query, .collect, .format]) :
    Device.recovery.answer c = some .wrongState := if_neg h

theorem Device.answer_formatting (h : c ∉ [Cmd.identify, .status, .unitInfo, .portReset, .query, .collect]) :
    Device.formatting.answer c = some .wrongState := if_neg h

end

/-! ## The statements -/

/-- Settles O6: the replay cache is looked up before every other check, with the entry the request repeats. -/
theorem repeatsAreReplayed : Obligations.RepeatsAreReplayed := by
  unfold Obligations.RepeatsAreReplayed
  intro i s p tag cmd params e hr hs hm ht hc h1 h2
  exact exec_replay hr hs (State.replay_eq hc hm ht h1 h2)

/-- Settles O7: a value out of range leaves the arm without operands, and no device state is asked. -/
theorem badParametersAreRefused : Obligations.BadParametersAreRefused := by
  unfold Obligations.BadParametersAreRefused
  intro i s p tag cmd params hr hs hn
  exact exec_badParam hr hs hn

/-- Settles O8: `Device.answer` gives each refusal of R155, and lets pass what R152 then has held back. -/
theorem deviceStateAndInhibitRefusals : Obligations.DeviceStateAndInhibitRefusals := by
  unfold Obligations.DeviceStateAndInhibitRefusals
  constructor
  · intro i s p tag cmd params hr hs hi
    refine ⟨fun hd h1 h2 => ?starting, fun hd hf => ?format, fun hd hc => ?degraded, fun hd hc => ?recovery,
      fun hd hc => ?formatting⟩
    case starting => exact exec_device hr hs hi (hd ▸ Device.answer_starting h1 h2)
    case format => exact exec_device hr hs hi (hf ▸ Device.answer_format_loaded hd)
    case degraded => exact exec_device hr hs hi (hd ▸ Device.answer_control_degraded hc)
    case recovery => exact exec_device hr hs hi (hd ▸ Device.answer_recovery hc)
    case formatting => exact exec_device hr hs hi (hd ▸ Device.answer_formatting hc)
  · intro i s p tag cmd params hr hs hi hin hlisted
    rcases hlisted with ⟨hd, hc⟩ | ⟨hl, rfl | rfl⟩ | ⟨hd, rfl⟩ | ⟨hl, m, sel, rfl, hm⟩
    · exact exec_inhibited hr hs hi (hd ▸ Device.answer_control_ready hc)
        (by simp [heldByInhibit, (isControl_iff cmd).2 hc]) hin
    · exact exec_inhibited hr hs hi (Device.answer_none_of_loaded hl nofun rfl) rfl hin
    · exact exec_inhibited hr hs hi (Device.answer_none_of_loaded hl nofun rfl) rfl hin
    · exact exec_inhibited hr hs hi (hd ▸ rfl) rfl hin
    · obtain rfl : cmd = .openHandle := by cases sel <;> (cases hr; rfl)
      exact exec_inhibited hr hs hi (Device.answer_none_of_loaded hl nofun rfl) (decide_eq_true hm) hin

end Sys2Proof.Machine
end

section
/-! PROOFS. The link of a port: the select edges, the end of a response and the inhibit input (R144, R146, R152,
R160). -/

namespace Sys2Proof.Machine

theorem PortState.selectRise_executing {q : PortState} {i : Instr} (h : q.framing = .executing i) :
    q.selectRise = { q with selectLow := false, framing := .idle, undecided := some i } := by
  unfold PortState.selectRise; rw [h]

theorem PortState.selectRise_idles {q : PortState} (h : ∀ i, q.framing ≠ .executing i) :
    q.selectRise = { q with selectLow := false, framing := .idle } := by
  unfold PortState.selectRise
  split
  · next i hi => exact absurd hi (h i)
  · rfl

section
variable {s : State} {p : Port}

/-- A fall of select by whether the part is in reset (R144, R160). -/
theorem exec_selectFall (h : (s.port p).selectLow = false) : exec (.selectFall p) s =
    .next (s.setPort p (if s.device = .inReset then { s.port p with selectLow := true }
      else (s.port p).beginPeriod s.device)) := by
  show execSelectFall p s = _
  unfold execSelectFall
  simp only [h, Bool.false_eq_true, if_false]
  split <;> rfl

theorem exec_responseSent {r : Response} (h : (s.port p).framing = .responding r) :
    exec (.responseSent p) s = .next (s.setPort p { s.port p with framing := .finished }) := by
  show execResponseSent p s = _
  unfold execResponseSent; rw [h]

end

/-- Settles O35: each event by its own equation, a rise of select by whether a command is EXECUTING. -/
theorem linkEventsMoveTheFraming : Obligations.LinkEventsMoveTheFraming := by
  unfold Obligations.LinkEventsMoveTheFraming
  intro s p
  refine ⟨fun hlow hd => ?fall, fun hlow hd => ?fallInReset, fun i hi => ?riseExecuting, fun hn => ?rise,
    fun r hr => exec_responseSent hr, fun v => rfl⟩
  case fall => rw [exec_selectFall hlow, if_neg hd]; rfl
  case fallInReset => rw [exec_selectFall hlow, if_pos hd]
  case riseExecuting => rw [← PortState.selectRise_executing hi]; rfl
  case rise => rw [← PortState.selectRise_idles hn]; rfl

end Sys2Proof.Machine
end

section
/-! PROOFS. What a step can do, once for every law: the changes a request makes where it is accepted, with the checks
that let it pass, and the events. A property that each of these gives holds after every step. -/

set_option Elab.async false

namespace Sys2Proof.Machine

/-- The changes of accepted requests to the state `s`, each with the checks before it (R51, R105, R148): `P` holds after
every one of them. -/
structure RequestCases (P : State → Prop) (s : State) : Prop where
  create : ∀ p a record first n, s.device = .ready → s.dir.findName a.name = none → s.dir.lowestFree = some record →
    allocate s.available a.placement a.count = some first → s.slotCheck p = .ok n → P (s.acceptCreate p a record first n)
  grow : ∀ p ref k r n, s.device = .ready → s.ownerHead p ref = .ok r → growChecks s k r = none →
    s.slotCheck p = .ok n → P (State.acceptGrow p ref k r n s)
  shrink : ∀ p ref k o r n, s.device = .ready → s.ownerHead p ref = .ok r → shrinkChecks s ref k o r = none →
    s.slotCheck p = .ok n → P (State.acceptShrink p ref k o r n s)
  retire : ∀ p ref o r n, s.device = .ready → s.ownerHead p ref = .ok r → retireChecks s ref o r = none →
    s.slotCheck p = .ok n → P (State.acceptRetire p ref o r n s)
  grant : ∀ p ref v o r n, s.device = .ready → s.ownerHead p ref = .ok r → grantChecks s p ref v o r = none →
    s.slotCheck p = .ok n → P (State.acceptGrant p ref v o r n s)
  hold : ∀ p ref o r n, s.device = .ready → s.ownerHead p ref = .ok r → holdChecks s ref o r = none →
    s.slotCheck p = .ok n → P (State.acceptHold p ref o r n s)
  thaw : ∀ p ref r n, s.device = .ready → s.ownerHead p ref = .ok r → s.slotCheck p = .ok n →
    P (State.acceptThaw p ref r n s)
  fix : ∀ p ref r n, s.device = .ready → s.ownerHead p ref = .ok r → fixChecks r = none → s.slotCheck p = .ok n →
    P (State.acceptFix p ref r n s)
  format : ∀ p n, s.device = .recovery → s.store.writer ≠ .fault → s.slotCheck p = .ok n → P (s.acceptFormat p n)
  setHandle : ∀ p h x, s.loaded = true → P (s.setHandle p h x)
  queueWork : ∀ n p w h ref, s.loaded = true → s.slotCheck p = .ok n → w.writes = true ∨ w = Work.verify →
    P (s.queueWork n p w h ref)
  readPath : ∀ w, s.loaded = true → P (s.readPath w).1
  cancelWaiting : ∀ p k b, s.loaded = true → s.resolveTicket p k = some b → b.state = .queued →
    P (s.cancelWaiting k.slot b)
  abortErase : ∀ n b run, s.loaded = true → (s.slot n).body = some b → b.state.onArray = true →
    s.sched.activity = .erase (.slot n) run → P (s.abortErase n run)
  cancelErase : ∀ n b u, s.loaded = true → (s.slot n).body = some b → b.state.onArray = true →
    s.sched.activity = .between n u → P (s.cancelErase n)
  cancelScan : ∀ run c, s.loaded = true → s.sched.activity = .scan run →
    P (s.setActivity (.scan { run with cancel := c }))
  collect : ∀ p k b, s.device.down = false → s.resolveTicket p k = some b → b.state.finished = true →
    P (s.freeSlot k.slot)
  clearNotice : ∀ p, P (s.clearNotice p)
  resetPort : ∀ p, s.device.down = false → P (s.resetPort p)

/-- A command that ends the unit erase on the array with this report (R11, R14). -/
def EndsErase (c : Instr) (r : ArrayEnd) : Prop := c = .eraseEnd r ∨ c = .eraseTimeout ∧ r = .arrayFault

/-- What the event `c` can do to the state `s`: `P` holds after every one of the changes. -/
structure EventCases (P : State → Prop) (c : Instr) (s : State) : Prop where
  select : ∀ p q, q.handles = (s.port p).handles → q.staleNotice = (s.port p).staleNotice → P (s.setPort p q)
  programEnd : ∀ r, P (s.endProgram r)
  eraseEnd : ∀ r, EndsErase c r → P (s.endErase r)
  markWriteEnd : ∀ r, P (s.endMark r)
  scanStepEnd : P s.endScan
  runSliceExpiry : P s.endSlice
  writeCompletes : P s.writeCompletes
  attemptFails : P s.attemptFails
  resetAssert : c = .resetAssert → P { s.enterReset with resetAsserted := true }
  powerLoss : c = .powerLoss → P { s.enterReset with powerGood := false }
  resetRelease : c = .resetRelease → P (State.leaveReset { s with resetAsserted := false })
  powerGood : c = .powerGood → P (State.leaveReset { s with powerGood := true })
  startup : s.device = .starting → P s.startup

section
variable {P : State → Prop} {s : State}

theorem ready_of_control {c : Cmd} {d : Device} (h : d.answer c = none) (hc : isControl c = true) : d = .ready := by
  cases d <;> cases c <;> simp_all [Device.answer, isControl]

theorem State.loaded_of_answer {c : Cmd} (h : s.device.answer c = none)
    (hc : c ∉ [Cmd.identify, .status, .unitInfo, .portReset, .query, .collect, .format]) : s.loaded = true := by
  rcases Device.answer_loaded h hc with h | h <;> simp [State.loaded, h]

theorem recovery_of_format {d : Device} (h : d.answer .format = none) : d = .recovery := by
  cases d <;> simp_all [Device.answer]

/-- An owner-only command changes nothing, or passes its head, its checks and the slot check (R51). -/
theorem State.ownerCommand_induct {p : Port} {ref : RegionRef} {checks : Region → Option Status}
    {accept : Region → Nat → State → State} (h : P s)
    (ha : ∀ r n, s.ownerHead p ref = .ok r → checks r = none → s.slotCheck p = .ok n → P (accept r n s)) :
    P (s.ownerCommand p ref checks accept).1 := by
  unfold State.ownerCommand
  split
  · exact h
  · next r hr =>
    split
    · exact h
    · next hk =>
      split
      · exact h
      · next n hn => exact ha r n hr hk hn

theorem RequestCases.createBlock (hr : RequestCases P s) (h : P s) (hd : s.device = .ready) (p : Port)
    (a : CreateArgs) : P (createBlock p a s).1 := by
  unfold Machine.createBlock
  split
  · exact h
  · next hn =>
    split
    · exact h
    · next record hf =>
      split
      · split <;> exact h
      · next first ha =>
        split
        · exact h
        · next n hs => exact hr.create p a record first n hd (by simpa using hn) hf ha hs

theorem RequestCases.formatBlock (hr : RequestCases P s) (h : P s) (hd : s.device = .recovery) (p : Port) :
    P (formatBlock p s).1 := by
  unfold Machine.formatBlock
  split
  · exact h
  · next hw =>
    split
    · exact h
    · next n hs => exact hr.format p n hd hw hs

theorem RequestCases.openBlock (hr : RequestCases P s) (h : P s) (hl : s.loaded = true) (p : Port) (a : Mode × Target) :
    P (openBlock p a s).1 := by
  unfold Machine.openBlock
  split
  · exact h
  · split
    · split
      · exact h
      · split
        · exact h
        · exact hr.setHandle _ _ _ hl
    · exact h

theorem RequestCases.closeBlock (hr : RequestCases P s) (h : P s) (hl : s.loaded = true) (p : Port) (k : Nat) :
    P (closeBlock p k s).1 := by
  unfold Machine.closeBlock
  split
  · exact h
  · split
    · exact h
    · exact hr.setHandle _ _ _ hl

theorem RequestCases.verifyBlock (hr : RequestCases P s) (h : P s) (hl : s.loaded = true) (p : Port) (k : Nat) :
    P (verifyBlock p k s).1 := by
  unfold Machine.verifyBlock
  split
  · exact h
  · split
    · exact h
    · next n hs => exact hr.queueWork _ _ _ _ _ hl hs (.inr rfl)

theorem RequestCases.writeBlock (hr : RequestCases P s) (h : P s) (hl : s.loaded = true) (p : Port) (k : Nat)
    (f : Extent → Bool) {w : Work} (hw : w.writes = true) : P (writeBlock p k f w s).1 := by
  unfold Machine.writeBlock
  split
  · exact h
  · split
    · exact h
    · split
      · exact h
      · split
        · exact h
        · next n hs => exact hr.queueWork _ _ _ _ _ hl hs (.inl hw)

theorem RequestCases.readBlock (hr : RequestCases P s) (h : P s) (hl : s.loaded = true) (p : Port) (tag : Byte)
    (a : ReadArgs) : P (readBlock p tag a s).1 := by
  unfold Machine.readBlock
  split
  · exact h
  · simp only
    split
    · exact hr.readPath _ hl
    · exact h

theorem State.body_of_resolve {p : Port} {k : Ticket} {b : SlotBody} (h : s.resolveTicket p k = some b) :
    (s.slot k.slot).body = some b ∧ (s.slot k.slot).useCount = k.useCount ∧ b.port = some p := by
  unfold State.resolveTicket at h
  split at h
  · cases h
  · next b' hb =>
    split at h
    · next hc => cases h; exact ⟨hb, hc⟩
    · cases h

theorem RequestCases.cancelBlock (hr : RequestCases P s) (h : P s) (hl : s.loaded = true) (p : Port) (tag : Byte)
    (k : Ticket) : P (cancelBlock p tag k s).1 := by
  unfold Machine.cancelBlock
  split
  · exact h
  · next b hb =>
    have hslot := (State.body_of_resolve hb).1
    split
    case h_1 hq => exact hr.cancelWaiting p k b hl hb hq
    case h_4 => exact h
    all_goals
      next hs =>
      have hon : b.state.onArray = true := by rw [hs]; rfl
      split
      · next n run ha =>
        split
        · next hn => exact hr.abortErase n b run hl (hn ▸ hslot) hon ha
        · exact h
      · next n u ha =>
        split
        · next hn => exact hr.cancelErase n b u hl (hn ▸ hslot) hon ha
        · exact h
      · next run ha =>
        split
        · exact hr.cancelScan run _ hl ha
        · exact h
      · exact h

theorem RequestCases.collectBlock (hr : RequestCases P s) (h : P s) (hd : s.device.down = false) (p : Port)
    (k : Ticket) : P (collectBlock p k s).1 := by
  unfold Machine.collectBlock
  split
  · exact h
  · next b hb =>
    split
    · next hf => exact hr.collect p k b hd hb hf
    · exact h

theorem ReframeClosed.takeFrameError (hc : ReframeClosed P) (p : Port) (frame : List Byte) (h : P s) :
    P (takeFrameError p frame s) := by
  unfold Machine.takeFrameError
  split
  · exact hc.answerFrame _ _ _ h
  · split
    · exact hc.sendReplay _ _ h
    · exact hc.answerFrame _ _ _ h
  · exact h

/-- A request that is taken reframes its port, and where its checks pass makes its own change (R148). -/
theorem RequestCases.takeRequest (hr : RequestCases P s) (hc : ReframeClosed P) (h : P s) (c : Instr) :
    P (takeRequest c s) := by
  cases c with
  | frameError p frame => exact hc.takeFrameError p frame h
  | unknownCommand p _ tag => exact hc.answerFrame p tag _ h
  | identify | unitInfo | list | readRecord => unfold Machine.takeRequest; exact State.take_induct hc h fun _ _ _ => h
  | lookup => exact State.take_induct hc h fun _ _ _ => by unfold lookupBlock; split <;> exact h
  | query => exact State.take_induct hc h fun _ _ _ => by unfold queryBlock; split <;> exact h
  | status p => unfold Machine.takeRequest; exact State.take_induct hc h fun _ _ _ => hr.clearNotice p
  | portReset p =>
    unfold Machine.takeRequest
    exact State.take_induct hc h fun _ _ hd => hr.resetPort p (Device.answer_down hd (by decide) (by decide))
  | create p => exact State.take_induct hc h fun a _ hd => hr.createBlock h (ready_of_control hd rfl) p a
  | grow =>
    exact State.take_induct hc h fun a _ hd =>
      State.ownerCommand_induct h fun r n => hr.grow _ _ _ r n (ready_of_control hd rfl)
  | shrink =>
    exact State.take_induct hc h fun a _ hd =>
      State.ownerCommand_induct h fun r n => hr.shrink _ _ _ _ r n (ready_of_control hd rfl)
  | retire =>
    exact State.take_induct hc h fun a _ hd =>
      State.ownerCommand_induct h fun r n => hr.retire _ _ _ r n (ready_of_control hd rfl)
  | grant =>
    exact State.take_induct hc h fun a _ hd =>
      State.ownerCommand_induct h fun r n => hr.grant _ _ _ _ r n (ready_of_control hd rfl)
  | hold =>
    exact State.take_induct hc h fun a _ hd =>
      State.ownerCommand_induct h fun r n => hr.hold _ _ _ r n (ready_of_control hd rfl)
  | thaw =>
    exact State.take_induct hc h fun a _ hd =>
      State.ownerCommand_induct h fun r n h1 _ => hr.thaw _ _ r n (ready_of_control hd rfl) h1
  | fix =>
    exact State.take_induct hc h fun a _ hd =>
      State.ownerCommand_induct h fun r n => hr.fix _ _ r n (ready_of_control hd rfl)
  | verify p => exact State.take_induct hc h fun k _ hd => hr.verifyBlock h (State.loaded_of_answer hd (by decide)) p k
  | format p =>
    unfold Machine.takeRequest
    exact State.take_induct hc h fun _ _ hd => hr.formatBlock h (recovery_of_format hd) p
  | openHandle p =>
    exact State.take_induct hc h fun a _ hd => hr.openBlock h (State.loaded_of_answer hd (by decide)) p a
  | close p => exact State.take_induct hc h fun k _ hd => hr.closeBlock h (State.loaded_of_answer hd (by decide)) p k
  | read p tag =>
    exact State.take_induct hc h fun a _ hd => hr.readBlock h (State.loaded_of_answer hd (by decide)) p tag a
  | program p =>
    exact State.take_induct hc h fun a _ hd =>
      hr.writeBlock h (State.loaded_of_answer hd (by decide)) p _ _ rfl
  | erase p =>
    exact State.take_induct hc h fun a _ hd =>
      hr.writeBlock h (State.loaded_of_answer hd (by decide)) p _ _ rfl
  | cancel p tag =>
    exact State.take_induct hc h fun k _ hd => hr.cancelBlock h (State.loaded_of_answer hd (by decide)) p tag k
  | collect p =>
    exact State.take_induct hc h fun k _ hd => hr.collectBlock h (Device.answer_down hd nofun nofun) p k
  | _ => exact h

theorem EventCases.after {c : Instr} (he : EventCases P c s) (hr : RequestCases P s) (hc : ReframeClosed P) (h : P s) :
    P (after c s) := by
  by_cases hq : c.request = none
  · cases c with
    | selectFall p =>
      simp only [Machine.after, exec, execSelectFall]
      split
      · exact h
      · split
        · exact he.select p _ rfl rfl
        · exact he.select p _ rfl rfl
    | selectRise p =>
      refine he.select p _ ?_ ?_ <;> (unfold PortState.selectRise; split <;> rfl)
    | frameError p frame =>
      simp only [Machine.after, exec, execFrameError]
      split
      · exact State.arrive_induct hc h fun _ _ _ => hc.takeFrameError p frame h
      · exact State.arrive_induct hc h fun _ _ _ => hc.takeFrameError p frame h
      · exact h
    | unknownCommand p code tag params =>
      simp only [Machine.after, exec, execUnknownCommand]
      split
      · exact State.arrive_induct hc h fun _ _ _ => hc.answerFrame p tag _ h
      · exact h
    | waitingRequestTaken p =>
      simp only [Machine.after, exec, execWaitingRequestTaken]
      split
      · split
        · exact h
        · exact hr.takeRequest hc h _
      · exact h
    | directoryWriteComplete => exact he.writeCompletes
    | attemptFail | attemptTimeout => exact he.attemptFails
    | programEnd r => exact he.programEnd r
    | programTimeout => exact he.programEnd .arrayFault
    | eraseEnd r => exact he.eraseEnd r (.inl rfl)
    | eraseTimeout => exact he.eraseEnd .arrayFault (.inr ⟨rfl, rfl⟩)
    | markWriteEnd r => exact he.markWriteEnd r
    | markWriteTimeout => exact he.markWriteEnd .arrayFault
    | scanStepEnd => exact he.scanStepEnd
    | runSliceExpiry => exact he.runSliceExpiry
    | resetAssert => exact he.resetAssert rfl
    | powerLoss => exact he.powerLoss rfl
    | resetRelease => exact he.resetRelease rfl
    | powerGood => exact he.powerGood rfl
    | startupComplete =>
      simp only [Machine.after, exec, execStartupComplete]
      split
      · next hd => exact he.startup hd
      · exact h
    | responseSent p =>
      simp only [Machine.after, exec, execResponseSent]
      split
      · exact he.select p _ rfl rfl
      · exact h
    | inhibitInputChange p v => exact he.select p _ rfl rfl
    | openHandle p tag m sel => cases sel <;> cases hq
    | _ => cases hq
  · obtain ⟨⟨p, tag, cmd, params⟩, hq⟩ := Option.ne_none_iff_exists'.1 hq
    rw [after_request hq]
    exact State.arrive_induct hc h fun _ _ _ => hr.takeRequest hc h c

end

/-- A property that every request, every event and every act of a pause gives holds after each step. -/
theorem step_induct {P : State → Prop} {s t : State} (hc : ReframeClosed P)
    (h : ∀ l, P { s with pending := l }) (hr : ∀ l, RequestCases P { s with pending := l })
    (he : ∀ c l, s.pending = c :: l → EventCases P c { s with pending := l }) (hb : P s.background)
    (hs : step s = .next t) : P t := by
  rcases step_cases hs with ⟨c, rest, hp, rfl⟩ | ⟨-, rfl⟩
  · exact (he c rest hp).after (hr rest) hc (h rest)
  · exact hb

end Sys2Proof.Machine
end

section
/-! PROOFS. The laws of the array over a step (R4, R10, R17, R85): out of service nothing works on the array, and in
service every change of the array is one of the operations that keep the laws. -/

set_option Elab.async false

namespace Sys2Proof.Machine

/-! ## PORT_RESET -/

/-- A PORT_RESET changes the directory in its QUEUED FIX slots' regions alone (R77, R129). -/
theorem State.releaseFixes_eq (s : State) (p : Port) :
    s.releaseFixes p = { s with dir := (s.releaseFixes p).dir } := by
  unfold State.releaseFixes
  refine List.foldlRecOn (motive := fun t : State => t = { s with dir := t.dir }) _ _ rfl fun t ht x _ => ?_
  split
  · split
    · rw [ht]; rfl
    · exact ht
  · exact ht

section
variable (s : State) (p : Port)

@[simp] theorem State.resetPort_device : (s.resetPort p).device = s.device := by
  simp only [State.resetPort, State.setPort_device]; rw [s.releaseFixes_eq p]
@[simp] theorem State.resetPort_array : (s.resetPort p).array = s.array := by
  simp only [State.resetPort, State.setPort_array]; rw [s.releaseFixes_eq p]
@[simp] theorem State.resetPort_store : (s.resetPort p).store = s.store := by
  simp only [State.resetPort, State.setPort_store]; rw [s.releaseFixes_eq p]
@[simp] theorem State.resetPort_formatWithdrawn : (s.resetPort p).formatWithdrawn = s.formatWithdrawn := by
  simp only [State.resetPort, State.setPort_formatWithdrawn]; rw [s.releaseFixes_eq p]
@[simp] theorem State.resetPort_draws : (s.resetPort p).draws = s.draws := by
  simp only [State.resetPort, State.setPort_draws]; rw [s.releaseFixes_eq p]
@[simp] theorem State.resetPort_pending : (s.resetPort p).pending = s.pending := by
  simp only [State.resetPort, State.setPort_pending]; rw [s.releaseFixes_eq p]
@[simp] theorem State.resetPort_resetAsserted : (s.resetPort p).resetAsserted = s.resetAsserted := by
  simp only [State.resetPort, State.setPort_resetAsserted]; rw [s.releaseFixes_eq p]
@[simp] theorem State.resetPort_powerGood : (s.resetPort p).powerGood = s.powerGood := by
  simp only [State.resetPort, State.setPort_powerGood]; rw [s.releaseFixes_eq p]
@[simp] theorem State.resetPort_slots : (s.resetPort p).slots = s.slots.map (Slot.portReset p) := by
  simp only [State.resetPort, State.setPort_slots]
@[simp] theorem State.resetPort_dir : (s.resetPort p).dir = (s.releaseFixes p).dir := by
  simp only [State.resetPort, State.setPort_dir]
theorem State.resetPort_sched : (s.resetPort p).sched = { s.sched with
    queue := s.sched.queue.filter fun n => !(s.slot n).queuedWith fun b => b.port == some p } := by
  simp only [State.resetPort, State.setPort_sched]; rw [s.releaseFixes_eq p]
theorem State.resetPort_port (q : Port) : (s.resetPort p).port q =
    if q = p then { s.port p with cache := none, staleNotice := false, handles := closedTable } else s.port q := by
  simp only [State.resetPort, State.setPort_port]; rw [s.releaseFixes_eq p]
  cases q <;> cases p <;> rfl

end

/-! ## Out of service -/

section
variable {s : State} (h : s.sched.activity = .idle)
include h

theorem State.endPause_idle : s.endPause = s := by unfold State.endPause; rw [h]
theorem State.endProgram_idle (r : ArrayEnd) : s.endProgram r = s := by unfold State.endProgram; rw [h]
theorem State.endErase_idle (r : ArrayEnd) : s.endErase r = s := by
  unfold State.endErase; rw [State.endPause_idle h, h]
theorem State.endMark_idle (r : ArrayEnd) : s.endMark r = s := by unfold State.endMark; rw [h]
theorem State.endScan_idle : s.endScan = s := by unfold State.endScan; rw [h]
theorem State.endSlice_idle : s.endSlice = s := by unfold State.endSlice; rw [State.endPause_idle h, h]
theorem State.background_idle : s.background = s := by unfold State.background; rw [h]

end

theorem State.writeCompletes_idle {s : State} (h : s.store.writer = .idle) : s.writeCompletes = s := by
  unfold State.writeCompletes; rw [h]
theorem State.attemptFails_idle {s : State} (h : s.store.writer = .idle) : s.attemptFails = s := by
  unfold State.attemptFails; rw [h]

theorem State.down_of_loaded {s : State} (h : s.loaded = true) : s.device.down = false := by
  cases hd : s.device <;> simp_all [State.loaded, Device.down]

/-! ## The laws since a state -/

/-- The array's laws hold, and since `s₀` no sure count fell and no sure mark went. -/
def State.ArraySince (s₀ s : State) : Prop := s.ArrayLaw ∧ s₀.HeadersGrow s

section
variable {s₀ s t : State}

theorem State.LiveSince.arraySince (h : s₀.LiveSince s) : s₀.ArraySince s := ⟨h.1.law, h.2⟩

theorem State.ArraySince.live (h : s₀.ArraySince s) (hd : s.device.down = false) : s₀.LiveSince s :=
  ⟨h.1.live hd, h.2⟩

theorem State.ArraySince.congr (h : s₀.ArraySince s) (hd : t.device = s.device) (ha : t.array = s.array)
    (hc : t.sched.activity = s.sched.activity) (hw : t.store.writer = s.store.writer) : s₀.ArraySince t := by
  obtain ⟨⟨h1, h2, h3, h4, h5, h6, h7⟩, hg⟩ := h
  refine ⟨⟨by rwa [ha], by rwa [ha], by rwa [ha], by rwa [hd, hc, hw], by rwa [hd, ha], by rwa [ha], by rwa [ha, hc]⟩,
    fun u => ?_⟩
  rw [State.sureHeader_congr ha hc]; exact hg u

theorem State.ArraySince.reframe (s₀ : State) : ReframeClosed s₀.ArraySince :=
  fun _ _ _ _ h => h.congr (by simp) (by simp) (by simp) (by simp)

/-- Out of service an event that the array's work or the writer alone can bring about changes nothing; in service it
keeps the laws. -/
theorem State.ArraySince.event (h : s₀.ArraySince s) (hi : s.sched.activity = .idle → s.store.writer = .idle → t = s)
    (hl : s₀.LiveSince s → s₀.LiveSince t) : s₀.ArraySince t := by
  cases hd : s.device.down with
  | true =>
    obtain ⟨ha, hw⟩ := h.1.quiet hd
    rwa [hi ha hw]
  | false => exact (hl (h.live hd)).arraySince

theorem State.ArraySince.requests (h : s₀.ArraySince s) : RequestCases s₀.ArraySince s := by
  have ready (hd : s.device = .ready) : s₀.LiveSince s := h.live (by rw [hd]; rfl)
  have loaded (hl : s.loaded = true) : s₀.LiveSince s := h.live (State.down_of_loaded hl)
  constructor
  case create =>
    intro p a record first n hd _ _ _ _
    exact ((ready hd).congr (by simp [State.acceptCreate]) (by simp [State.acceptCreate])
      (by simp [State.acceptCreate])).arraySince
  case grow => exact fun _ _ _ _ _ hd _ _ _ => ((ready hd).acceptGrow ..).arraySince
  case shrink => exact fun _ _ _ _ _ _ hd _ _ _ => ((ready hd).acceptShrink ..).arraySince
  case retire => exact fun _ _ _ _ _ hd _ _ _ => ((ready hd).acceptRetire ..).arraySince
  case grant => exact fun _ _ _ _ _ _ hd _ _ _ => ((ready hd).acceptGrant ..).arraySince
  case hold => exact fun _ _ _ _ _ hd _ _ _ => ((ready hd).acceptHold ..).arraySince
  case thaw => exact fun _ _ _ _ hd _ _ => ((ready hd).acceptThaw ..).arraySince
  case fix => exact fun _ _ _ _ hd _ _ _ => ((ready hd).acceptFix ..).arraySince
  case format =>
    intro p n hd _ _
    have hl : s₀.LiveSince s := h.live (by rw [hd]; rfl)
    exact State.LiveSince.arraySince (State.CoreSince.formatPass _ _ (hl.core.congr (by rw [hd]; rfl) rfl rfl))
  case setHandle => exact fun _ _ _ hl => (loaded hl).congr (by simp) (by simp) (by simp) |>.arraySince
  case queueWork => exact fun _ _ _ _ _ hl _ _ => ((loaded hl).queueWork ..).arraySince
  case readPath => exact fun _ hl => ((loaded hl).readPath _).arraySince
  case cancelWaiting => exact fun _ _ _ hl _ _ => ((loaded hl).cancelWaiting _ _).arraySince
  case abortErase => exact fun _ _ _ hl _ _ _ => ((loaded hl).abortErase _ _).arraySince
  case cancelErase => exact fun _ _ _ hl _ _ _ => ((loaded hl).cancelErase _).arraySince
  case cancelScan => exact fun _ _ hl _ => ((loaded hl).core.setActivity (by simp)).arraySince
  case collect => exact fun _ _ _ _ _ _ => h.congr rfl rfl rfl rfl
  case clearNotice => exact fun _ => h.congr (by simp) (by simp) (by simp) (by simp)
  case resetPort => exact fun _ _ => h.congr (by simp) (by simp) (by simp [State.resetPort_sched]) (by simp)

theorem State.leaveReset_array (s : State) : s.leaveReset.array = s.array := by
  unfold State.leaveReset; split <;> rfl

theorem State.ArraySince.leaveReset (h : s₀.ArraySince s) : s₀.ArraySince s.leaveReset := by
  unfold State.leaveReset
  split
  · next hd =>
    obtain ⟨⟨h1, h2, h3, h4, h5, h6, h7⟩, hg⟩ := h
    exact ⟨⟨h1, h2, h3, fun _ => h4 (by rw [hd.1]; rfl), nofun, h6, h7⟩, hg⟩
  · exact h

theorem State.ArrayLaw.events (h : s.ArrayLaw) (c : Instr) : EventCases s.ArraySince c s := by
  have h : s.ArraySince s := ⟨h, .refl s⟩
  constructor
  case select => exact fun _ _ _ _ => h.congr (by simp) (by simp) (by simp) (by simp)
  case programEnd => exact fun r => h.event (fun hi _ => State.endProgram_idle hi r) fun hl => hl.endProgram r
  case eraseEnd => exact fun r _ => h.event (fun hi _ => State.endErase_idle hi r) fun hl => hl.endErase r
  case markWriteEnd => exact fun r => h.event (fun hi _ => State.endMark_idle hi r) fun hl => hl.endMark r
  case scanStepEnd => exact h.event (fun hi _ => State.endScan_idle hi) fun hl => hl.endScan
  case runSliceExpiry => exact h.event (fun hi _ => State.endSlice_idle hi) fun hl => hl.endSlice
  case writeCompletes => exact h.event (fun _ hw => State.writeCompletes_idle hw) fun hl => hl.writeCompletes
  case attemptFails => exact h.event (fun _ hw => State.attemptFails_idle hw) fun hl => hl.attemptFails
  case resetAssert => exact fun _ => State.ArraySince.congr (State.enterReset_law h.1) rfl rfl rfl rfl
  case powerLoss => exact fun _ => State.ArraySince.congr (State.enterReset_law h.1) rfl rfl rfl rfl
  case resetRelease => exact fun _ => State.ArraySince.leaveReset (h.congr rfl rfl rfl rfl)
  case powerGood => exact fun _ => State.ArraySince.leaveReset (h.congr rfl rfl rfl rfl)
  case startup => exact fun hd => (State.startup_law h.1 hd).arraySince

theorem State.ArrayLaw.background (h : s.ArrayLaw) : s.ArraySince s.background :=
  State.ArraySince.event ⟨h, .refl s⟩ (fun hi _ => State.background_idle hi) fun hl => hl.background

end

/-- The queue of commands is no part of the array's laws. -/
theorem State.ArrayLaw.setPending {s : State} (h : s.ArrayLaw) (l : List Instr) :
    State.ArrayLaw { s with pending := l } :=
  ⟨h.data, h.headers, h.map, h.quiet, h.agrees, h.limit, h.started⟩

/-- Settles O51: by cases on the step, each change of the array being an operation that keeps its laws. -/
theorem stepsKeepTheArrayLaw : Obligations.StepsKeepTheArrayLaw := by
  unfold Obligations.StepsKeepTheArrayLaw
  intro s t h hs
  have since (l : List Instr) : s.ArraySince { s with pending := l } := ⟨h.setPending l, .refl s⟩
  exact step_induct (State.ArraySince.reframe s) since (fun l => (since l).requests)
    (fun c l _ => (h.setPending l).events c) h.background hs

end Sys2Proof.Machine
end

section
/-! PROOFS. Which operations change data bits (R6 to R9, R11 to R14, R18): a program turns bits of its range to 0, an
erase turns bits of its unit to 1, and nothing else writes the array's data. -/

set_option Elab.async false

namespace Sys2Proof.Machine

/-! ## What the operations of the array do to a byte -/

/-- From `a` to `b` bits of unit `u` may have turned to 1, and no other byte has changed (R11, R13, R14). -/
def ArrayState.SetsBitsOf (u : Nat) (a b : ArrayState) : Prop :=
  ∀ x, b.byte x = a.byte x ∨ x / 8192 = u ∧ a.byte x &&& b.byte x = a.byte x

theorem inUnit_iff {u x : Nat} : inUnit u x = true ↔ x / 8192 = u := by simp [inUnit]

theorem byte_and_or (a b : Byte) : a &&& (a ||| b) = a := by
  ext i hi; simp only [BitVec.getElem_and, BitVec.getElem_or]; cases a[i] <;> rfl

theorem byte_and_erased (a : Byte) : a &&& erasedByte = a := by
  have : erasedByte = BitVec.allOnes 8 := rfl
  rw [this, BitVec.and_allOnes]

section
variable {a b : ArrayState}

theorem ArrayState.SetsBitsOf.eraseData (a : ArrayState) (u : Nat) : a.SetsBitsOf u (a.eraseData u) := by
  intro x
  rw [ArrayState.byte_eraseData]
  split
  · next hx => exact .inr ⟨inUnit_iff.1 hx, byte_and_erased _⟩
  · exact .inl rfl

theorem ArrayState.SetsBitsOf.stopErase (h : Memory.wf a.data = true) (run : EraseRun) (sets : Nat → Byte) :
    a.SetsBitsOf run.unit (a.stopErase run sets) := by
  intro x
  rw [ArrayState.byte_stopErase h]
  split
  · next hx =>
    refine .inr ⟨inUnit_iff.1 hx, ?_⟩
    split
    · exact byte_and_erased _
    · exact byte_and_or _ _
  · exact .inl rfl

theorem ArrayState.byte_of_data (h : b.data = a.data) (x : Nat) : b.byte x = a.byte x := by
  unfold ArrayState.byte; rw [h]

theorem ArrayState.SetsBitsOf.of_data {c : ArrayState} {u : Nat} (h : a.SetsBitsOf u b) (hc : c.data = b.data) :
    a.SetsBitsOf u c := by
  intro x; rw [ArrayState.byte_of_data hc]; exact h x

theorem ArrayState.SetsBitsOf.from_data {c : ArrayState} {u : Nat} (h : a.SetsBitsOf u b) (hc : a.data = c.data) :
    c.SetsBitsOf u b := by
  intro x; rw [← ArrayState.byte_of_data hc]; exact h x

theorem ArrayState.SetsBitsOf.eraseContent {s : State} (h : Memory.wf s.array.data = true) (run : EraseRun)
    (r : ArrayEnd) : s.array.SetsBitsOf run.unit (s.eraseContent run r).array := by
  cases r with
  | success => exact (ArrayState.SetsBitsOf.eraseData s.array run.unit).of_data rfl
  | arrayFault => exact ArrayState.SetsBitsOf.stopErase h run _

theorem ArrayState.SetsBitsOf.cutErase (h : Memory.wf a.data = true) (run : EraseRun) (cut : EraseCut)
    (sets : Nat → Byte) : a.SetsBitsOf run.unit (a.cutErase run cut sets) := by
  have stop := ArrayState.SetsBitsOf.stopErase h run sets
  cases cut with
  | oldHeader =>
    unfold ArrayState.cutErase; simp only
    split
    · exact stop
    · exact fun x => .inl rfl
  | dataBits => exact stop
  | markAbsent =>
    unfold ArrayState.cutErase; simp only
    split
    · exact stop
    · exact .eraseData a _
  | markPresent =>
    unfold ArrayState.cutErase; simp only
    split
    · exact stop
    · exact (ArrayState.SetsBitsOf.eraseData a run.unit).of_data rfl

end

/-! ## Who may change a data bit -/

/-- The byte at `x` has turned bits to 0 by the program on the array, or to 1 by the erase on the array (R18). -/
def State.ByteWorked (s : State) (x : Nat) (t : State) : Prop :=
  (∃ n a o d, s.sched.activity = .program n a ∧ s.slotWork n = some (.program o d) ∧ a ≤ x ∧ x < a + d.length ∧
    t.array.byte x = s.array.byte x &&& d.getD (x - a) 0) ∨
  ∃ o run, s.sched.activity = .erase o run ∧ x / 8192 = run.unit ∧ s.array.byte x &&& t.array.byte x = s.array.byte x

/-- Every data byte that differs from `s` was changed by the array's work. -/
def State.BytesChanged (s t : State) : Prop := ∀ x, t.array.byte x ≠ s.array.byte x → s.ByteWorked x t

section
variable {s t u : State}

theorem State.BytesChanged.of_array (h : s.BytesChanged t) (hd : u.array.data = t.array.data) : s.BytesChanged u := by
  intro x hx
  have e := ArrayState.byte_of_data hd
  have := h x (by rwa [← e])
  simpa only [State.ByteWorked, e] using this

theorem State.BytesChanged.of_data (hd : t.array.data = s.array.data) : s.BytesChanged t :=
  fun x hx => absurd (ArrayState.byte_of_data hd x) hx

theorem State.BytesChanged.erase {o : EraseOwner} {run : EraseRun} (ha : s.sched.activity = .erase o run)
    (h : s.array.SetsBitsOf run.unit t.array) : s.BytesChanged t := fun x hx =>
  (h x).elim (fun e => absurd e hx) fun ⟨hu, hb⟩ => .inr ⟨o, run, ha, hu, hb⟩

/-- The bytes a PROGRAM slot keeps (R114, R123). -/
def State.pageData (s : State) (n : Nat) : List Byte :=
  match s.slotWork n with
  | some (.program _ d) => d
  | _ => []

theorem State.pageData_eq {n o : Nat} {d : List Byte} (h : s.slotWork n = some (.program o d)) : s.pageData n = d := by
  unfold State.pageData; rw [h]

theorem State.pageData_none {n : Nat} (h : ∀ o d, s.slotWork n ≠ some (.program o d)) : s.pageData n = [] := by
  unfold State.pageData
  split
  · next o d hw => exact absurd hw (h o d)
  · rfl

theorem State.endProgram_success {n a : Nat} (h : s.sched.activity = .program n a) : s.endProgram .success =
    State.freeArray (State.endSlot (State.mapSlot
      { s with array := s.array.programBytes (fun _ => true) a (s.pageData n) } n fun b => { b with progress := 1 })
      n .doneOk) := by
  unfold State.endProgram; rw [h]; rfl

theorem State.endProgram_fault {n a : Nat} (h : s.sched.activity = .program n a) : s.endProgram .arrayFault =
    State.freeArray (State.endSlot (State.drawn
      { s with array := s.array.programBytes (Config.programLanded s.draws) a (s.pageData n) })
      n (.doneFail .arrayFault)) := by
  unfold State.endProgram; rw [h]; rfl

theorem State.cutWork_program {n a : Nat} (h : s.sched.activity = .program n a) : s.cutWork =
    State.drawn { s with array := s.array.programBytes (Config.programLanded s.draws) a (s.pageData n) } := by
  unfold State.cutWork; rw [h]; rfl

theorem State.BytesChanged.program (h : Memory.wf s.array.data = true) {n a : Nat} {landed : Nat → Bool}
    (ha : s.sched.activity = .program n a)
    (ht : t.array.data = (s.array.programBytes landed a (s.pageData n)).data) : s.BytesChanged t := by
  intro x hx
  have e := ArrayState.byte_of_data ht x
  rw [e, ArrayState.byte_programBytes landed _ a h] at hx
  by_cases hw : ∃ o d, s.slotWork n = some (.program o d)
  · obtain ⟨o, d, hw⟩ := hw
    rw [State.pageData_eq hw] at hx e
    split at hx
    · next hc =>
      refine .inl ⟨n, a, o, d, ha, hw, hc.1, hc.2.1, ?_⟩
      rw [e, ArrayState.byte_programBytes landed _ a h, if_pos hc]
    · exact absurd rfl hx
  · rw [State.pageData_none fun o d hd => hw ⟨o, d, hd⟩] at hx
    refine absurd (if_neg fun hc => ?_) hx
    exact absurd (Nat.lt_of_le_of_lt hc.1 hc.2.1) (by simp)

theorem State.BytesChanged.endProgram (h : Memory.wf s.array.data = true) (r : ArrayEnd) :
    s.BytesChanged (s.endProgram r) := by
  by_cases hp : ∃ n a, s.sched.activity = .program n a
  · obtain ⟨n, a, ha⟩ := hp
    cases r with
    | success => exact .program h ha (landed := fun _ => true) (by rw [State.endProgram_success ha]; simp)
    | arrayFault => exact .program h ha (landed := Config.programLanded s.draws) (by rw [State.endProgram_fault ha]; simp)
  · refine .of_data ?_
    unfold State.endProgram
    split
    · next n a ha => exact absurd ⟨n, a, ha⟩ hp
    · rfl

/-! ## The end of an erase -/

@[simp] theorem State.resume_activity (s : State) (o : EraseOwner) (run : EraseRun) :
    (s.resume o run).sched.activity =
      .erase o { run with suspended := false, suspensions := run.suspensions + 1, sliceDone := false } := by
  unfold State.resume; cases o <;> rfl

/-- The erase on the array after a pause has run to its end is the one it stood in, or one started out of the time
between two units (log 2). -/
theorem State.erase_of_endPause {o : EraseOwner} {run : EraseRun} (h : s.endPause.sched.activity = .erase o run) :
    (∃ run', s.sched.activity = .erase o run' ∧ run'.unit = run.unit) ∨ ∃ n u, s.sched.activity = .between n u := by
  unfold State.endPause at h
  split at h
  · next o' run' ha =>
    refine .inl ⟨run', ?_⟩
    split at h
    · rw [State.resume_activity] at h; cases h; exact ⟨ha, rfl⟩
    · rw [h] at ha; cases ha; exact ⟨h, rfl⟩
  · next n u ha => exact .inr ⟨n, u, ha⟩
  · next hne _ => exact absurd h (hne o run)

/-- The owner of an erase that has ended does not touch the array's data. -/
theorem State.endErase_data {o : EraseOwner} {run : EraseRun} (h : s.endPause.sched.activity = .erase o run)
    (r : ArrayEnd) : (s.endErase r).array.data = (s.endPause.eraseContent run r).array.data := by
  unfold State.endErase; rw [h]
  cases o <;> simp

theorem State.endErase_setsBits (h : Memory.wf s.array.data = true) {o : EraseOwner} {run : EraseRun}
    (ha : s.endPause.sched.activity = .erase o run) (r : ArrayEnd) :
    s.array.SetsBitsOf run.unit (s.endErase r).array :=
  ((ArrayState.SetsBitsOf.eraseContent (by rwa [State.endPause_array_data]) run r).of_data
    (State.endErase_data ha r)).from_data (State.endPause_array_data s)

/-- An end changes bytes of the erase on the array, or, out of the time between two units, bytes of one unit. -/
theorem State.BytesChanged.endErase (h : Memory.wf s.array.data = true) (r : ArrayEnd) :
    s.BytesChanged (s.endErase r) ∨
      ∃ n u v, s.sched.activity = .between n u ∧ s.array.SetsBitsOf v (s.endErase r).array := by
  by_cases he : ∃ o run, s.endPause.sched.activity = .erase o run
  · obtain ⟨o, run, he⟩ := he
    have sets := State.endErase_setsBits h he r
    rcases State.erase_of_endPause he with ⟨run', ha, hu⟩ | ⟨n, u, ha⟩
    · exact .inl (.erase ha (hu ▸ sets))
    · exact .inr ⟨n, u, run.unit, ha, sets⟩
  · refine .inl (.of_data ?_)
    unfold State.endErase
    split
    · next o run ha => exact absurd ⟨o, run, ha⟩ he
    · rfl

/-! ## Reset and CANCEL -/

@[simp] theorem State.cutWrite_array (s : State) : s.cutWrite.array = s.array := by
  unfold State.cutWrite; split <;> rfl

theorem State.BytesChanged.cutWork (h : Memory.wf s.array.data = true) : s.BytesChanged s.cutWork := by
  cases ha : s.sched.activity with
  | program n a => exact .program h ha (by rw [State.cutWork_program ha]; rfl)
  | erase o run =>
    refine .erase ha ?_
    unfold State.cutWork; rw [ha]
    exact ArrayState.SetsBitsOf.cutErase h run _ _
  | mark run => refine .of_data ?_; unfold State.cutWork; rw [ha]; simp only; split <;> rfl
  | _ => refine .of_data ?_; unfold State.cutWork; rw [ha]

theorem State.BytesChanged.enterReset (h : Memory.wf s.array.data = true) : s.BytesChanged s.enterReset := by
  unfold State.enterReset
  split
  · exact .of_data rfl
  · exact (State.BytesChanged.cutWork h).of_array (by simp [State.loseVolatile])

theorem State.BytesChanged.abortErase (h : Memory.wf s.array.data = true) {n : Nat} {run : EraseRun}
    (ha : s.sched.activity = .erase (.slot n) run) : s.BytesChanged (s.abortErase n run) :=
  .erase ha ((ArrayState.SetsBitsOf.stopErase h run (Config.eraseSets s.draws)).of_data
    (by simp [State.abortErase, State.cancelErase]))

theorem State.readPath_array (s : State) (w : ReadWait) : (s.readPath w).1.array = s.array := by
  unfold State.readPath
  (repeat' split) <;> simp [refuse]

theorem State.startup_data (s : State) : s.startup.array.data = s.array.data := by
  unfold State.startup
  split <;> simp [State.enterService, State.initialise]

/-! ## The step -/

/-- A property of the states with the data of `s`: of all requests an aborted erase alone has to give it by itself. -/
theorem RequestCases.of_data {P : State → Prop} (hd : ∀ t : State, t.array.data = s.array.data → P t)
    (ha : ∀ n run, s.sched.activity = .erase (.slot n) run → P (s.abortErase n run)) : RequestCases P s := by
  constructor
  case create => intros; exact hd _ (by simp [State.acceptCreate])
  case grow => intros; exact hd _ (by simp [State.acceptGrow])
  case shrink => intros; exact hd _ (by simp only [State.acceptShrink]; split <;> simp)
  case retire => intros; exact hd _ (by simp only [State.acceptRetire]; split <;> simp [State.invalidate])
  case grant => intros; exact hd _ (by simp only [State.acceptGrant]; split <;> simp [State.invalidate])
  case hold => intros; exact hd _ (by simp only [State.acceptHold]; split <;> simp [State.invalidate])
  case thaw => intros; exact hd _ (by simp [State.acceptThaw])
  case fix => intros; exact hd _ (by simp [State.acceptFix])
  case format => intros; exact hd _ (by simp [State.acceptFormat])
  case setHandle => intros; exact hd _ (by simp)
  case queueWork => intros; exact hd _ (by simp)
  case readPath => intros; exact hd _ (by rw [State.readPath_array])
  case cancelWaiting => intros; exact hd _ (by simp only [State.cancelWaiting]; split <;> simp)
  case abortErase => exact fun n b run _ _ _ h => ha n run h
  case cancelErase => intros; exact hd _ (by simp [State.cancelErase])
  case cancelScan => intros; exact hd _ rfl
  case collect => intros; exact hd _ rfl
  case clearNotice => intros; exact hd _ (by simp)
  case resetPort => intros; exact hd _ (by simp)

/-- Of all events the ends of programs and erases, and a loss of RESET or power, have to give it by themselves. -/
theorem EventCases.of_data {P : State → Prop} {c : Instr} (hd : ∀ t : State, t.array.data = s.array.data → P t)
    (hprogram : ∀ r, P (s.endProgram r)) (herase : ∀ r, EndsErase c r → P (s.endErase r))
    (hreset : ∀ t : State, t.array.data = s.enterReset.array.data → P t) : EventCases P c s := by
  constructor
  case select => intros; exact hd _ (by simp)
  case programEnd => exact hprogram
  case eraseEnd => exact herase
  case markWriteEnd => intros; exact hd _ (by simp)
  case scanStepEnd => exact hd _ (by simp)
  case runSliceExpiry => exact hd _ (by simp)
  case writeCompletes => exact hd _ (by simp)
  case attemptFails => exact hd _ (by simp)
  case resetAssert => exact fun _ => hreset _ rfl
  case powerLoss => exact fun _ => hreset _ rfl
  case resetRelease => exact fun _ => hd _ (by rw [State.leaveReset_array])
  case powerGood => exact fun _ => hd _ (by rw [State.leaveReset_array])
  case startup => exact fun _ => hd _ s.startup_data

/-- Every data byte that differs from `s` was changed by the work on the array, or is of a unit whose erase an end has
started out of the time between two units (R18; log 2). -/
def State.BytesAllowed (s t : State) : Prop :=
  s.BytesChanged t ∨ ∃ n u v rest, s.sched.activity = .between n u ∧
    (s.pending = .eraseTimeout :: rest ∨ ∃ r, s.pending = .eraseEnd r :: rest) ∧ s.array.SetsBitsOf v t.array

theorem State.BytesAllowed.reframe (s : State) : ReframeClosed s.BytesAllowed := by
  rintro t p q - (h | ⟨n, u, v, rest, ha, hp, hs⟩)
  · exact .inl (h.of_array (by simp))
  · exact .inr ⟨n, u, v, rest, ha, hp, hs.of_data (by simp)⟩

theorem step_bytesAllowed (h : s.ArrayLaw) (hs : step s = .next t) : s.BytesAllowed t := by
  have same (t : State) (e : t.array.data = s.array.data) : s.BytesAllowed t := .inl (.of_data e)
  have worked {l : List Instr} {t : State} (hb : State.BytesChanged { s with pending := l } t) : s.BytesAllowed t :=
    .inl hb
  refine step_induct (State.BytesAllowed.reframe s) (fun l => same _ rfl)
    (fun l => RequestCases.of_data same fun n run ha =>
      worked (State.BytesChanged.abortErase (s := { s with pending := l }) h.data ha)) (fun c l hp => ?_)
    (same _ (by simp)) hs
  refine EventCases.of_data same
    (fun r => worked (State.BytesChanged.endProgram (s := { s with pending := l }) h.data r)) (fun r hc => ?_)
    (fun t ht => worked (State.BytesChanged.of_array
      (State.BytesChanged.enterReset (s := { s with pending := l }) h.data) ht))
  rcases State.BytesChanged.endErase (s := { s with pending := l }) h.data r with hb | ⟨n, u, v, ha, sets⟩
  · exact worked hb
  · refine .inr ⟨n, u, v, l, ha, ?_, sets⟩
    rcases hc with rfl | ⟨rfl, -⟩
    · exact .inr ⟨r, hp⟩
    · exact .inl hp

end

/-- Settles O52: of all operations only the ends of programs and erases, an aborted erase and a loss of RESET or power
write the data, and each does it in its own range or unit. -/
theorem dataBitsChangeByProgramOrErase : Obligations.DataBitsChangeByProgramOrErase := by
  unfold Obligations.DataBitsChangeByProgramOrErase
  intro s t x h hs hx
  rcases step_bytesAllowed h hs with hb | ⟨n, u, v, rest, ha, hp, sets⟩
  · exact (hb x hx).elim .inl fun he => .inr (.inl he)
  · obtain ⟨hv, hbits⟩ := (sets x).resolve_left hx
    exact .inr (.inr ⟨n, u, rest, ha, hp, hbits, fun y hy => (sets y).resolve_right fun e => hy (e.1.trans hv.symm)⟩)

end Sys2Proof.Machine
end

section
/-! PROOFS. What a step can do to the directory, the store and the device state, as a chain of a few elementary changes,
each with the checks that come before it. The laws of names, places, store and tables are kept by each change. -/

set_option Elab.async false

namespace Sys2Proof.Machine

/-! ## The elementary changes -/

/-- Directory, store, device state and FORMAT's set are as they were, and a scrub erase on the array is the one of
before, or one of a unit of the scrub list. -/
structure State.SameDirectory (s t : State) : Prop where
  device : t.device = s.device
  dir : t.dir = s.dir
  store : t.store = s.store
  formatWithdrawn : t.formatWithdrawn = s.formatWithdrawn
  scrubbing : ∀ run, t.sched.activity = .erase .scrub run →
    (∃ run', s.sched.activity = .erase .scrub run' ∧ run'.unit = run.unit) ∨
    ∃ f ∈ s.dir.scrub, f.extent.contains run.unit = true

/-- The changes that accepted region commands, the ends of FIX work and PORT_RESET make in the directory. -/
inductive State.DirChange (s : State) : Directory → Prop
  | create (n : Nat) (d : Identity) (e : Extent) : s.dir.findName d.name = none → (s.dir.record n).body = .free →
      runFits s.available e.first e.count = true → DirChange s (s.dir.setBody n (.pending d e))
  | region (n : Nat) (f : Region → Region) : (∀ r, (f r).ident.name = r.ident.name) → (∀ r, (f r).extent = r.extent) →
      (∀ r, (f r).growth = r.growth) → DirChange s (s.dir.mapRegion n f)
  | grow (n k : Nat) (r : Region) : (s.dir.record n).body = .active r → r.growth = none →
      runFits s.available (r.extent.first + r.extent.count) k = true →
      DirChange s (s.dir.mapRegion n fun r => { r with growth := some k })
  | shrink (n k : Nat) (r : Region) : (s.dir.record n).body = .active r → r.growth = none → k < r.extent.count →
      s.dir.scrub.length < Config.scrubDepth → DirChange s (s.dir.shrink n k r.extent)
  | retire (n : Nat) (r : Region) : (s.dir.record n).body = .active r → r.growth = none →
      s.dir.scrub.length < Config.scrubDepth → DirChange s (s.dir.retire n r)

/-- One elementary change of directory, store or device state. `G` is what the laws of service say of the state the
step began in. -/
inductive State.DirMove (G : Prop) : State → State → Prop
  | same {s t} : s.SameDirectory t → DirMove G s t
  | region {s d} : s.DirChange d → DirMove G s { s with dir := d }
  | scrubbed {s} (i u : Nat) (withdrawn : Bool) :
      (withdrawn = true → (∃ f ∈ s.dir.scrub, f.extent.contains u = true) ∨
        ∃ run, s.sched.activity = .erase .scrub run ∧ run.unit = u) →
      DirMove G s { s.setActivity .idle with
        dir := if withdrawn then (s.dir.advance i).withdraw u else s.dir.advance i }
  | removed {s} (i : Nat) : s.sched.activity = .idle →
      DirMove G s { s with dir := { s.dir with scrub := s.dir.scrub.eraseIdx i } }
  | dirty {s} (b : Bool) : DirMove G s { s with store := { s.store with dirty := b } }
  | startWrite {s} : s.store.writer = .idle → DirMove G s s.startWrite
  | fault {s} : DirMove G s s.writerFault
  | complete {s job} : s.store.writer = .writing job → job.format = false → (G → s.loaded = true) →
      DirMove G s (s.completeWrite job)
  | completeFormat {s job} : s.store.writer = .writing job → (G → s.device = .formatting ∧ s.sched.activity = .idle) →
      DirMove G s (s.completeFormat job)
  | damage {s job} (field : Option Word) : s.store.writer = .writing job →
      DirMove G s { s with store := s.store.setCopy job.target (.damaged field) }
  | retry {s job} : s.store.writer = .writing job → job.attempt < Config.writeAttempts →
      DirMove G s { s with store := { s.store with writer := .writing { job with attempt := job.attempt + 1 } } }
  | beginFormat {s} : s.device = .recovery → DirMove G s { s with device := .formatting, formatWithdrawn := [] }
  | formatWithdraw {s} (u : Nat) : (G → u < Config.unitCount) → DirMove G s (s.formatWithdraw u)
  | formatWrite {s} : (G → s.device = .formatting) → DirMove G s s.formatWrite
  | reset {s} : DirMove G s s.enterReset
  | start {s} : DirMove G s s.leaveReset
  | load {s c i} (dirty : Bool) : s.store.choose = .load c i → DirMove G s { s.initialise with
      device := .ready
      dir := i.working.reconcile s.initialise.array
      store := { s.initialise.store with current := some c, durable := i.sequence, dirty := dirty } }
  | loadEmpty {s} (dirty : Bool) : s.store.choose = .empty → DirMove G s { s.initialise with
      device := .ready
      dir := Directory.empty.reconcile s.initialise.array
      store := { s.initialise.store with current := none, durable := 0, dirty := dirty } }
  | noDirectory {s} : s.store.choose = .noDirectory → DirMove G s { s.initialise with device := .recovery }

/-- A chain of elementary changes. -/
def State.DirMoves (G : Prop) : State → State → Prop := Relation.ReflTransGen (State.DirMove G)

section
variable {G : Prop} {s₀ s t : State}

theorem State.DirMoves.refl (G : Prop) (s : State) : State.DirMoves G s s := Relation.ReflTransGen.refl

theorem State.DirMoves.move (h : State.DirMoves G s₀ s) (hm : State.DirMove G s t) : State.DirMoves G s₀ t :=
  Relation.ReflTransGen.tail h hm

theorem State.DirMoves.same (h : State.DirMoves G s₀ s) (hs : s.SameDirectory t) : State.DirMoves G s₀ t :=
  h.move (.same hs)

/-- The parts a directory change touches are those of before, and so is the activity. -/
theorem State.SameDirectory.of_eq (h1 : t.device = s.device) (h2 : t.dir = s.dir) (h3 : t.store = s.store)
    (h4 : t.formatWithdrawn = s.formatWithdrawn) (h5 : t.sched.activity = s.sched.activity) : s.SameDirectory t :=
  ⟨h1, h2, h3, h4, fun run h => .inl ⟨run, by rwa [← h5], rfl⟩⟩

/-- The array has been freed, or given to work that is no scrub erase. -/
theorem State.SameDirectory.of_activity (h1 : t.device = s.device) (h2 : t.dir = s.dir) (h3 : t.store = s.store)
    (h4 : t.formatWithdrawn = s.formatWithdrawn) (h5 : ∀ run, t.sched.activity ≠ .erase .scrub run) :
    s.SameDirectory t :=
  ⟨h1, h2, h3, h4, fun run h => absurd h (h5 run)⟩

theorem State.DirMoves.drawn (h : State.DirMoves G s₀ s) : State.DirMoves G s₀ s.drawn :=
  h.same (.of_eq rfl rfl rfl rfl rfl)

theorem State.DirMoves.reframe (G : Prop) (s₀ : State) : ReframeClosed (State.DirMoves G s₀) :=
  fun _ _ _ _ h => h.same (.of_eq (by simp) (by simp) (by simp) (by simp) (by simp))

/-! ## The writer -/

theorem State.DirMoves.kick (h : State.DirMoves G s₀ s) : State.DirMoves G s₀ s.kick := by
  unfold State.kick
  split
  · next hw => exact h.move (.startWrite hw.1)
  · exact h

theorem State.DirMoves.markDirty (h : State.DirMoves G s₀ s) : State.DirMoves G s₀ s.markDirty :=
  State.DirMoves.kick (h.move (.dirty true))

theorem State.DirMoves.waitDirectory (h : State.DirMoves G s₀ s) (p : Port) (w : Work) (ref : RegionRef) (n : Nat) :
    State.DirMoves G s₀ (s.waitDirectory p w ref n) :=
  State.DirMoves.markDirty (h.same (.of_eq rfl rfl rfl rfl rfl))

/-! ## The offer -/

@[simp] theorem State.startErase_activity (s : State) (o : EraseOwner) (u : Nat) :
    (s.startErase o u).sched.activity = .erase o ⟨u, s.array.header u, false, false, 0, false, false⟩ := rfl

theorem State.eraseUnit_not_scrub (s : State) (n u : Nat) (run : EraseRun) :
    (s.eraseUnit n u).sched.activity ≠ .erase .scrub run := by
  unfold State.eraseUnit
  split <;> simp

/-- The start of a slot gives the array to no scrub erase. -/
theorem State.startSlot_scrub {n : Nat} {run : EraseRun} (h : (s.startSlot n).sched.activity = .erase .scrub run) :
    s.sched.activity = .erase .scrub run := by
  unfold State.startSlot at h
  split at h
  · exact h
  · split at h
    · split at h
      · unfold State.startProgram at h
        split at h
        · exact h
        · simp at h
      · exact h
    · split at h
      · exact absurd h (State.eraseUnit_not_scrub _ _ _ _)
      · exact h
    · simp at h
    · simp at h
    · exact h

theorem State.DirMoves.startSlot (h : State.DirMoves G s₀ s) (n : Nat) : State.DirMoves G s₀ (s.startSlot n) :=
  h.same ⟨by simp, by simp, by simp, by simp, fun run hr => .inl ⟨run, State.startSlot_scrub hr, rfl⟩⟩

theorem State.DirMoves.scrubbed (h : State.DirMoves G s₀ s) (hi : s.sched.activity = .idle) (i u : Nat)
    (withdrawn : Bool) (hu : withdrawn = true → ∃ f ∈ s.dir.scrub, f.extent.contains u = true) :
    State.DirMoves G s₀ (s.scrubbed i u withdrawn) := by
  have hm := h.move (.scrubbed i u withdrawn fun hw => .inl (hu hw))
  unfold State.scrubbed
  cases withdrawn
  · exact hm.same (.of_eq rfl rfl rfl rfl hi)
  · exact State.DirMoves.markDirty (hm.same (.of_eq rfl rfl rfl rfl hi))

theorem State.DirMoves.removeComplete (h : State.DirMoves G s₀ s) (hi : s.sched.activity = .idle) (i : Nat) :
    State.DirMoves G s₀ (s.removeComplete i) := by
  unfold State.removeComplete
  split
  · exact State.DirMoves.markDirty (h.move (.removed i hi))
  · exact h

/-- The unit scrub comes to next lies in its extent (R65). -/
theorem Directory.next_contained {d : Directory} {i : Nat} (hi : d.eligible = some i)
    (hc : ¬ (d.scrubAt i).complete = true) :
    ∃ f ∈ d.scrub, f.extent.contains (d.scrubAt i).next = true := by
  have hlt := Directory.eligible_lt hi
  have he : d.scrubAt i = d.scrub[i] := by simp [Directory.scrubAt, hlt]
  refine ⟨d.scrub[i], List.getElem_mem _, ?_⟩
  rw [he] at hc ⊢
  simp only [ScrubExtent.complete, decide_eq_true_eq] at hc
  unfold Extent.contains ScrubExtent.next
  rw [Bool.and_eq_true, decide_eq_true_eq, decide_eq_true_eq]
  omega

theorem State.DirMoves.offerScrub (k : Nat) : ∀ {s : State}, State.DirMoves G s₀ s → s.sched.activity = .idle →
    State.DirMoves G s₀ (State.offerScrub k s) := by
  induction k with
  | zero => exact fun h _ => h
  | succ k ih =>
    intro s h hi
    unfold State.offerScrub
    split
    · exact h
    · next i he =>
      split
      · exact ih (h.removeComplete hi i) (by simpa using hi)
      · next hc =>
        split
        · exact ih ((h.scrubbed hi i _ false nofun).removeComplete (by simpa using hi) i) (by simpa using hi)
        · split
          · exact ih ((h.scrubbed hi i _ true fun _ => Directory.next_contained he hc).removeComplete
              (by simpa using hi) i) (by simpa using hi)
          · refine h.same ⟨rfl, rfl, rfl, rfl, fun run hr => .inr ?_⟩
            rw [State.startErase_activity] at hr
            cases hr
            exact Directory.next_contained he hc

theorem State.DirMoves.offerQueue (l : List Nat) : ∀ {s : State}, State.DirMoves G s₀ s → s.sched.activity = .idle →
    State.DirMoves G s₀ (State.offerQueue l s) := by
  induction l with
  | nil => exact fun h hi => h.offerScrub _ hi
  | cons n rest ih =>
    intro s h hi
    unfold State.offerQueue
    have hs : State.DirMoves G s₀ (State.startSlot { s with sched := { s.sched with queue := rest } } n) := by
      refine State.DirMoves.startSlot ?_ n
      exact h.same (.of_eq rfl rfl rfl rfl rfl)
    simp only
    split
    · next ha => exact ih hs ha
    · exact hs

theorem State.DirMoves.serveAll (h : State.DirMoves G s₀ s) : State.DirMoves G s₀ s.serveAll :=
  h.same (.of_eq (by simp) (by simp) (by simp) (by simp) (by simp))

theorem State.DirMoves.offer (h : State.DirMoves G s₀ s) : State.DirMoves G s₀ s.offer := by
  unfold State.offer
  split
  · next hi => exact h.serveAll.offerQueue _ (by simpa using hi.1)
  · exact h

theorem State.DirMoves.setActivity (h : State.DirMoves G s₀ s) {a : Activity} (ha : ∀ run, a ≠ .erase .scrub run) :
    State.DirMoves G s₀ (s.setActivity a) :=
  h.same (.of_activity rfl rfl rfl rfl ha)

theorem State.DirMoves.freeArray (h : State.DirMoves G s₀ s) : State.DirMoves G s₀ s.freeArray :=
  State.DirMoves.offer (h.setActivity nofun)

/-! ## Pauses -/

theorem State.DirMoves.resume (h : State.DirMoves G s₀ s) {o : EraseOwner} {run : EraseRun}
    (ha : s.sched.activity = .erase o run) : State.DirMoves G s₀ (s.resume o run) := by
  refine h.same ⟨by simp, by simp, by simp, by simp, fun r hr => .inl ⟨run, ?_⟩⟩
  rw [State.resume_activity] at hr
  cases hr
  exact ⟨ha, rfl⟩

theorem State.DirMoves.nextUnit (h : State.DirMoves G s₀ s) (n u : Nat) : State.DirMoves G s₀ (s.nextUnit n u) :=
  State.DirMoves.offer (h.same (.of_activity (by simp) (by simp) (by simp) (by simp) (State.eraseUnit_not_scrub s n u)))

theorem State.DirMoves.endPause (h : State.DirMoves G s₀ s) : State.DirMoves G s₀ s.endPause := by
  unfold State.endPause
  split
  · next ha =>
    split
    · exact h.serveAll.resume (by simpa using ha)
    · exact h
  · exact h.serveAll.nextUnit _ _
  · exact h

theorem State.DirMoves.serve (h : State.DirMoves G s₀ s) (w : ReadWait) : State.DirMoves G s₀ (s.serve w) :=
  h.same (.of_eq (by simp) (by simp) (by simp) (by simp) (by simp))

theorem State.DirMoves.background (h : State.DirMoves G s₀ s) : State.DirMoves G s₀ s.background := by
  unfold State.background
  split
  · next ha _ =>
    split
    · exact h.resume ha
    · exact h
  · split
    · refine State.DirMoves.serve ?_ _
      exact h.same (.of_eq rfl rfl rfl rfl rfl)
    · exact h
  · exact h.nextUnit _ _
  · refine State.DirMoves.serve ?_ _
    exact h.same (.of_eq rfl rfl rfl rfl rfl)
  · exact h

/-- What a suspension request leaves on the array is the erase that was on it (R12, R140). -/
theorem State.askSuspend_erase {o o' : EraseOwner} {run run' : EraseRun} (ha : s.sched.activity = .erase o run)
    (h : (s.askSuspend o run).sched.activity = .erase o' run') : o' = o ∧ run'.unit = run.unit := by
  unfold State.askSuspend at h
  split at h
  · rw [ha] at h; cases h; exact ⟨rfl, rfl⟩
  · split at h
    · cases o <;> (cases h; exact ⟨rfl, rfl⟩)
    · cases h; exact ⟨rfl, rfl⟩

theorem State.DirMoves.askSuspend (h : State.DirMoves G s₀ s) {o : EraseOwner} {run : EraseRun}
    (ha : s.sched.activity = .erase o run) : State.DirMoves G s₀ (s.askSuspend o run) := by
  refine h.same ⟨by simp, by simp, by simp, by simp, fun r hr => .inl ⟨run, ?_⟩⟩
  obtain ⟨ho, hu⟩ := State.askSuspend_erase ha hr
  exact ⟨ho ▸ ha, hu.symm⟩

theorem State.DirMoves.readPath (h : State.DirMoves G s₀ s) (w : ReadWait) : State.DirMoves G s₀ (s.readPath w).1 := by
  have hw : State.DirMoves G s₀ (s.await w) := h.same (.of_eq rfl rfl rfl rfl rfl)
  unfold State.readPath
  split
  · exact h
  · exact hw
  · exact hw
  · exact hw
  · exact hw
  · next owner run ha =>
    split
    · exact h
    · split
      · exact hw
      · split
        · exact h
        · split
          · exact hw.askSuspend (by simpa using ha)
          · exact hw

/-! ## The ends of array work -/

theorem State.DirMoves.endSlot (h : State.DirMoves G s₀ s) (n : Nat) (st : SlotState) :
    State.DirMoves G s₀ (s.endSlot n st) :=
  h.same (.of_eq rfl rfl rfl rfl rfl)

theorem State.DirMoves.mapSlot (h : State.DirMoves G s₀ s) (n : Nat) (f : SlotBody → SlotBody) :
    State.DirMoves G s₀ (s.mapSlot n f) :=
  h.same (.of_eq rfl rfl rfl rfl rfl)

theorem State.DirMoves.endProgram (h : State.DirMoves G s₀ s) (r : ArrayEnd) :
    State.DirMoves G s₀ (s.endProgram r) := by
  unfold State.endProgram
  split
  · cases r
    · exact State.DirMoves.freeArray (h.same (.of_eq rfl rfl rfl rfl rfl))
    · exact State.DirMoves.freeArray (h.same (.of_eq rfl rfl rfl rfl rfl))
  · exact h

/-- Whether an ERASE slot has units left to erase (R119). -/
def State.unitsLeft (s : State) (n : Nat) : Bool :=
  match (s.slot n).body with
  | some b => match b.work with
    | .erase _ c => decide (b.progress < c)
    | _ => false
  | none => false

/-- A slot's progress advanced by one unit. -/
def State.unitDone (s : State) (n : Nat) : State := s.mapSlot n fun b => { b with progress := b.progress + 1 }

theorem State.slotUnitEnd_success (s : State) (n u : Nat) : s.slotUnitEnd n u .success =
    if (s.unitDone n).unitsLeft n then (s.unitDone n).serveAll.setActivity (.between n (u + 1))
    else ((s.unitDone n).endSlot n .doneOk).freeArray := rfl

theorem State.DirMoves.slotUnitEnd (h : State.DirMoves G s₀ s) (n u : Nat) (r : ArrayEnd) :
    State.DirMoves G s₀ (s.slotUnitEnd n u r) := by
  cases r with
  | arrayFault => exact (h.endSlot n _).freeArray
  | success =>
    rw [State.slotUnitEnd_success]
    split
    · exact (h.mapSlot n _).serveAll.setActivity (by simp)
    · exact ((h.mapSlot n _).endSlot n _).freeArray

theorem State.DirMoves.scrubUnitEnd (h : State.DirMoves G s₀ s) {run : EraseRun}
    (ha : s.sched.activity = .erase .scrub run) (r : ArrayEnd) : State.DirMoves G s₀ (s.scrubUnitEnd run.unit r) := by
  unfold State.scrubUnitEnd
  split
  · exact h.freeArray
  · next i _ =>
    refine State.DirMoves.freeArray (State.DirMoves.removeComplete ?_ (by simp) i)
    have hm (w : Bool) := h.move (G := G) (.scrubbed i run.unit w fun _ => .inr ⟨run, ha, rfl⟩)
    unfold State.scrubbed
    split
    · exact State.DirMoves.markDirty (hm true)
    · exact hm false

theorem State.DirMoves.formatPass (n k : Nat) : ∀ {s : State}, State.DirMoves G s₀ s → (G → s.device = .formatting) →
    State.DirMoves G s₀ (State.formatPass n k s) := by
  induction k with
  | zero => exact fun h hd => h.move (.formatWrite hd)
  | succ k ih =>
    intro s h hd
    unfold State.formatPass
    simp only
    split
    · refine ih (State.DirMoves.mapSlot (h.move (.formatWithdraw _ fun _ => ?_)) n _) hd
      exact Nat.sub_lt (by decide) (Nat.succ_pos k)
    · exact h.same (.of_activity rfl rfl rfl rfl nofun)

theorem State.DirMoves.formatUnitEnd (h : State.DirMoves G s₀ s) (hd : G → s.device = .formatting) {u : Nat}
    (hu : G → u < Config.unitCount) (n : Nat) (r : ArrayEnd) : State.DirMoves G s₀ (s.formatUnitEnd n u r) := by
  unfold State.formatUnitEnd
  simp only
  split
  · exact State.DirMoves.formatPass n _ (State.DirMoves.mapSlot (h.move (.formatWithdraw u hu)) n _) hd
  · exact State.DirMoves.formatPass n _ (h.mapSlot n _) hd

/-- An offer starts no erase of a FORMAT pass (R136, R170). -/
theorem State.offerScrub_not_format (k : Nat) {n : Nat} {run : EraseRun} : ∀ s : State, s.sched.activity = .idle →
    (State.offerScrub k s).sched.activity ≠ .erase (.format n) run := by
  induction k with
  | zero => intro s hi h; rw [State.offerScrub, hi] at h; cases h
  | succ k ih =>
    intro s hi
    unfold State.offerScrub
    split
    · rw [hi]; nofun
    · split
      · exact ih _ (by simpa using hi)
      · split
        · exact ih _ (by simpa using hi)
        · split
          · exact ih _ (by simpa using hi)
          · simp

theorem State.eraseUnit_not_format (s : State) (n u m : Nat) (run : EraseRun) :
    (s.eraseUnit n u).sched.activity ≠ .erase (.format m) run := by
  unfold State.eraseUnit
  split <;> simp

theorem State.startSlot_not_format {n m : Nat} {run : EraseRun} (hi : s.sched.activity = .idle) :
    (s.startSlot n).sched.activity ≠ .erase (.format m) run := by
  unfold State.startSlot
  split
  · rw [hi]; nofun
  · split
    · split
      · unfold State.startProgram
        split
        · simp [hi]
        · simp
      · simp [hi]
    · split
      · exact State.eraseUnit_not_format _ _ _ _ _
      · simp [hi]
    · simp
    · simp
    · rw [hi]; nofun

theorem State.offerQueue_not_format (l : List Nat) {m : Nat} {run : EraseRun} : ∀ s : State,
    s.sched.activity = .idle → (State.offerQueue l s).sched.activity ≠ .erase (.format m) run := by
  induction l with
  | nil => exact fun s hi => State.offerScrub_not_format _ s hi
  | cons n rest ih =>
    intro s hi
    unfold State.offerQueue
    simp only
    split
    · next ha => exact ih _ ha
    · exact State.startSlot_not_format hi

theorem State.offer_format {n : Nat} {run : EraseRun} (h : s.offer.sched.activity = .erase (.format n) run) :
    s.sched.activity = .erase (.format n) run := by
  unfold State.offer at h
  split at h
  · next hi => exact absurd h (State.offerQueue_not_format _ _ (by simpa using hi.1))
  · exact h

/-- A pause that ends leaves an erase of the FORMAT pass on the array only where it stood in one (R141, R170). -/
theorem State.endPause_format {n : Nat} {run : EraseRun} (h : s.endPause.sched.activity = .erase (.format n) run) :
    s.endPause.device = s.device ∧ s.endPause.store = s.store ∧
      ∃ run', s.sched.activity = .erase (.format n) run' ∧ run'.unit = run.unit := by
  rcases State.erase_of_endPause h with ⟨run', ha, hu⟩ | ⟨m, u, ha⟩
  · refine ⟨?_, ?_, run', ha, hu⟩
    · unfold State.endPause; rw [ha]; simp only; split <;> simp
    · unfold State.endPause; rw [ha]; simp only; split <;> simp
  · unfold State.endPause at h
    rw [ha] at h
    exact absurd (State.offer_format h) (State.eraseUnit_not_format _ _ _ _ _)

theorem State.DirMoves.eraseContent (h : State.DirMoves G s₀ s) (run : EraseRun) (r : ArrayEnd) :
    State.DirMoves G s₀ (s.eraseContent run r) :=
  h.same (.of_eq (by simp) (by simp) (by simp) (by simp) (by simp))

theorem State.DirMoves.endErase (h : State.DirMoves G s₀ s) (hG : G → s.ServiceLaw) (r : ArrayEnd) :
    State.DirMoves G s₀ (s.endErase r) := by
  unfold State.endErase
  split
  · next owner run ha =>
    have hm := h.endPause.eraseContent run r
    cases owner with
    | slot n => exact hm.slotUnitEnd n _ r
    | scrub => exact hm.scrubUnitEnd (by simpa using ha) r
    | format n =>
      obtain ⟨hd, -, run', ha', hu⟩ := State.endPause_format ha
      have pass (g : G) := (hG g).pass n run' ha'
      refine hm.formatUnitEnd (fun g => ?_) (fun g => ?_) n r
      · simpa [hd] using (pass g).1
      · rw [← hu]; exact (pass g).2.2
  · exact h

theorem State.DirMoves.setFreeze (h : State.DirMoves G s₀ s) (n : Nat) (l : Freeze) :
    State.DirMoves G s₀ (s.setFreeze n l) :=
  h.move (.region (.region n _ (fun _ => rfl) (fun _ => rfl) fun _ => rfl))

theorem State.DirMoves.fixMarked (h : State.DirMoves G s₀ s) (n : Nat) : State.DirMoves G s₀ (s.fixMarked n) := by
  unfold State.fixMarked
  split
  · exact (State.DirMoves.endSlot (h.move (.dirty true)) n _).freeArray
  · exact ((h.mapSlot n _).setActivity (by simp)).markDirty.freeArray

theorem State.DirMoves.fixFault (h : State.DirMoves G s₀ s) (n region : Nat) (e : Extent) :
    State.DirMoves G s₀ (s.fixFault n region e) := by
  have ht := (h.endSlot n (.doneFail .arrayFault)).setActivity (a := .idle) (by simp)
  unfold State.fixFault
  simp only
  split
  · exact (ht.setFreeze _ _).markDirty.freeArray
  · exact (ht.setFreeze _ _).freeArray

theorem State.DirMoves.endMark (h : State.DirMoves G s₀ s) (r : ArrayEnd) : State.DirMoves G s₀ (s.endMark r) := by
  unfold State.endMark
  split
  · cases r
    · simp only
      have hm (a : ArrayState) : State.DirMoves G s₀ { s with array := a } := h.same (.of_eq rfl rfl rfl rfl rfl)
      split
      · exact ((hm _).mapSlot _ _).serveAll.setActivity (by simp)
      · exact ((hm _).mapSlot _ _).fixMarked _
    · refine State.DirMoves.fixFault (h.same ?_) _ _ _
      split <;> exact .of_eq rfl rfl rfl rfl rfl
  · exact h

theorem State.DirMoves.answerCancel (h : State.DirMoves G s₀ s) (c : Option (Port × Byte)) (st : Status)
    (x : SlotState) : State.DirMoves G s₀ (s.answerCancel c st x) :=
  (State.DirMoves.reframe G s₀).answerCancel c st x h

theorem State.DirMoves.endScan (h : State.DirMoves G s₀ s) : State.DirMoves G s₀ s.endScan := by
  unfold State.endScan
  split
  · simp only
    split
    · split
      · exact (((h.mapSlot _ _).endSlot _ _).answerCancel _ _ _).freeArray
      · exact (h.mapSlot _ _).serveAll.setActivity (by simp)
    · split
      · exact ((h.mapSlot _ _).mapSlot _ _).serveAll.setActivity (by simp)
      · exact ((((h.mapSlot _ _).mapSlot _ _).endSlot _ _).answerCancel _ _ _).freeArray
  · exact h

theorem State.DirMoves.endSlice (h : State.DirMoves G s₀ s) : State.DirMoves G s₀ s.endSlice := by
  unfold State.endSlice
  split
  · next owner run ha =>
    have ht : State.DirMoves G s₀
        (s.endPause.setActivity (.erase owner { run with sliceDone := true, settled := true })) := by
      refine h.endPause.same ⟨rfl, rfl, rfl, rfl, fun r hr => .inl ⟨run, ?_⟩⟩
      rw [State.setActivity_activity] at hr
      cases hr
      exact ⟨ha, rfl⟩
    simp only
    split
    · exact ht
    · exact ht.askSuspend rfl
  · exact h

/-! ## Reset and start-up -/

theorem State.DirMoves.startup (h : State.DirMoves G s₀ s) : State.DirMoves G s₀ s.startup := by
  unfold State.startup
  split
  · next hc =>
    unfold State.enterService
    exact State.DirMoves.offer (State.DirMoves.kick (h.move (.load _ hc)))
  · next hc =>
    unfold State.enterService
    exact State.DirMoves.offer (State.DirMoves.kick (h.move (.loadEmpty _ hc)))
  · next hc => exact h.move (.noDirectory hc)

theorem State.DirMoves.writeCompletes (h : State.DirMoves G s₀ s) (hG : G → s.ServiceLaw) :
    State.DirMoves G s₀ s.writeCompletes := by
  unfold State.writeCompletes
  split
  · next job hw =>
    split
    · next hf =>
      refine h.move (.completeFormat hw fun g => ?_)
      rcases (hG g).writes job hw with ⟨hn, -⟩ | ⟨-, hd, hi⟩
      · rw [hf] at hn; cases hn
      · exact ⟨hd, hi⟩
    · next hf =>
      refine (State.DirMoves.kick (h.move (.complete hw (by simpa using hf) fun g => ?_))).offer
      rcases (hG g).writes job hw with ⟨-, hl⟩ | ⟨hf', -⟩
      · exact hl
      · exact absurd hf' hf
  · exact h

theorem State.DirMoves.attemptFails (h : State.DirMoves G s₀ s) : State.DirMoves G s₀ s.attemptFails := by
  unfold State.attemptFails
  split
  · next job hw =>
    have hd := State.DirMoves.drawn (h.move (.damage (G := G) (Config.damagedField s.draws) hw))
    unfold State.failAttempt
    simp only
    split
    · next ha => exact hd.move (.retry (by simpa using hw) ha)
    · exact hd.move .fault
  · exact h

theorem State.DirMoves.enterReset (h : State.DirMoves G s₀ s) : State.DirMoves G s₀ s.enterReset := h.move .reset

theorem State.DirMoves.leaveReset (h : State.DirMoves G s₀ s) : State.DirMoves G s₀ s.leaveReset := h.move .start

/-! ## The acceptances -/

theorem State.DirMoves.enqueue (h : State.DirMoves G s₀ s) (n : Nat) (p : Port) (w : Work) (x : Option Nat)
    (ref : RegionRef) : State.DirMoves G s₀ (s.enqueue n p w x ref) :=
  h.same (.of_eq rfl rfl rfl rfl rfl)

theorem State.DirMoves.invalidateIf (h : State.DirMoves G s₀ s) (override : Bool) (f : Port → HandleInfo → Bool) :
    State.DirMoves G s₀ (if override then s.invalidate f else s) := by
  split
  · exact h.same (.of_eq rfl rfl rfl rfl rfl)
  · exact h

theorem runFits_of_allocate {ok : Nat → Bool} {pl : Placement} {n f : Nat} (h : allocate ok pl n = some f) :
    runFits ok f n = true := by
  unfold allocate at h
  split at h
  · unfold lowestRun at h
    simpa using List.find?_some h
  · split at h
    · next hf => cases h; exact hf
    · cases h

theorem State.acceptCreate_dirMoves {p : Port} {a : CreateArgs} {record first n : Nat}
    (h1 : s.dir.findName a.name = none) (h2 : s.dir.lowestFree = some record)
    (h3 : allocate s.available a.placement a.count = some first) :
    State.DirMoves G s (s.acceptCreate p a record first n) := by
  unfold State.acceptCreate
  refine State.DirMoves.waitDirectory ((State.DirMoves.refl G s).move (.region ?_)) _ _ _ _
  exact .create record ⟨a.name, p, a.rights⟩ ⟨first, a.count⟩ h1 (Directory.body_of_lowestFree h2)
    (runFits_of_allocate h3)

/-- What GROW's own checks leave (R55). -/
theorem growChecks_none {k : Nat} {r : Region} (h : growChecks s k r = none) :
    r.growth = none ∧ runFits s.available (r.extent.first + r.extent.count) k = true := by
  have hg := firstOf_none h (b := r.growth.isSome) (st := .inUse) (by simp)
  have hf := firstOf_none h (b := !runFits s.available (r.extent.first + r.extent.count) k) (st := .noRoom) (by simp)
  exact ⟨by simpa using hg, by simpa using hf⟩

/-- What SHRINK's own checks leave of the record and the scrub list (R57). -/
theorem shrinkChecks_none {ref : RegionRef} {k : Nat} {o : Bool} {r : Region} (h : shrinkChecks s ref k o r = none) :
    r.growth = none ∧ k < r.extent.count ∧ s.dir.scrub.length < Config.scrubDepth := by
  have hr := firstOf_none h (b := decide (r.extent.count ≤ k)) (st := .range) (by simp)
  have hg := firstOf_none h (b := r.growth.isSome) (st := .inUse) (by simp)
  have hf := firstOf_none h (b := decide (Config.scrubDepth ≤ s.dir.scrub.length)) (st := .scrubFull) (by simp)
  exact ⟨by simpa using hg, by simpa using hr, by simpa using hf⟩

/-- What RETIRE's own checks leave of the record and the scrub list (R61). -/
theorem retireChecks_none {ref : RegionRef} {o : Bool} {r : Region} (h : retireChecks s ref o r = none) :
    r.growth = none ∧ s.dir.scrub.length < Config.scrubDepth := by
  have hg := firstOf_none h (b := r.growth.isSome) (st := .inUse) (by simp)
  have hf := firstOf_none h (b := decide (Config.scrubDepth ≤ s.dir.scrub.length)) (st := .scrubFull) (by simp)
  exact ⟨by simpa using hg, by simpa using hf⟩

theorem State.body_of_ownerHead {p : Port} {ref : RegionRef} {r : Region} (h : s.ownerHead p ref = .ok r) :
    (s.dir.record ref.number).body = .active r := by
  rw [State.ownerHead_ok h]

theorem State.acceptGrow_dirMoves {p : Port} {ref : RegionRef} {k : Nat} {r : Region} (n : Nat)
    (hr : s.ownerHead p ref = .ok r) (hc : growChecks s k r = none) :
    State.DirMoves G s (State.acceptGrow p ref k r n s) := by
  obtain ⟨hg, hf⟩ := growChecks_none hc
  unfold State.acceptGrow
  refine State.DirMoves.waitDirectory ((State.DirMoves.refl G s).move (.region ?_)) _ _ _ _
  exact .grow ref.number k r (State.body_of_ownerHead hr) hg hf

theorem State.acceptShrink_dirMoves {p : Port} {ref : RegionRef} {k : Nat} {o : Bool} {r : Region} (n : Nat)
    (hr : s.ownerHead p ref = .ok r) (hc : shrinkChecks s ref k o r = none) :
    State.DirMoves G s (State.acceptShrink p ref k o r n s) := by
  obtain ⟨hg, hk, hs⟩ := shrinkChecks_none hc
  have ht : State.DirMoves G s (if o then s.cancelQueued (fun b => b.touchesTail ref k) .stale else s) := by
    split
    · exact (State.DirMoves.refl G s).same (.of_eq rfl rfl rfl rfl rfl)
    · exact .refl G s
  have hd : (if o then s.cancelQueued (fun b => b.touchesTail ref k) .stale else s).dir = s.dir := by split <;> rfl
  unfold State.acceptShrink
  refine State.DirMoves.waitDirectory (ht.move (.region ?_)) _ _ _ _
  exact .shrink ref.number k r (hd ▸ State.body_of_ownerHead hr) hg hk (hd ▸ hs)

theorem State.invalidateIf_dir (s : State) (o : Bool) (f : Port → HandleInfo → Bool) :
    (if o then s.invalidate f else s).dir = s.dir := by split <;> rfl

theorem State.acceptRetire_dirMoves {p : Port} {ref : RegionRef} {o : Bool} {r : Region} (n : Nat)
    (hr : s.ownerHead p ref = .ok r) (hc : retireChecks s ref o r = none) :
    State.DirMoves G s (State.acceptRetire p ref o r n s) := by
  obtain ⟨hg, hs⟩ := retireChecks_none hc
  have hd := s.invalidateIf_dir o (onRegion ref)
  unfold State.acceptRetire
  refine State.DirMoves.waitDirectory (((State.DirMoves.refl G s).invalidateIf o _).move (.region ?_)) _ _ _ _
  exact .retire ref.number r (hd ▸ State.body_of_ownerHead hr) hg (hd ▸ hs)

theorem State.acceptGrant_dirMoves (s : State) (p : Port) (ref : RegionRef) (v : Rights) (o : Bool) (r : Region)
    (n : Nat) : State.DirMoves G s (State.acceptGrant p ref v o r n s) := by
  unfold State.acceptGrant
  refine State.DirMoves.waitDirectory (((State.DirMoves.refl G s).invalidateIf o _).move (.region ?_)) _ _ _ _
  exact .region ref.number _ (fun _ => rfl) (fun _ => rfl) fun _ => rfl

theorem State.acceptHold_dirMoves (s : State) (p : Port) (ref : RegionRef) (o : Bool) (r : Region) (n : Nat) :
    State.DirMoves G s (State.acceptHold p ref o r n s) :=
  (((State.DirMoves.refl G s).invalidateIf o _).setFreeze _ _).waitDirectory _ _ _ _

theorem State.acceptThaw_dirMoves (s : State) (p : Port) (ref : RegionRef) (r : Region) (n : Nat) :
    State.DirMoves G s (State.acceptThaw p ref r n s) :=
  ((State.DirMoves.refl G s).setFreeze _ _).waitDirectory _ _ _ _

theorem State.acceptFix_dirMoves (s : State) (p : Port) (ref : RegionRef) (r : Region) (n : Nat) :
    State.DirMoves G s (State.acceptFix p ref r n s) :=
  (((State.DirMoves.refl G s).setFreeze _ _).enqueue n p .fix none ref).offer

theorem State.acceptFormat_dirMoves (p : Port) (n : Nat) (h : s.device = .recovery) :
    State.DirMoves G s (s.acceptFormat p n) := by
  unfold State.acceptFormat
  refine State.DirMoves.formatPass _ _ ?_ fun _ => rfl
  exact ((State.DirMoves.refl G s).move (.beginFormat h)).same (.of_eq rfl rfl rfl rfl rfl)

theorem State.DirMoves.cancelErase (h : State.DirMoves G s₀ s) (n : Nat) : State.DirMoves G s₀ (s.cancelErase n) :=
  (h.endSlot n _).freeArray

theorem State.DirMoves.cancelWaiting (h : State.DirMoves G s₀ s) (n : Nat) (b : SlotBody) :
    State.DirMoves G s₀ (s.cancelWaiting n b) := by
  have ht : State.DirMoves G s₀ ((s.dequeue n).mapSlot n fun b => { b with state := .cancelled .host }) :=
    h.same (.of_eq rfl rfl rfl rfl rfl)
  unfold State.cancelWaiting
  simp only
  split
  · exact ht.setFreeze _ _
  · exact ht

theorem State.DirMoves.releaseFixes (h : State.DirMoves G s₀ s) (p : Port) :
    State.DirMoves G s₀ (s.releaseFixes p) := by
  unfold State.releaseFixes
  refine List.foldlRecOn s.slots _ h fun t ht x _ => ?_
  split
  · split
    · exact ht.setFreeze _ _
    · exact ht
  · exact ht

theorem State.DirMoves.resetPort (h : State.DirMoves G s₀ s) (p : Port) : State.DirMoves G s₀ (s.resetPort p) :=
  (h.releaseFixes p).same (.of_eq (by rw [s.releaseFixes_eq p]; simp) (s.resetPort_dir p)
    (by rw [s.releaseFixes_eq p]; simp)
    (by rw [s.releaseFixes_eq p]; simp) (by rw [s.releaseFixes_eq p, State.resetPort_sched]))

/-! ## The step -/

theorem State.dirMoves_request (s : State) : RequestCases (State.DirMoves G s) s where
  create _ _ _ _ _ _ h1 h2 h3 _ := State.acceptCreate_dirMoves h1 h2 h3
  grow _ _ _ _ n _ hr hc _ := State.acceptGrow_dirMoves n hr hc
  shrink _ _ _ _ _ n _ hr hc _ := State.acceptShrink_dirMoves n hr hc
  retire _ _ _ _ n _ hr hc _ := State.acceptRetire_dirMoves n hr hc
  grant p ref v o r n _ _ _ _ := State.acceptGrant_dirMoves s p ref v o r n
  hold p ref o r n _ _ _ _ := State.acceptHold_dirMoves s p ref o r n
  thaw p ref r n _ _ _ := State.acceptThaw_dirMoves s p ref r n
  fix p ref r n _ _ _ _ := State.acceptFix_dirMoves s p ref r n
  format p n h _ _ := State.acceptFormat_dirMoves p n h
  setHandle _ _ _ _ := (State.DirMoves.refl G s).same (.of_eq (by simp) (by simp) (by simp) (by simp) (by simp))
  queueWork n p w h ref _ _ _ := ((State.DirMoves.refl G s).enqueue n p w (some h) ref).offer
  readPath w _ := (State.DirMoves.refl G s).readPath w
  cancelWaiting _ _ _ _ _ _ := (State.DirMoves.refl G s).cancelWaiting _ _
  abortErase n _ run _ _ _ _ := by
    unfold State.abortErase
    refine State.DirMoves.cancelErase ?_ n
    exact (State.DirMoves.refl G s).same (.of_eq rfl rfl rfl rfl rfl)
  cancelErase n _ _ _ _ _ _ := (State.DirMoves.refl G s).cancelErase n
  cancelScan _ _ _ _ := (State.DirMoves.refl G s).setActivity (by simp)
  collect _ _ _ _ _ _ := (State.DirMoves.refl G s).same (.of_eq rfl rfl rfl rfl rfl)
  clearNotice _ := (State.DirMoves.refl G s).same (.of_eq (by simp) (by simp) (by simp) (by simp) (by simp))
  resetPort p _ := (State.DirMoves.refl G s).resetPort p

theorem State.dirMoves_event (hG : G → s.ServiceLaw) (c : Instr) : EventCases (State.DirMoves G s) c s where
  select _ _ _ _ := (State.DirMoves.refl G s).same (.of_eq (by simp) (by simp) (by simp) (by simp) (by simp))
  programEnd r := (State.DirMoves.refl G s).endProgram r
  eraseEnd r _ := (State.DirMoves.refl G s).endErase hG r
  markWriteEnd r := (State.DirMoves.refl G s).endMark r
  scanStepEnd := (State.DirMoves.refl G s).endScan
  runSliceExpiry := (State.DirMoves.refl G s).endSlice
  writeCompletes := (State.DirMoves.refl G s).writeCompletes hG
  attemptFails := (State.DirMoves.refl G s).attemptFails
  resetAssert _ := (State.DirMoves.refl G s).enterReset.same (.of_eq rfl rfl rfl rfl rfl)
  powerLoss _ := (State.DirMoves.refl G s).enterReset.same (.of_eq rfl rfl rfl rfl rfl)
  resetRelease _ := by
    refine State.DirMoves.leaveReset ?_
    exact (State.DirMoves.refl G s).same (.of_eq rfl rfl rfl rfl rfl)
  powerGood _ := by
    refine State.DirMoves.leaveReset ?_
    exact (State.DirMoves.refl G s).same (.of_eq rfl rfl rfl rfl rfl)
  startup _ := (State.DirMoves.refl G s).startup

/-- A property that takes no notice of the queue of commands, and that each elementary change keeps where the laws of
service held at first, holds after every step. -/
theorem step_dirMoves (h : step s = .next t) :
    State.DirMoves s.ServiceLaw s t ∨ ∃ l, State.DirMoves s.ServiceLaw { s with pending := l } t := by
  rcases step_cases h with ⟨c, rest, -, rfl⟩ | ⟨-, rfl⟩
  · refine .inr ⟨rest, ?_⟩
    have he := State.dirMoves_event (G := s.ServiceLaw) (s := { s with pending := rest })
      (fun g => State.ServiceLaw.setPending g rest) c
    exact he.after (State.dirMoves_request _) (State.DirMoves.reframe _ _) (.refl _ _)
  · exact .inl (State.DirMoves.refl _ s).background

/-- A law that each elementary change of the directory keeps is kept by every step. -/
theorem State.law_of_dirMoves {L : State → Prop} (hm : ∀ s t, State.DirMove s₀.ServiceLaw s t → L s → L t)
    (hp : ∀ s l, L s → L { s with pending := l }) (h : step s₀ = .next t) (hs : L s₀) : L t := by
  have chain {s t} (hc : State.DirMoves s₀.ServiceLaw s t) : L s → L t := by
    intro hl
    induction hc with
    | refl => exact hl
    | tail _ hm' ih => exact hm _ _ hm' ih
  rcases step_dirMoves h with hc | ⟨l, hc⟩
  · exact chain hc hs
  · exact chain hc (hp s₀ l hs)

end

end Sys2Proof.Machine
end

section
/-! PROOFS. The laws of names, places and sizes over the elementary changes of the directory: what each change makes of the
working directory, and which images are held after it. -/

set_option Elab.async false

namespace Sys2Proof.Machine

/-! ## What an elementary change makes of directory and images -/

/-- The working directories that one elementary change of `s` can leave. -/
inductive State.DirStep (s : State) : Directory → Prop
  | same : DirStep s s.dir
  | region {d} : s.DirChange d → DirStep s d
  | advance (i : Nat) : DirStep s (s.dir.advance i)
  | withdraw (i u : Nat) : ((∃ f ∈ s.dir.scrub, f.extent.contains u = true) ∨
      ∃ run, s.sched.activity = .erase .scrub run ∧ run.unit = u) → DirStep s ((s.dir.advance i).withdraw u)
  | removed (i : Nat) : DirStep s { s.dir with scrub := s.dir.scrub.eraseIdx i }
  | settle {job} : s.store.writer = .writing job → DirStep s (s.dir.settle job)
  | format {job} : s.store.writer = .writing job → DirStep s (formatDirectory job.image)
  | empty : DirStep s .empty
  | load {c i} (a : ArrayState) : s.store.choose = .load c i → DirStep s (i.working.reconcile a)
  | loadEmpty (a : ArrayState) : DirStep s (Directory.empty.reconcile a)

/-- The image FORMAT hands to the writer under a sequence number (R172). -/
def State.formatImage (s : State) (sequence : Word) : Image :=
  Image.sealed ⟨sequence, List.replicate Config.recordCount ⟨0, none⟩, [], s.formatWithdrawn, 0⟩

section
variable {G : Prop} {s t : State}

theorem State.startWrite_cases (s : State) : s.startWrite = s.writerFault ∨
    s.startWrite.store = { s.store with
      dirty := false
      writer := .writing ⟨s.capture (s.store.durable + 1), s.store.target, 1, s.dir.records, false⟩ } := by
  unfold State.startWrite
  split
  · exact .inl rfl
  · exact .inr rfl

theorem State.formatWrite_cases (s : State) : s.formatWrite = (s.setActivity .idle).writerFault ∨
    ∃ q, s.formatWrite.store = { s.store with writer := .writing ⟨s.formatImage q, .copy0, 1, s.dir.records, true⟩ } ∧
      s.formatWrite.device = s.device := by
  unfold State.formatWrite
  simp only
  split
  · exact .inl rfl
  · exact .inr ⟨_, rfl, rfl⟩

theorem State.enterReset_dir (s : State) : s.enterReset.dir = s.dir ∨ s.enterReset.dir = .empty := by
  unfold State.enterReset
  split
  · exact .inl rfl
  · exact .inr rfl

theorem State.leaveReset_dir (s : State) : s.leaveReset.dir = s.dir := by unfold State.leaveReset; split <;> rfl

theorem State.leaveReset_store (s : State) : s.leaveReset.store = s.store := by unfold State.leaveReset; split <;> rfl

theorem State.DirMove.dirStep (h : State.DirMove G s t) : s.DirStep t.dir := by
  cases h with
  | same h => rw [h.dir]; exact .same
  | region h => exact .region h
  | scrubbed i u w h =>
    cases w
    · exact .advance i
    · exact .withdraw i u (h rfl)
  | removed i => exact .removed i
  | complete hw => exact .settle hw
  | completeFormat hw => exact .format hw
  | reset =>
    rcases s.enterReset_dir with h | h <;> rw [h]
    · exact .same
    · exact .empty
  | start => rw [s.leaveReset_dir]; exact .same
  | load _ h => exact .load _ h
  | loadEmpty => exact .loadEmpty _
  | noDirectory => exact .empty
  | startWrite => rw [State.startWrite_dir]; exact .same
  | formatWrite => rw [State.formatWrite_dir]; exact .same
  | fault | dirty | damage | retry | beginFormat | formatWithdraw => exact .same

theorem Store.holds_of_eq {t t' : Store} {i : Image} (h : t'.Holds i) (h0 : t'.copy0 = t.copy0)
    (h1 : t'.copy1 = t.copy1) (hw : ∀ job, t'.writer = .writing job → job.image = i → t.Holds i) : t.Holds i := by
  rcases h with h | h | ⟨job, hj, hi⟩
  · exact .inl (h0 ▸ h)
  · exact .inr (.inl (h1 ▸ h))
  · exact hw job hj hi

/-- After one copy is replaced, an image is held by the new copy, or was held before. -/
theorem Store.holds_setCopy {t t' : Store} {c : CopyId} {x : Copy} {i : Image} (h : t'.Holds i)
    (h0 : t'.copy0 = (t.setCopy c x).copy0) (h1 : t'.copy1 = (t.setCopy c x).copy1)
    (hw : ∀ job, t'.writer = .writing job → job.image = i → t.Holds i) :
    x = .complete i ∨ t.Holds i := by
  rcases h with h | h | ⟨job, hj, hi⟩
  · cases c
    · exact .inl (h0.symm.trans h)
    · exact .inr (.inl (h0.symm.trans h))
  · cases c
    · exact .inr (.inr (.inl (h1.symm.trans h)))
    · exact .inl (h1.symm.trans h)
  · exact .inr (hw job hj hi)

theorem Store.holds_of_writing {t : Store} {job : WriteJob} (h : t.writer = .writing job) : t.Holds job.image :=
  .inr (.inr ⟨job, h, rfl⟩)

theorem Store.holds_of_copy {t : Store} {c : CopyId} {i : Image} (h : t.copy c = .complete i) : t.Holds i := by
  cases c
  · exact .inl h
  · exact .inr (.inl h)

theorem Store.holds_of_choose {t : Store} {c : CopyId} {i : Image} (h : t.choose = .load c i) :
    t.copy c = .complete i ∧ i.agrees = true := by
  unfold Store.choose at h
  split at h
  · next x y hx hy =>
    split at h <;> cases h
    · exact (Copy.valid_eq_some _ _).1 hy
    · exact (Copy.valid_eq_some _ _).1 hx
  · next x hx _ => cases h; exact (Copy.valid_eq_some _ _).1 hx
  · next y _ hy => cases h; exact (Copy.valid_eq_some _ _).1 hy
  · split at h <;> cases h

theorem State.cutWork_store (s : State) : s.cutWork.store = s.store := by
  unfold State.cutWork
  split
  · rfl
  · rfl
  · rfl
  · rfl
  · rfl
  · simp only [State.drawn_store]; split <;> rfl

/-- RESET and power loss leave every image that is held held before, and no write in flight (R38, R161). -/
theorem State.cutWrite_holds (s : State) {i : Image} (h : s.cutWrite.loseVolatile.store.Holds i) : s.store.Holds i := by
  unfold State.cutWrite at h
  split at h
  · next job hw =>
    rcases Store.holds_setCopy h (t := s.store) (c := job.target) rfl rfl (by simp [State.loseVolatile]) with h | h
    · cases h
    · exact h
  · exact Store.holds_of_eq h rfl rfl (by simp [State.loseVolatile])

/-- The images that a copy or the write in flight holds after an elementary change: those of before, one just captured,
or FORMAT's. -/
theorem State.DirMove.holds (h : State.DirMove G s t) {i : Image} (hi : t.store.Holds i) :
    s.store.Holds i ∨ i = s.capture (s.store.durable + 1) ∨ ∃ q, i = s.formatImage q := by
  cases h with
  | same h => exact .inl (h.store ▸ hi)
  | region | scrubbed | removed | dirty | beginFormat | formatWithdraw => exact .inl hi
  | startWrite =>
    rcases s.startWrite_cases with h | h
    · rw [h] at hi; exact .inl (Store.holds_of_eq hi rfl rfl (by simp [State.writerFault]))
    · rw [h] at hi
      rcases hi with hi | hi | ⟨job, hj, rfl⟩
      · exact .inl (.inl hi)
      · exact .inl (.inr (.inl hi))
      · cases hj; exact .inr (.inl rfl)
  | fault => exact .inl (Store.holds_of_eq hi rfl rfl (by simp [State.writerFault]))
  | @complete job hw =>
    rcases Store.holds_setCopy hi (t := s.store) (c := job.target) rfl rfl (by simp [State.completeWrite]) with h | h
    · cases h; exact .inl (Store.holds_of_writing hw)
    · exact .inl h
  | @completeFormat job hw =>
    rcases Store.holds_setCopy hi (t := s.store) (c := job.target) rfl rfl (by simp [State.completeFormat]) with h | h
    · cases h; exact .inl (Store.holds_of_writing hw)
    · exact .inl h
  | @damage job field hw =>
    have hw (job' : WriteJob) (hj : (s.store.setCopy job.target (.damaged field)).writer = .writing job')
        (hi' : job'.image = i) : s.store.Holds i :=
      .inr (.inr ⟨job', by rwa [Store.setCopy_writer] at hj, hi'⟩)
    rcases Store.holds_setCopy hi (t := s.store) (c := job.target) rfl rfl hw with h | h
    · cases h
    · exact .inl h
  | @retry job hw =>
    refine .inl (Store.holds_of_eq hi rfl rfl fun job' hj hi' => ?_)
    have he : job'.image = job.image := by cases hj; rfl
    rw [← hi', he]
    exact Store.holds_of_writing (t := s.store) hw
  | formatWrite =>
    rcases s.formatWrite_cases with h | ⟨q, h, -⟩
    · rw [h] at hi; exact .inl (Store.holds_of_eq hi rfl rfl (by simp [State.writerFault]))
    · rw [h] at hi
      rcases hi with hi | hi | ⟨job, hj, rfl⟩
      · exact .inl (.inl hi)
      · exact .inl (.inr (.inl hi))
      · cases hj; exact .inr (.inr ⟨q, rfl⟩)
  | reset =>
    unfold State.enterReset at hi
    split at hi
    · exact .inl hi
    · have := s.cutWork.cutWrite_holds hi
      rw [State.cutWork_store] at this
      exact .inl this
  | start => exact .inl (s.leaveReset_store ▸ hi)
  | load | loadEmpty | noDirectory => exact .inl (Store.holds_of_eq hi rfl rfl (by simp [State.initialise]))

end

end Sys2Proof.Machine
end

section
/-! PROOFS. Names (R24): every elementary change of the directory keeps each record's name, frees it, or gives a FREE
record a name that no record holds. -/

set_option Elab.async false

namespace Sys2Proof.Machine

/-- No two non-FREE records of a directory have one name (R24). -/
def Directory.NamesApart (d : Directory) : Prop :=
  ∀ m n x, (d.record m).body.name = some x → (d.record n).body.name = some x → m = n

/-- No two records of an image have one name (R24, R28). -/
def Image.NamesApart (i : Image) : Prop :=
  ∀ m n x, (i.records.getD m ⟨0, none⟩).name = some x → (i.records.getD n ⟨0, none⟩).name = some x → m = n

/-- Every name of `e` stands in the same record of `d`. -/
def Directory.NamesFrom (d e : Directory) : Prop :=
  ∀ n x, (e.record n).body.name = some x → (d.record n).body.name = some x

section
variable {d e : Directory} {s t : State} {G : Prop}

theorem Directory.NamesFrom.apart (h : d.NamesFrom e) (hd : d.NamesApart) : e.NamesApart :=
  fun m n x hm hn => hd m n x (h m x hm) (h n x hn)

theorem Directory.namesFrom_of_records (h : e.records = d.records) : d.NamesFrom e :=
  fun n x hn => by rwa [Directory.record_of_records h] at hn

theorem Directory.namesFrom_setBody {n : Nat} {b : RecordBody}
    (h : ∀ x, b.name = some x → (d.record n).body.name = some x) :
    d.NamesFrom (d.setBody n b) := by
  intro m x hm
  by_cases hn : n < d.records.length
  · rw [Directory.record_setBody hn] at hm
    split at hm
    · next he => rw [he]; exact h x hm
    · exact hm
  · have he : d.setBody n b = d := by
      unfold Directory.setBody
      rw [modify_of_le _ _ _ (by omega)]
    rwa [he] at hm

theorem Directory.namesFrom_mapRegion {n : Nat} {f : Region → Region}
    (h : ∀ r, (f r).ident.name = r.ident.name) : d.NamesFrom (d.mapRegion n f) := by
  unfold Directory.mapRegion
  split
  · next r hr =>
    refine Directory.namesFrom_setBody fun x hx => ?_
    rw [hr, ← hx]
    simp [RecordBody.name, RecordBody.ident, h]
  · exact Directory.namesFrom_of_records rfl

theorem settleRecord_name {was now : Record} {c : DurableRecord} {x : List Byte}
    (h : (settleRecord was c now).body.name = some x) : now.body.name = some x := by
  unfold settleRecord at h
  split at h
  · next hn => rw [hn]; exact h
  · cases h
  · next r0 r _ hn =>
    rw [hn, ← h]
    simp only [RecordBody.name, RecordBody.ident]
    split <;> rfl
  · exact h

theorem getD_mapIdx {α β : Type} (l : List α) (f : Nat → α → β) (n : Nat) (a : α) (b : β) (h : n < l.length) :
    (l.mapIdx f).getD n b = f n (l.getD n a) := by
  simp [h]

theorem Directory.settle_record (d : Directory) (job : WriteJob) {n : Nat} (h : n < d.records.length) :
    (d.settle job).record n =
      settleRecord (job.captured.getD n Record.blank) (job.image.records.getD n ⟨0, none⟩) (d.record n) :=
  getD_mapIdx d.records _ n Record.blank Record.blank h

/-- A record with a name is one of the directory's. -/
theorem Directory.lt_of_name {n : Nat} {x : List Byte} (h : (d.record n).body.name = some x) :
    n < d.records.length :=
  Directory.lt_of_body fun hb => by rw [hb] at h; cases h

theorem Directory.namesFrom_settle (d : Directory) (job : WriteJob) : d.NamesFrom (d.settle job) := by
  intro n x h
  have hn : n < d.records.length := by simpa [Directory.settle] using Directory.lt_of_name h
  rw [Directory.settle_record _ _ hn] at h
  exact settleRecord_name h

theorem Directory.record_replicate (n k : Nat) (l : List ScrubExtent) (w : List Nat) :
    (Directory.mk (List.replicate k Record.blank) l w).record n = Record.blank := by
  unfold Directory.record
  by_cases h : n < k
  · simp [h]
  · simp [h]

theorem Directory.empty_namesFrom (d : Directory) : d.NamesFrom .empty := fun n x h => by
  rw [Directory.record_replicate] at h; cases h

theorem Record.reconcile_name (a : ArrayState) (r : Record) : (r.reconcile a).body.name = r.body.name := by
  unfold Record.reconcile
  split
  · next hb =>
    split
    · rw [hb]; rfl
    · rfl
  · rfl

theorem Directory.reconcile_record (d : Directory) (a : ArrayState) {n : Nat} (h : n < d.records.length) :
    (d.reconcile a).record n = (d.record n).reconcile a := by
  simp [Directory.record, Directory.reconcile, h]

theorem Directory.namesFrom_reconcile (d : Directory) (a : ArrayState) : d.NamesFrom (d.reconcile a) := by
  intro n x h
  have hn : n < d.records.length := by simpa [Directory.reconcile] using Directory.lt_of_name h
  rwa [Directory.reconcile_record _ _ hn, Record.reconcile_name] at h

theorem Image.working_record (i : Image) (n : Nat) :
    i.working.record n = (i.records.getD n ⟨0, none⟩).working := by
  by_cases h : n < i.records.length
  · simp [Directory.record, Image.working, h]
  · simp [Directory.record, Image.working, h, DurableRecord.working]

theorem DurableRecord.working_name (r : DurableRecord) : r.working.body.name = r.name := by
  unfold DurableRecord.working DurableRecord.name
  cases r.region <;> rfl

theorem Image.NamesApart.working {i : Image} (h : i.NamesApart) : i.working.NamesApart := by
  intro m n x hm hn
  rw [Image.working_record, DurableRecord.working_name] at hm hn
  exact h m n x hm hn

theorem State.durableRecord_name {n : Nat} {r : Record} {x : List Byte} (h : (s.durableRecord n r).name = some x) :
    r.body.name = some x := by
  unfold State.durableRecord at h
  split at h <;> rename_i hb
  · cases h
  · rw [hb]; exact h
  · rw [hb]; exact h
  · cases h

/-- The record of a captured image, in the working directory's record of its number (R28). -/
theorem State.capture_record (s : State) (q : Word) {n : Nat} (h : n < s.dir.records.length) :
    (s.capture q).records.getD n ⟨0, none⟩ = s.durableRecord n (s.dir.record n) :=
  getD_mapIdx s.dir.records s.durableRecord n Record.blank ⟨0, none⟩ h

theorem State.capture_name {q : Word} {n : Nat} {x : List Byte}
    (h : ((s.capture q).records.getD n ⟨0, none⟩).name = some x) : (s.dir.record n).body.name = some x := by
  by_cases hn : n < s.dir.records.length
  · rw [State.capture_record s q hn] at h
    exact State.durableRecord_name h
  · have he : (s.capture q).records.getD n ⟨0, none⟩ = ⟨0, none⟩ := by simp [State.capture, hn]
    rw [he] at h; cases h

theorem State.capture_names (h : s.dir.NamesApart) (q : Word) : (s.capture q).NamesApart :=
  fun m n x hm hn => h m n x (State.capture_name hm) (State.capture_name hn)

theorem State.formatImage_record (s : State) (q : Word) (n : Nat) :
    (s.formatImage q).records.getD n ⟨0, none⟩ = ⟨0, none⟩ := by
  unfold State.formatImage
  by_cases h : n < Config.recordCount
  · simp [h]
  · simp [h]

theorem State.formatImage_names (s : State) (q : Word) : (s.formatImage q).NamesApart := fun m n x hm => by
  rw [State.formatImage_record] at hm; cases hm

theorem State.DirChange.names (h : s.DirChange d) (hd : s.dir.NamesApart) : d.NamesApart := by
  cases h with
  | create n i e hf hb =>
    have hother : ∀ m, (s.dir.record m).body.name ≠ some i.name := fun m hm => by
      have := Directory.findName_isSome ⟨m, hm⟩
      rw [hf] at this; cases this
    have step (m : Nat) (x : List Byte) (hm : ((s.dir.setBody n (.pending i e)).record m).body.name = some x) :
        m = n ∧ x = i.name ∨ m ≠ n ∧ (s.dir.record m).body.name = some x := by
      by_cases he : m = n
      · subst he
        have hl : m < s.dir.records.length := by
          simpa [Directory.setBody] using Directory.lt_of_name hm
        rw [Directory.record_setBody hl, if_pos rfl] at hm
        cases hm; exact .inl ⟨rfl, rfl⟩
      · rw [Directory.record_setBody_of_ne _ he] at hm
        exact .inr ⟨he, hm⟩
    intro m k x hm hk
    rcases step m x hm with ⟨rfl, rfl⟩ | ⟨-, hm'⟩ <;> rcases step k _ hk with ⟨rfl, hx⟩ | ⟨-, hk'⟩
    · rfl
    · exact absurd hk' (hother k)
    · exact absurd (hx ▸ hm') (hother m)
    · exact hd m k x hm' hk'
  | region n f hf => exact (Directory.namesFrom_mapRegion hf).apart hd
  | grow n k =>
    refine (Directory.namesFrom_mapRegion (d := s.dir) (n := n) (f := fun r => { r with growth := some k }) ?_).apart hd
    exact fun _ => rfl
  | shrink n k r hr =>
    have h1 := (Directory.namesFrom_mapRegion (d := s.dir) (n := n)
      (f := fun r => { r with extent := ⟨r.extent.first, k⟩ }) fun _ => rfl).apart hd
    exact (Directory.namesFrom_of_records rfl).apart h1
  | retire n r hr =>
    have h1 : (s.dir.setBody n (.retiring r.ident)).NamesApart :=
      (Directory.namesFrom_setBody fun x hx => by rw [hr]; exact hx).apart hd
    exact (Directory.namesFrom_of_records rfl).apart h1

theorem State.DirStep.names (h : s.DirStep d) (hd : s.dir.NamesApart) (hi : ∀ i, s.store.Holds i → i.NamesApart) :
    d.NamesApart := by
  cases h with
  | same => exact hd
  | region h => exact h.names hd
  | advance | withdraw | removed => exact (Directory.namesFrom_of_records rfl).apart hd
  | settle => exact (Directory.namesFrom_settle _ _).apart hd
  | format | empty => exact (Directory.empty_namesFrom s.dir).apart hd
  | load a h =>
    have := (hi _ (Store.holds_of_copy (Store.holds_of_choose h).1)).working
    exact (Directory.namesFrom_reconcile _ a).apart this
  | loadEmpty a => exact (Directory.namesFrom_reconcile _ a).apart ((Directory.empty_namesFrom s.dir).apart hd)

theorem State.DirMove.names (h : State.DirMove G s t) (hl : s.NameLaw) : t.NameLaw where
  working := h.dirStep.names hl.working hl.images
  images i hi := by
    rcases h.holds hi with h | rfl | ⟨q, rfl⟩
    · exact hl.images i h
    · exact State.capture_names hl.working _
    · exact s.formatImage_names q

end

/-- Settles O56: each elementary change of the directory keeps the law of names. -/
theorem stepsKeepNamesUnique : Obligations.StepsKeepNamesUnique := fun _ _ hs h =>
  State.law_of_dirMoves (L := State.NameLaw) (fun _ _ hm hl => hm.names hl) (fun _ _ hl => ⟨hl.working, hl.images⟩) h hs

end Sys2Proof.Machine
end

section
/-! PROOFS. Places (R45): every elementary change of the directory gives a record only units of its own or free ones, moves
a region's units to the scrub list, or withdraws units that belong to no region. -/

set_option Elab.async false

namespace Sys2Proof.Machine

/-! ## Sets of places -/

/-- A unit that belongs to no region, is not withdrawn and lies in no scrub extent. -/
structure Unclaimed (units : Nat → Option Extent) (scrub : List Extent) (withdrawn : List Nat) (u : Nat) : Prop where
  region : ∀ n e, units n = some e → e.contains u = false
  withdrawn : u ∉ withdrawn
  scrub : ∀ f ∈ scrub, f.contains u = false

theorem Extent.contains_iff {e : Extent} {u : Nat} : e.contains u = true ↔ e.first ≤ u ∧ u < e.first + e.count := by
  simp [Extent.contains]

theorem Extent.contains_false {e : Extent} {u : Nat} : e.contains u = false ↔ ¬ (e.first ≤ u ∧ u < e.first + e.count) := by
  rw [← Extent.contains_iff, Bool.not_eq_true]

section
variable {U V : Nat → Option Extent} {S T : List Extent} {W X : List Nat}

/-- Records keep to their own units, but for one that takes unclaimed units too. -/
theorem PlacesApart.setUnits (h : PlacesApart U S W) (n : Nat)
    (hu : ∀ m e u, V m = some e → e.contains u = true →
      (∃ f, U m = some f ∧ f.contains u = true) ∨ (m = n ∧ Unclaimed U S W u))
    (hend : ∀ m e, V m = some e → e.first + e.count ≤ Config.unitCount) : PlacesApart V S W where
  regions m k e f u hm hk he hf := by
    rcases hu m e u hm he with ⟨e', he', hc⟩ | ⟨rfl, ho⟩ <;> rcases hu k f u hk hf with ⟨f', hf', hc'⟩ | ⟨rfl, ho'⟩
    · exact h.regions m k e' f' u he' hf' hc hc'
    · rw [ho'.region m e' he'] at hc; cases hc
    · rw [ho.region k f' hf'] at hc'; cases hc'
    · rfl
  scrubbed := h.scrubbed
  apart m e u hm he := by
    rcases hu m e u hm he with ⟨f, hf, hc⟩ | ⟨-, ho⟩
    · exact h.apart m f u hf hc
    · exact ⟨ho.withdrawn, ho.scrub⟩
  inArray := ⟨hend, h.inArray.2⟩

/-- Records keep some of their units. -/
theorem PlacesApart.shrinkUnits (h : PlacesApart U S W)
    (hu : ∀ m e, V m = some e → ∃ f, U m = some f ∧ f.first ≤ e.first ∧ e.first + e.count ≤ f.first + f.count) :
    PlacesApart V S W := by
  refine h.setUnits 0 (fun m e u hm he => ?_) fun m e hm => ?_
  · obtain ⟨f, hf, h1, h2⟩ := hu m e hm
    rw [Extent.contains_iff] at he
    exact .inl ⟨f, hf, Extent.contains_iff.2 ⟨by omega, by omega⟩⟩
  · obtain ⟨f, hf, h1, h2⟩ := hu m e hm
    exact h2.trans (h.inArray.1 m f hf)

/-- Units that belong to no region and to no scrub extent become one at the end of the list. -/
theorem PlacesApart.addScrub (h : PlacesApart U S W) {f : Extent} (hf : f.first + f.count ≤ Config.unitCount)
    (hr : ∀ n e u, U n = some e → e.contains u = true → f.contains u = false)
    (hs : ∀ g ∈ S, ∀ u, g.contains u = true → f.contains u = false) : PlacesApart U (S ++ [f]) W where
  regions := h.regions
  scrubbed i j e g u hi hj he hg := by
    have entry (k : Nat) (x : Extent) (hk : (S ++ [f])[k]? = some x) : S[k]? = some x ∨ k = S.length ∧ x = f := by
      rw [List.getElem?_append] at hk
      split at hk
      · exact .inl hk
      · rw [List.getElem?_singleton] at hk
        split at hk
        · cases hk; exact .inr ⟨by omega, rfl⟩
        · cases hk
    rcases entry i e hi with hi' | ⟨rfl, rfl⟩ <;> rcases entry j g hj with hj' | ⟨rfl, rfl⟩
    · exact h.scrubbed i j e g u hi' hj' he hg
    · rw [hs e (List.mem_of_getElem? hi') u he] at hg; cases hg
    · rw [hs g (List.mem_of_getElem? hj') u hg] at he; cases he
    · rfl
  apart n e u hn he := by
    obtain ⟨h1, h2⟩ := h.apart n e u hn he
    refine ⟨h1, fun g hg => ?_⟩
    rcases List.mem_append.1 hg with hg | hg
    · exact h2 g hg
    · rw [List.mem_singleton.1 hg]; exact hr n e u hn he
  inArray := by
    refine ⟨h.inArray.1, fun g hg => ?_, h.inArray.2.2⟩
    rcases List.mem_append.1 hg with hg | hg
    · exact h.inArray.2.1 g hg
    · rwa [List.mem_singleton.1 hg]

/-- An extent leaves the scrub list. -/
theorem PlacesApart.eraseScrub (h : PlacesApart U S W) (i : Nat) : PlacesApart U (S.eraseIdx i) W where
  regions := h.regions
  scrubbed j k e f u hj hk he hf := by
    rw [List.getElem?_eraseIdx] at hj hk
    split at hj <;> split at hk <;> have := h.scrubbed _ _ e f u hj hk he hf <;> omega
  apart n e u hn he := by
    obtain ⟨h1, h2⟩ := h.apart n e u hn he
    exact ⟨h1, fun f hf => h2 f (List.mem_of_mem_eraseIdx hf)⟩
  inArray := ⟨h.inArray.1, fun f hf => h.inArray.2.1 f (List.mem_of_mem_eraseIdx hf), h.inArray.2.2⟩

/-- Units of the array that belong to no region are withdrawn. -/
theorem PlacesApart.withdraw (h : PlacesApart U S W)
    (hw : ∀ u ∈ X, u ∈ W ∨ u < Config.unitCount ∧ ∀ n e, U n = some e → e.contains u = false) : PlacesApart U S X where
  regions := h.regions
  scrubbed := h.scrubbed
  apart n e u hn he := by
    obtain ⟨h1, h2⟩ := h.apart n e u hn he
    refine ⟨fun hu => ?_, h2⟩
    rcases hw u hu with hu | ⟨-, ho⟩
    · exact h1 hu
    · rw [ho n e hn] at he; cases he
  inArray := by
    refine ⟨h.inArray.1, h.inArray.2.1, fun u hu => ?_⟩
    rcases hw u hu with hu | ⟨hl, -⟩
    · exact h.inArray.2.2 u hu
    · exact hl

theorem placesApart_empty (hw : ∀ u ∈ W, u < Config.unitCount) (hU : ∀ n, U n = none) : PlacesApart U [] W where
  regions m _ _ _ _ hm := by rw [hU] at hm; cases hm
  scrubbed _ _ _ _ _ h := by simp at h
  apart n _ _ hn := by rw [hU] at hn; cases hn
  inArray := ⟨fun n e hn => (by rw [hU] at hn; cases hn), by simp, hw⟩

end

theorem mem_unitInsert {u v : Nat} {l : List Nat} : v ∈ unitInsert u l ↔ v = u ∨ v ∈ l := by
  induction l with
  | nil => simp [unitInsert]
  | cons w rest ih =>
    unfold unitInsert
    split
    · simp
    · split
      · next h => subst h; simp
      · simp only [List.mem_cons, ih]; tauto

theorem mem_foldl_unitInsert {v : Nat} (us : List Nat) : ∀ l : List Nat,
    v ∈ us.foldl (fun l u => unitInsert u l) l ↔ v ∈ us ∨ v ∈ l := by
  induction us with
  | nil => simp
  | cons u us ih =>
    intro l
    rw [List.foldl_cons, ih, mem_unitInsert, List.mem_cons]
    tauto

/-! ## Directories and images -/

/-- The units of the records of a directory. -/
def Directory.units (d : Directory) (n : Nat) : Option Extent := (d.record n).body.units

/-- The extents of the scrub list. -/
def Directory.scrubRanges (d : Directory) : List Extent := d.scrub.map (·.extent)

/-- Every unit has one place in a directory (R45). -/
def Directory.Placed (d : Directory) : Prop := PlacesApart d.units d.scrubRanges d.withdrawn

/-- The units of the records of an image. -/
def Image.units (i : Image) (n : Nat) : Option Extent := (i.records.getD n ⟨0, none⟩).region.map fun g => g.extent

/-- Every unit has one place in an image (R45). -/
def Image.Placed (i : Image) : Prop := PlacesApart i.units i.scrub i.withdrawn

section
variable {d : Directory} {s t : State} {G : Prop} {n : Nat}

theorem Directory.unclaimed_of_free {u : Nat} (h : d.place u = .free) :
    Unclaimed d.units d.scrubRanges d.withdrawn u := by
  unfold Directory.place at h
  split at h
  · cases h
  · next hh =>
    split at h
    · cases h
    · next hw =>
      split at h
      · cases h
      · next hs =>
        refine ⟨fun m e hm => ?_, by simpa using hw, fun f hf => ?_⟩
        · have hl : m < d.records.length := Directory.lt_of_body fun hb => by
            rw [Directory.units, hb] at hm; cases hm
          rw [Directory.units, Directory.record_eq hl] at hm
          have := List.findIdx?_eq_none_iff.1 hh _ (List.getElem_mem hl)
          simpa [hm] using this
        · obtain ⟨x, hx, rfl⟩ := List.mem_map.1 hf
          exact List.findIdx?_eq_none_iff.1 hs x hx

theorem Directory.units_setBody (hn : n < d.records.length) (b : RecordBody) (m : Nat) :
    (d.setBody n b).units m = if m = n then b.units else d.units m := by
  unfold Directory.units
  rw [Directory.record_setBody hn]
  split <;> rfl

/-- A run of available units becomes those of a record that keeps its own. -/
theorem Directory.Placed.claim (h : d.Placed) (hn : n < d.records.length) {b : RecordBody} {e : Extent}
    (hb : b.units = some e) (hend : e.first + e.count ≤ Config.unitCount)
    (hu : ∀ u, e.contains u = true → (∃ f, d.units n = some f ∧ f.contains u = true) ∨ d.place u = .free) :
    (d.setBody n b).Placed := by
  refine PlacesApart.setUnits h n (fun m f u hm hf => ?_) fun m f hm => ?_
  · rw [Directory.units_setBody hn] at hm
    split at hm
    · next he =>
      rw [hb] at hm; cases hm; subst he
      exact (hu u hf).imp id fun h => ⟨rfl, Directory.unclaimed_of_free h⟩
    · exact .inl ⟨f, hm, hf⟩
  · rw [Directory.units_setBody hn] at hm
    split at hm
    · rw [hb] at hm; cases hm; exact hend
    · exact h.inArray.1 m f hm

/-- A record gives some of its units to the scrub list, and keeps others or none. -/
theorem Directory.Placed.give (h : d.Placed) (hn : n < d.records.length) {b : RecordBody} {e f : Extent}
    (he : d.units n = some e) (hf : e.first ≤ f.first ∧ f.first + f.count ≤ e.first + e.count)
    (hb : ∀ g, b.units = some g → e.first ≤ g.first ∧ g.first + g.count ≤ e.first + e.count ∧
      g.first + g.count ≤ f.first) : ((d.setBody n b).addScrub f).Placed := by
  have hk : PlacesApart (d.setBody n b).units d.scrubRanges d.withdrawn := by
    refine PlacesApart.shrinkUnits h fun m g hm => ?_
    rw [Directory.units_setBody hn] at hm
    split at hm
    · next hmn => subst hmn; exact ⟨e, he, (hb g hm).1, (hb g hm).2.1⟩
    · exact ⟨g, hm, by omega, by omega⟩
  have own {u : Nat} (hu : f.contains u = true) : e.contains u = true := by
    rw [Extent.contains_iff] at hu ⊢; omega
  have hs : ((d.setBody n b).addScrub f).scrubRanges = d.scrubRanges ++ [f] := List.map_append
  unfold Directory.Placed
  rw [hs]
  refine PlacesApart.addScrub hk ?_ (fun m g u hm hg => ?_) fun g hg u hu => ?_
  · have := h.inArray.1 n e he; omega
  · rw [Directory.units_setBody hn] at hm
    rw [← Bool.not_eq_true]
    intro hu
    split at hm
    · have := hb g hm
      rw [Extent.contains_iff] at hg hu; omega
    · next hmn => exact hmn (h.regions m n g e u hm he hg (own hu))
  · rw [← Bool.not_eq_true]
    intro hu'
    have := (h.apart n e u he (own hu')).2 g hg
    rw [hu] at this; cases this

theorem Directory.units_of_active {r : Region} (h : (d.record n).body = .active r) (hg : r.growth = none) :
    d.units n = some r.extent := by
  simp [Directory.units, h, RecordBody.units, hg]

theorem Directory.units_mapRegion {f : Region → Region} (he : ∀ r, (f r).extent = r.extent)
    (hg : ∀ r, (f r).growth = r.growth) (m : Nat) : (d.mapRegion n f).units m = d.units m := by
  unfold Directory.mapRegion
  split
  · next r hr =>
    rw [Directory.units_setBody (Directory.lt_of_body (by rw [hr]; nofun))]
    split
    · next hm => simp [Directory.units, hm, hr, RecordBody.units, he, hg]
    · rfl
  · rfl

theorem State.place_of_runFits {f k u : Nat} (h : runFits s.available f k = true) (h1 : f ≤ u) (h2 : u < f + k) :
    s.dir.place u = .free := ((State.fits_iff.1 h).2 u h1 h2).1

theorem Directory.placed_congr {d e : Directory} (hu : ∀ n, e.units n = d.units n) (hs : e.scrubRanges = d.scrubRanges)
    (hw : e.withdrawn = d.withdrawn) (h : d.Placed) : e.Placed := by
  have hu : e.units = d.units := funext hu
  unfold Directory.Placed at *
  rwa [hu, hs, hw]

theorem State.DirChange.placed (h : s.DirChange d) (hd : s.dir.Placed) : d.Placed := by
  cases h with
  | create n i e hf hb hr =>
    by_cases hn : n < s.dir.records.length
    · refine hd.claim hn rfl (State.fits_iff.1 hr).1 fun u hu => ?_
      rw [Extent.contains_iff] at hu
      exact .inr (State.place_of_runFits hr hu.1 hu.2)
    · have he : s.dir.setBody n (.pending i e) = s.dir := by
        unfold Directory.setBody; rw [modify_of_le _ _ _ (by omega)]
      rwa [he]
  | region n f _ he hg =>
    have hs : (s.dir.mapRegion n f).scrubRanges = s.dir.scrubRanges ∧
        (s.dir.mapRegion n f).withdrawn = s.dir.withdrawn := by
      unfold Directory.mapRegion; split <;> exact ⟨rfl, rfl⟩
    exact Directory.placed_congr (Directory.units_mapRegion he hg) hs.1 hs.2 hd
  | grow n k r hr hg hf =>
    have hn : n < s.dir.records.length := Directory.lt_of_body (by rw [hr]; nofun)
    rw [Directory.mapRegion_eq hr]
    refine hd.claim hn (e := ⟨r.extent.first, r.extent.count + k⟩) rfl ?_ fun u hu => ?_
    · have := (State.fits_iff.1 hf).1; simp only; omega
    · rw [Extent.contains_iff] at hu
      by_cases h : u < r.extent.first + r.extent.count
      · exact .inl ⟨r.extent, Directory.units_of_active hr hg, Extent.contains_iff.2 ⟨hu.1, h⟩⟩
      · exact .inr (State.place_of_runFits hf (by omega) (by simp only at hu; omega))
  | shrink n k r hr hg hk =>
    have hn : n < s.dir.records.length := Directory.lt_of_body (by rw [hr]; nofun)
    unfold Directory.shrink
    rw [Directory.mapRegion_eq hr]
    refine hd.give hn (Directory.units_of_active hr hg) ⟨by simp, by simp only; omega⟩ fun g hgu => ?_
    simp only [RecordBody.units, hg, Option.getD_none, Nat.add_zero, Option.some.injEq] at hgu
    subst hgu
    exact ⟨Nat.le_refl _, by simp only; omega, Nat.le_refl _⟩
  | retire n r hr hg =>
    have hn : n < s.dir.records.length := Directory.lt_of_body (by rw [hr]; nofun)
    exact hd.give hn (Directory.units_of_active hr hg) ⟨Nat.le_refl _, Nat.le_refl _⟩ (by simp [RecordBody.units])

/-! ## Scrub, settlement, reset and start-up -/

theorem Directory.advance_ranges (d : Directory) (i : Nat) : (d.advance i).scrubRanges = d.scrubRanges := by
  refine List.ext_getElem (by simp [Directory.scrubRanges, Directory.advance]) fun j h1 h2 => ?_
  simp only [Directory.scrubRanges, Directory.advance, List.getElem_map, List.getElem_modify]
  split <;> rfl

theorem Directory.settle_ranges (d : Directory) (job : WriteJob) : (d.settle job).scrubRanges = d.scrubRanges := by
  simp only [Directory.scrubRanges, Directory.settle, List.map_map]
  refine List.map_congr_left fun e _ => ?_
  simp only [Function.comp_apply]
  split <;> rfl

theorem settleRecord_units (was now : Record) (c : DurableRecord) :
    (settleRecord was c now).body.units = now.body.units := by
  unfold settleRecord
  split
  · next hn => rw [hn]; rfl
  · next hn => rw [hn]; rfl
  · next r0 r _ hn =>
    rw [hn]
    simp only [RecordBody.units]
    split
    · next hg => simp [hg]
    · rfl
  · rfl

theorem Directory.settle_units (d : Directory) (job : WriteJob) (n : Nat) : (d.settle job).units n = d.units n := by
  by_cases hn : n < d.records.length
  · rw [Directory.units, Directory.settle_record _ _ hn, settleRecord_units]; rfl
  · simp [Directory.units, Directory.record, Directory.settle, hn]

theorem Record.reconcile_units (a : ArrayState) (r : Record) : (r.reconcile a).body.units = r.body.units := by
  unfold Record.reconcile
  split
  · next hb =>
    split
    · rw [hb]; rfl
    · rfl
  · rfl

theorem getD_map {α β : Type} (l : List α) (f : α → β) (n : Nat) (a : α) (b : β) (h : n < l.length) :
    (l.map f).getD n b = f (l.getD n a) := by
  simp [h]

/-- The records of a directory met by reconciliation (R166). -/
def Directory.fixMarked (a : ArrayState) (d : Directory) : Directory :=
  { d with records := d.records.map (Record.reconcile a) }

theorem Directory.fixMarked_units (d : Directory) (a : ArrayState) (n : Nat) : (d.fixMarked a).units n = d.units n := by
  by_cases hn : n < d.records.length
  · have : (d.fixMarked a).record n = (d.record n).reconcile a :=
      getD_map d.records (Record.reconcile a) n Record.blank Record.blank hn
    rw [Directory.units, this, Record.reconcile_units]; rfl
  · simp [Directory.units, Directory.record, Directory.fixMarked, hn]

theorem Directory.mem_reconcile_withdrawn {a : ArrayState} {u : Nat} :
    u ∈ (d.reconcile a).withdrawn ↔ u ∈ unfitUnits a (d.fixMarked a) ∨ u ∈ d.withdrawn := by
  simp only [Directory.reconcile, Directory.fixMarked, mem_foldl_unitInsert]

/-- Reconciliation withdraws free units alone (R167). -/
theorem Directory.Placed.reconcile (h : d.Placed) (a : ArrayState) : (d.reconcile a).Placed := by
  have hf : (d.fixMarked a).Placed := Directory.placed_congr (d.fixMarked_units a) rfl rfl h
  have hu : (d.reconcile a).units = (d.fixMarked a).units := by
    funext n; simp only [Directory.units, Directory.record, Directory.reconcile, Directory.fixMarked]
  have hs : (d.reconcile a).scrubRanges = (d.fixMarked a).scrubRanges := by
    simp only [Directory.scrubRanges, Directory.reconcile, Directory.fixMarked]
  unfold Directory.Placed
  rw [hu, hs]
  refine PlacesApart.withdraw hf fun u hu => ?_
  rcases Directory.mem_reconcile_withdrawn.1 hu with hu | hu
  · right
    obtain ⟨hl, hp⟩ := List.mem_filter.1 hu
    simp only [Bool.and_eq_true, beq_iff_eq] at hp
    exact ⟨List.mem_range.1 hl, (Directory.unclaimed_of_free hp.2).region⟩
  · exact .inl hu

theorem Image.working_units (i : Image) (n : Nat) : i.working.units n = i.units n := by
  rw [Directory.units, Image.working_record, Image.units, DurableRecord.working]
  cases (i.records.getD n ⟨0, none⟩).region <;> rfl

theorem Image.Placed.working {i : Image} (h : i.Placed) : i.working.Placed := by
  have hu : i.working.units = i.units := funext i.working_units
  have hs : i.working.scrubRanges = i.scrub := by simp [Directory.scrubRanges, Image.working, Function.comp_def]
  unfold Directory.Placed
  rw [hu, hs]
  exact h

theorem State.capture_units (s : State) (q : Word) (n : Nat) : (s.capture q).units n = s.dir.units n := by
  by_cases hn : n < s.dir.records.length
  · rw [Image.units, State.capture_record s q hn, Directory.units]
    unfold State.durableRecord
    split <;> rename_i hb <;> rw [hb] <;> rfl
  · simp [Image.units, Directory.units, Directory.record, State.capture, hn, RecordBody.units]

theorem State.capture_placed (h : s.dir.Placed) (q : Word) : (s.capture q).Placed := by
  have hu : (s.capture q).units = s.dir.units := funext (s.capture_units q)
  unfold Image.Placed
  rw [hu]
  exact h

theorem State.formatImage_placed (h : ∀ u ∈ s.formatWithdrawn, u < Config.unitCount) (q : Word) :
    (s.formatImage q).Placed :=
  placesApart_empty h fun n => by rw [Image.units, State.formatImage_record]; rfl

theorem Directory.replicate_units (n k : Nat) (w : List Nat) :
    (Directory.mk (List.replicate k Record.blank) [] w).units n = none := by
  rw [Directory.units, Directory.record_replicate]; rfl

theorem Directory.empty_placed : Directory.empty.Placed :=
  placesApart_empty (by simp) fun n => Directory.replicate_units n _ []

theorem State.DirStep.placed (h : s.DirStep d) (hl : s.PlaceLaw) : d.Placed := by
  have hd : s.dir.Placed := hl.working
  cases h with
  | same => exact hd
  | region h => exact h.placed hd
  | advance i => exact Directory.placed_congr (d := s.dir) (fun _ => rfl) (s.dir.advance_ranges i) rfl hd
  | withdraw i u hu =>
    have ha : (s.dir.advance i).Placed := Directory.placed_congr (d := s.dir) (fun _ => rfl) (s.dir.advance_ranges i) rfl hd
    have hin : ∃ f ∈ s.dir.scrub, f.extent.contains u = true := by
      rcases hu with h | ⟨run, hr, rfl⟩
      · exact h
      · exact hl.erasing run hr
    obtain ⟨f, hf, hc⟩ := hin
    have hm : f.extent ∈ s.dir.scrubRanges := List.mem_map_of_mem hf
    refine PlacesApart.withdraw ha fun v hv => ?_
    rcases mem_unitInsert.1 hv with rfl | hv
    · refine .inr ⟨?_, fun n e hn => ?_⟩
      · have := hd.inArray.2.1 _ hm
        rw [Extent.contains_iff] at hc; omega
      · rw [← Bool.not_eq_true]
        intro he
        rw [(hd.apart n e v hn he).2 _ hm] at hc; cases hc
    · exact .inl hv
  | removed i =>
    have hs : (Directory.mk s.dir.records (s.dir.scrub.eraseIdx i) s.dir.withdrawn).scrubRanges =
        s.dir.scrubRanges.eraseIdx i := (List.eraseIdx_map _ _ _).symm
    unfold Directory.Placed
    rw [hs]
    exact PlacesApart.eraseScrub hd i
  | settle => exact Directory.placed_congr (s.dir.settle_units _) (s.dir.settle_ranges _) rfl hd
  | format hw =>
    have hi := hl.images _ (Store.holds_of_writing hw)
    exact placesApart_empty hi.inArray.2.2 fun n => Directory.replicate_units n _ _
  | empty => exact Directory.empty_placed
  | load a h => exact (Image.Placed.working (hl.images _ (Store.holds_of_copy (Store.holds_of_choose h).1))).reconcile a
  | loadEmpty a => exact Directory.empty_placed.reconcile a

/-! ## The scrub erase on the array and FORMAT's set -/

/-- A scrub erase on the array is of a unit of the scrub list (R45, R65). -/
def State.ErasesScrub (s : State) : Prop :=
  ∀ run, s.sched.activity = .erase .scrub run → ∃ f ∈ s.dir.scrub, f.extent.contains run.unit = true

theorem State.ErasesScrub.of_ranges (h : s.ErasesScrub) (ha : t.sched.activity = s.sched.activity)
    (hd : ∀ f ∈ s.dir.scrubRanges, f ∈ t.dir.scrubRanges) : t.ErasesScrub := by
  intro run hr
  obtain ⟨f, hf, hc⟩ := h run (ha ▸ hr)
  obtain ⟨g, hg, he⟩ := List.mem_map.1 (hd _ (List.mem_map_of_mem hf))
  exact ⟨g, hg, by rwa [he]⟩

theorem State.erasesScrub_of_idle (h : t.sched.activity = .idle) : t.ErasesScrub := by
  intro run hr; rw [h] at hr; cases hr

theorem State.DirChange.ranges (h : s.DirChange d) : ∀ f ∈ s.dir.scrubRanges, f ∈ d.scrubRanges := by
  have map (n : Nat) (f : Region → Region) : (s.dir.mapRegion n f).scrubRanges = s.dir.scrubRanges := by
    unfold Directory.mapRegion; split <;> rfl
  intro f hf
  cases h with
  | create => exact hf
  | region => rw [map]; exact hf
  | grow => rw [map]; exact hf
  | shrink n k r =>
    simp only [Directory.scrubRanges, Directory.shrink, Directory.addScrub, List.map_append, List.mem_append]
    exact .inl (by rw [← map n] at hf; exact hf)
  | retire n r =>
    simp only [Directory.scrubRanges, Directory.retire, Directory.addScrub, List.map_append, List.mem_append]
    exact .inl hf

theorem State.formatWrite_idle (s : State) : s.formatWrite.sched.activity = .idle := by
  unfold State.formatWrite
  simp only
  split <;> rfl

theorem State.enterReset_sched (s : State) : s.device = .inReset ∧ s.enterReset = s ∨
    s.enterReset.sched = .empty ∧ s.enterReset.formatWithdrawn = [] := by
  unfold State.enterReset
  split
  · next h => exact .inl ⟨h, rfl⟩
  · exact .inr ⟨rfl, rfl⟩

theorem State.leaveReset_sched (s : State) : s.leaveReset.sched = s.sched := by unfold State.leaveReset; split <;> rfl

theorem State.leaveReset_formatWithdrawn (s : State) : s.leaveReset.formatWithdrawn = s.formatWithdrawn := by
  unfold State.leaveReset; split <;> rfl

theorem State.DirMove.erasesScrub (h : State.DirMove G s t) (g : G) (hs : s.ErasesScrub) : t.ErasesScrub := by
  have keep {t : State} (ha : t.sched.activity = s.sched.activity) (hd : t.dir = s.dir) : t.ErasesScrub :=
    hs.of_ranges ha fun f hf => hd ▸ hf
  cases h with
  | same h =>
    intro run hr
    rw [h.dir]
    rcases h.scrubbing run hr with ⟨run', hr', hu⟩ | h
    · exact hu ▸ hs run' hr'
    · exact h
  | region h => exact hs.of_ranges rfl h.ranges
  | scrubbed => exact State.erasesScrub_of_idle rfl
  | removed i hi => exact State.erasesScrub_of_idle hi
  | complete hw => exact hs.of_ranges rfl fun f hf => by rw [← s.dir.settle_ranges] at hf; exact hf
  | completeFormat hw hi => exact State.erasesScrub_of_idle (hi g).2
  | formatWrite => exact State.erasesScrub_of_idle s.formatWrite_idle
  | reset =>
    rcases s.enterReset_sched with ⟨-, h⟩ | ⟨h, -⟩
    · rw [h]; exact hs
    · exact State.erasesScrub_of_idle (by rw [h])
  | start => exact keep (by rw [s.leaveReset_sched]) s.leaveReset_dir
  | load | loadEmpty | noDirectory => exact State.erasesScrub_of_idle rfl
  | startWrite => exact keep (by simp) (by simp)
  | dirty | fault | damage | retry | beginFormat | formatWithdraw => exact keep rfl rfl

theorem State.DirMove.formatted (h : State.DirMove G s t) (g : G) (hs : ∀ u ∈ s.formatWithdrawn, u < Config.unitCount) :
    ∀ u ∈ t.formatWithdrawn, u < Config.unitCount := by
  cases h with
  | same h => rw [h.formatWithdrawn]; exact hs
  | formatWithdraw v hv =>
    intro u hu
    rcases mem_unitInsert.1 hu with rfl | hu
    · exact hv g
    · exact hs u hu
  | reset =>
    rcases s.enterReset_sched with ⟨-, h⟩ | ⟨-, h⟩
    · rw [h]; exact hs
    · rw [h]; nofun
  | start => rw [s.leaveReset_formatWithdrawn]; exact hs
  | beginFormat | load | loadEmpty | noDirectory => exact fun u hu => by cases hu
  | startWrite => simpa using hs
  | formatWrite => simpa using hs
  | region | scrubbed | removed | dirty | fault | complete | completeFormat | damage | retry => exact hs

theorem State.DirMove.place (h : State.DirMove G s t) (g : G) (hl : s.PlaceLaw) : t.PlaceLaw where
  working := h.dirStep.placed hl
  images i hi := by
    rcases h.holds hi with h | rfl | ⟨q, rfl⟩
    · exact hl.images i h
    · exact State.capture_placed hl.working _
    · exact State.formatImage_placed hl.formatted q
  erasing := h.erasesScrub g hl.erasing
  formatted := h.formatted g hl.formatted

end

/-- Settles O57: each elementary change of the directory keeps the law of places. -/
theorem stepsKeepUnitsInOnePlace : Obligations.StepsKeepUnitsInOnePlace := fun _ _ hv hs h =>
  State.law_of_dirMoves (L := State.PlaceLaw) (fun _ _ hm hl => hm.place hv hl)
    (fun _ _ hl => ⟨hl.working, hl.images, hl.erasing, hl.formatted⟩) h hs

end Sys2Proof.Machine
end

section
/-! PROOFS. The directory store (R28, R30, R32, R39): every elementary change keeps the current copy the newest one that is
VALID, and sends a write to the other copy with the next number. -/

set_option Elab.async false

namespace Sys2Proof.Machine

section
variable {G : Prop} {s t : State}

/-! ## The choice of start-up -/

theorem Copy.valid_of_complete {c : Copy} {i : Image} (h : c = .complete i) (ha : i.agrees = true) :
    c.valid = some i := (Copy.valid_eq_some c i).2 ⟨h, ha⟩

/-- The copy start-up loads is newer than any other complete one (R164). -/
theorem State.StoreLaw.newest_of_choose (h : s.StoreLaw) {c : CopyId} {i : Image} (hc : s.store.choose = .load c i)
    {k : CopyId} {j : Image} (hk : s.store.copy k = .complete j) :
    k = c ∨ j.sequence.toNat < i.sequence.toNat := by
  have hj : (s.store.copy k).valid = some j :=
    Copy.valid_of_complete hk (h.checked j (Store.holds_of_copy hk))
  unfold Store.choose at hc
  split at hc
  · next x y hx hy =>
    have hne : x.sequence.toNat ≠ y.sequence.toNat := fun he =>
      h.apart x y ((Copy.valid_eq_some _ _).1 hx).1 ((Copy.valid_eq_some _ _).1 hy).1 (BitVec.eq_of_toNat_eq he)
    split at hc
    · next hlt =>
      cases hc
      cases k
      · rw [Store.copy, hx] at hj; cases hj; exact .inr hlt
      · exact .inl rfl
    · next hlt =>
      cases hc
      cases k
      · exact .inl rfl
      · rw [Store.copy, hy] at hj; cases hj; exact .inr (by omega)
  · next x hx hy =>
    cases hc
    cases k
    · exact .inl rfl
    · rw [Store.copy, hy] at hj; cases hj
  · next y hx hy =>
    cases hc
    cases k
    · rw [Store.copy, hx] at hj; cases hj
    · exact .inl rfl
  · split at hc <;> cases hc

theorem Store.choose_blank {t : Store} (h : t.choose = .empty) (c : CopyId) : t.copy c = .blank := by
  unfold Store.choose at h
  split at h
  · split at h <;> cases h
  · cases h
  · cases h
  · split at h
    · next hb =>
      cases c
      · exact hb.1
      · exact hb.2
    · cases h

theorem State.StoreLaw.none_of_choose (h : s.StoreLaw) (hc : s.store.choose = .noDirectory) (k : CopyId) (j : Image) :
    s.store.copy k ≠ .complete j := by
  intro hk
  have hj : (s.store.copy k).valid = some j :=
    Copy.valid_of_complete hk (h.checked j (Store.holds_of_copy hk))
  unfold Store.choose at hc
  split at hc
  · split at hc <;> cases hc
  · cases hc
  · cases hc
  · next h0 h1 =>
    cases k
    · rw [Store.copy, h0] at hj; cases hj
    · rw [Store.copy, h1] at hj; cases hj

/-! ## The changes of the store -/

theorem State.loaded_congr (h : t.device = s.device) : t.loaded = s.loaded := by unfold State.loaded; rw [h]

theorem Store.copy_congr {t t' : Store} (h0 : t'.copy0 = t.copy0) (h1 : t'.copy1 = t.copy1) (c : CopyId) :
    t'.copy c = t.copy c := by
  cases c
  · exact h0
  · exact h1

theorem Store.copy_writer (t : Store) (w : Writer) (c : CopyId) : { t with writer := w }.copy c = t.copy c :=
  Store.copy_congr rfl rfl c

theorem State.StoreLaw.congr (h : s.StoreLaw) (hs : t.store = s.store) (hd : t.device = s.device) : t.StoreLaw := by
  obtain ⟨h1, h2, h3, h4, h5, h6, h7, h8⟩ := h
  rw [← hs] at h1 h2 h3 h4 h5 h6 h7 h8
  rw [← hd] at h8
  rw [← State.loaded_congr hd] at h3
  exact ⟨h1, h2, h3, h4, h5, h6, h7, h8⟩

/-- The dirty flag and a writer's new job: the law asks that the job's image agrees, that its target is not current, and
that its number is the next. -/
theorem State.StoreLaw.setWriter (h : s.StoreLaw) {b : Bool} {w : Writer}
    (ht : t.store = { s.store with dirty := b, writer := w }) (hd : t.device = s.device)
    (hw : ∀ job, w = .writing job → job.image.agrees = true ∧
      (s.store.current ≠ some job.target ∧ 1 ≤ job.attempt ∧ job.attempt ≤ Config.writeAttempts) ∧
      (job.format = false → job.image.sequence.toNat = s.store.durable.toNat + 1)) : t.StoreLaw := by
  have hcopy (c : CopyId) : t.store.copy c = s.store.copy c := by rw [ht]; exact Store.copy_congr rfl rfl c
  refine ⟨fun i hi => ?_, ?_, ?_, ?_, ?_, ?_, ?_, ?_⟩
  · rw [ht] at hi
    rcases hi with hi | hi | ⟨job, hj, rfl⟩
    · exact h.checked i (.inl hi)
    · exact h.checked i (.inr (.inl hi))
    · exact (hw job hj).1
  · intro c hc
    rw [hcopy, ht]
    exact h.current c (by rwa [ht] at hc)
  · intro hl c i hc
    rw [hcopy] at hc
    rw [State.loaded_congr hd] at hl
    rw [ht]
    exact h.newest hl c i hc
  · rw [ht]; exact h.empty
  · rw [ht]; exact h.apart
  · intro job hj; rw [ht] at hj ⊢; exact (hw job hj).2.1
  · intro job hj; rw [ht] at hj ⊢; exact (hw job hj).2.2
  · intro hu
    rw [hd] at hu
    obtain ⟨h1, h2⟩ := h.unloaded hu
    exact ⟨by rw [ht]; exact h1, fun c i => by rw [hcopy]; exact h2 c i⟩

theorem State.writerFault_device (s : State) :
    s.writerFault.device = if s.device = .ready then .degraded
      else if s.device = .formatting then .recovery else s.device := by
  unfold State.writerFault
  cases s.device <;> rfl

theorem State.writerFault_loaded (s : State) : s.writerFault.loaded = s.loaded := by
  unfold State.loaded
  rw [s.writerFault_device]
  cases s.device <;> rfl

theorem State.StoreLaw.fault (h : s.StoreLaw) : s.writerFault.StoreLaw where
  checked i hi := h.checked i (Store.holds_of_eq hi rfl rfl (by simp [State.writerFault]))
  current c hc := h.current c hc
  newest hl c i hc := h.newest (by rwa [s.writerFault_loaded] at hl) c i hc
  empty := h.empty
  apart := h.apart
  target := by simp [State.writerFault]
  number := by simp [State.writerFault]
  unloaded hu := by
    refine h.unloaded ?_
    rw [s.writerFault_device] at hu
    cases hd : s.device <;> simp_all

theorem Store.current_ne_target (t : Store) : t.current ≠ some t.target := by
  unfold Store.target
  split
  · next h => rw [h]; nofun
  · next h => exact h

theorem State.StoreLaw.startWrite (h : s.StoreLaw) : s.startWrite.StoreLaw := by
  unfold State.startWrite
  split
  · exact h.fault
  · next hne =>
    refine h.setWriter (t := { s with store := _, slots := _ }) rfl rfl fun job hj => ?_
    cases hj
    refine ⟨s.capture_agrees _, ⟨s.store.current_ne_target, Nat.le_refl _, by simp⟩, fun _ => ?_⟩
    have hlt : s.store.durable.toNat < 4294967295 := by
      have h1 := s.store.durable.isLt
      have h2 : s.store.durable.toNat ≠ 4294967295 := fun he => hne (BitVec.eq_of_toNat_eq he)
      omega
    show (s.store.durable + 1).toNat = s.store.durable.toNat + 1
    rw [BitVec.toNat_add]
    show (s.store.durable.toNat + 1) % 4294967296 = _
    omega

/-- A write of FORMAT: no copy is complete, so that none is current (R164, R172). -/
theorem State.StoreLaw.formatWrite (h : s.StoreLaw) (hd : s.device = .formatting) : s.formatWrite.StoreLaw := by
  rcases s.formatWrite_cases with he | ⟨q, hs, hd'⟩
  · rw [he]; exact (h.congr (t := s.setActivity .idle) rfl rfl).fault
  · refine h.setWriter (b := s.store.dirty) hs hd' fun job hj => ?_
    cases hj
    refine ⟨Image.sealed_agrees _, ⟨?_, Nat.le_refl _, by simp⟩, nofun⟩
    rw [(h.unloaded (.inr hd)).1]; nofun

theorem State.StoreLaw.damage (h : s.StoreLaw) {job : WriteJob} (hw : s.store.writer = .writing job)
    (field : Option Word) : State.StoreLaw { s with store := s.store.setCopy job.target (.damaged field) } := by
  have keep {c : CopyId} {i : Image} (hc : (s.store.setCopy job.target (.damaged field)).copy c = .complete i) :
      s.store.copy c = .complete i := by
    by_cases he : c = job.target
    · rw [he, Store.copy_setCopy_self] at hc; cases hc
    · rwa [Store.copy_setCopy_of_ne _ he] at hc
  refine ⟨fun i hi => ?_, ?_, ?_, ?_, ?_, ?_, ?_, ?_⟩
  · rcases hi with hi | hi | ⟨job', hj, rfl⟩
    · exact h.checked i (.inl (keep (c := .copy0) hi))
    · exact h.checked i (.inr (.inl (keep (c := .copy1) hi)))
    · rw [Store.setCopy_writer] at hj
      exact h.checked _ (Store.holds_of_writing hj)
  · intro c hc
    simp only [Store.setCopy_current] at hc
    have hne : c ≠ job.target := fun he => (h.target job hw).1 (he ▸ hc)
    simp only [Store.copy_setCopy_of_ne _ hne, Store.setCopy_durable]
    exact h.current c hc
  · intro hl c i hc
    simpa using h.newest hl c i (keep hc)
  · simpa using h.empty
  · exact fun i j hi hj => h.apart i j (keep (c := .copy0) hi) (keep (c := .copy1) hj)
  · simpa using h.target
  · simpa using h.number
  · intro hu
    exact ⟨by simpa using (h.unloaded hu).1, fun c i hc => (h.unloaded hu).2 c i (keep hc)⟩

/-- A write that completes: its copy becomes current, any other complete copy is older. -/
theorem State.StoreLaw.completed (h : s.StoreLaw) {job : WriteJob} (hw : s.store.writer = .writing job) {b : Bool}
    (hold : ∀ c i, c ≠ job.target → s.store.copy c = .complete i → i.sequence.toNat < job.image.sequence.toNat)
    (ht : t.store = { s.store.setCopy job.target (.complete job.image) with
      current := some job.target, durable := job.image.sequence, dirty := b, writer := .idle })
    (hd : t.loaded = true) : t.StoreLaw := by
  have hcopy (c : CopyId) : t.store.copy c = (s.store.setCopy job.target (.complete job.image)).copy c :=
    Store.copy_congr (by rw [ht]) (by rw [ht]) c
  have hself : t.store.copy job.target = .complete job.image := by rw [hcopy, Store.copy_setCopy_self]
  have hother {c : CopyId} {i : Image} (hc : t.store.copy c = .complete i) :
      c = job.target ∧ i = job.image ∨ c ≠ job.target ∧ s.store.copy c = .complete i := by
    by_cases he : c = job.target
    · rw [he, hself] at hc; cases hc; exact .inl ⟨he, rfl⟩
    · rw [hcopy, Store.copy_setCopy_of_ne _ he] at hc
      exact .inr ⟨he, hc⟩
  have hdur : t.store.durable = job.image.sequence := by rw [ht]
  have hcur : t.store.current = some job.target := by rw [ht]
  have hidle : t.store.writer = .idle := by rw [ht]
  refine ⟨fun i hi => ?_, ?_, ?_, ?_, ?_, ?_, ?_, ?_⟩
  · have held {c : CopyId} (hc : t.store.copy c = .complete i) : i.agrees = true := by
      rcases hother hc with ⟨-, rfl⟩ | ⟨-, hc⟩
      · exact h.checked _ (Store.holds_of_writing hw)
      · exact h.checked _ (Store.holds_of_copy hc)
    rcases hi with hi | hi | ⟨job', hj, -⟩
    · exact held (c := .copy0) hi
    · exact held (c := .copy1) hi
    · rw [hidle] at hj; cases hj
  · intro c hc
    rw [hcur] at hc; cases hc
    exact ⟨job.image, hself, hdur.symm⟩
  · intro _ c i hc
    rcases hother hc with ⟨rfl, -⟩ | ⟨hne, hc⟩
    · exact .inl hcur
    · exact .inr (hdur ▸ hold c i hne hc)
  · intro he; rw [hcur] at he; cases he
  · intro i j hi hj he
    rcases hother (c := .copy0) hi with ⟨h0, rfl⟩ | ⟨h0, hc0⟩ <;>
      rcases hother (c := .copy1) hj with ⟨h1, rfl⟩ | ⟨h1, hc1⟩
    · rw [← h0] at h1; cases h1
    · have := hold _ _ h1 hc1; rw [he] at this; omega
    · have := hold _ _ h0 hc0; rw [he] at this; omega
    · cases hk : job.target
      · exact h0 hk.symm
      · exact h1 hk.symm
  · intro job' hj; rw [hidle] at hj; cases hj
  · intro job' hj; rw [hidle] at hj; cases hj
  · intro hu
    unfold State.loaded at hd
    rcases hu with hu | hu <;> rw [hu] at hd <;> cases hd

theorem State.StoreLaw.complete (h : s.StoreLaw) {job : WriteJob} (hw : s.store.writer = .writing job)
    (hf : job.format = false) (hl : s.loaded = true) : (s.completeWrite job).StoreLaw := by
  refine h.completed hw (b := s.store.dirty) (fun c i _ hc => ?_) ?_ hl
  · have hn := h.number job hw hf
    rcases h.newest hl c i hc with hcur | hlt
    · obtain ⟨j, hj, hs⟩ := h.current c hcur
      rw [hc] at hj; cases hj
      rw [hs]; omega
    · omega
  · simp [State.completeWrite]

theorem State.StoreLaw.completeFormat (h : s.StoreLaw) {job : WriteJob} (hw : s.store.writer = .writing job)
    (hd : s.device = .formatting) : (s.completeFormat job).StoreLaw :=
  h.completed hw (b := false) (fun c i _ hc => absurd hc ((h.unloaded (.inr hd)).2 c i)) rfl rfl

/-- The store without a current copy, as RESET and power loss leave it (R161). -/
theorem State.StoreLaw.reset (h : s.StoreLaw) : s.enterReset.StoreLaw := by
  unfold State.enterReset
  split
  · exact h
  · have held {i : Image} (hi : s.cutWork.cutWrite.loseVolatile.store.Holds i) : s.store.Holds i := by
      have := s.cutWork.cutWrite_holds hi
      rwa [State.cutWork_store] at this
    have keep {c : CopyId} {i : Image} (hc : s.cutWork.cutWrite.store.copy c = .complete i) :
        s.store.copy c = .complete i := by
      unfold State.cutWrite at hc
      split at hc
      · next job hw =>
        simp only [State.drawn_store, State.cutWork_store] at hc
        by_cases he : c = job.target
        · rw [he, Store.copy_setCopy_self] at hc; cases hc
        · rwa [Store.copy_setCopy_of_ne _ he] at hc
      · rwa [State.cutWork_store] at hc
    exact {
      checked := fun i hi => h.checked i (held hi)
      current := nofun
      newest := nofun
      empty := fun _ => rfl
      apart := fun i j hi hj => h.apart i j (keep (c := .copy0) hi) (keep (c := .copy1) hj)
      target := nofun
      number := nofun
      unloaded := fun hu => by rcases hu with hu | hu <;> cases hu }

theorem State.StoreLaw.start (h : s.StoreLaw) : s.leaveReset.StoreLaw := by
  unfold State.leaveReset
  split
  · exact { h with
      newest := nofun
      unloaded := fun hu => by rcases hu with hu | hu <;> cases hu }
  · exact h

/-- The store as start-up leaves it: the copies stay, no write is in flight (R163 to R168). -/
theorem State.StoreLaw.startup (h : s.StoreLaw) {cur : Option CopyId} {q : Word} {x : Option Word} {b : Bool}
    (ht : t.store = ⟨s.store.copy0, s.store.copy1, cur, q, x, b, .idle⟩)
    (hc : ∀ c, cur = some c → ∃ i, s.store.copy c = .complete i ∧ i.sequence = q)
    (hn : t.loaded = true → ∀ c i, s.store.copy c = .complete i → cur = some c ∨ i.sequence.toNat < q.toNat)
    (he : cur = none → q = 0)
    (hu : t.device = .recovery ∨ t.device = .formatting → cur = none ∧ ∀ c i, s.store.copy c ≠ .complete i) :
    t.StoreLaw := by
  have hcopy (c : CopyId) : t.store.copy c = s.store.copy c := by rw [ht]; exact Store.copy_congr rfl rfl c
  have hw : t.store.writer = .idle := by rw [ht]
  refine ⟨fun i hi => ?_, ?_, ?_, ?_, ?_, ?_, ?_, ?_⟩
  · rw [ht] at hi; exact h.checked i (Store.holds_of_eq hi rfl rfl nofun)
  · intro c hcur; rw [hcopy]; rw [ht] at hcur ⊢; exact hc c hcur
  · intro hl c i hci; rw [hcopy] at hci; rw [ht]; exact hn hl c i hci
  · rw [ht]; exact he
  · rw [ht]; exact h.apart
  · intro job hj; rw [hw] at hj; cases hj
  · intro job hj; rw [hw] at hj; cases hj
  · intro hd
    obtain ⟨h1, h2⟩ := hu hd
    exact ⟨by rw [ht]; exact h1, fun c i => by rw [hcopy]; exact h2 c i⟩

theorem State.DirMove.store (h : State.DirMove G s t) (g : G) (hl : s.StoreLaw) : t.StoreLaw := by
  cases h with
  | same h => exact hl.congr h.store h.device
  | region | scrubbed | removed | formatWithdraw => exact hl.congr rfl rfl
  | dirty b =>
    exact hl.setWriter (b := b) rfl rfl fun job hj =>
      ⟨hl.checked _ (Store.holds_of_writing hj), hl.target job hj, hl.number job hj⟩
  | startWrite => exact hl.startWrite
  | fault => exact hl.fault
  | complete hw hf h => exact hl.complete hw hf (h g)
  | completeFormat hw h => exact hl.completeFormat hw (h g).1
  | damage field hw => exact hl.damage hw field
  | @retry job' hw ha =>
    refine hl.setWriter (b := s.store.dirty) rfl rfl fun job hj => ?_
    cases hj
    obtain ⟨h1, h2, -⟩ := hl.target job' hw
    have hn := hl.number job' hw
    have hi := hl.checked job'.image (Store.holds_of_writing hw)
    exact ⟨hi, ⟨h1, by simp, ha⟩, hn⟩
  | beginFormat hd =>
    have hr := hl.unloaded (.inl hd)
    exact { hl with
      newest := nofun
      unloaded := fun _ => hr }
  | formatWrite hd => exact hl.formatWrite (hd g)
  | reset => exact hl.reset
  | start => exact hl.start
  | @load c i b hc =>
    refine hl.startup rfl (fun k hk => ?_) (fun _ k j hk => ?_) nofun fun hu => by rcases hu with hu | hu <;> cases hu
    · cases hk; exact ⟨i, (Store.holds_of_choose hc).1, rfl⟩
    · exact (hl.newest_of_choose hc hk).imp (fun h => by rw [h]) id
  | loadEmpty b hc =>
    refine hl.startup rfl nofun (fun _ k j hk => ?_) (fun _ => rfl) fun hu => by rcases hu with hu | hu <;> cases hu
    rw [Store.choose_blank hc] at hk; cases hk
  | noDirectory hc =>
    exact hl.startup rfl nofun nofun (fun _ => rfl) fun _ => ⟨rfl, hl.none_of_choose hc⟩

end

/-- Settles O59: each elementary change of the store keeps its law. -/
theorem stepsKeepTheStore : Obligations.StepsKeepTheStore := fun _ _ hv hs h =>
  State.law_of_dirMoves (L := State.StoreLaw) (fun _ _ hm hl => hm.store hv hl) (fun _ _ hl => hl.congr rfl rfl) h hs

end Sys2Proof.Machine
end

section
/-! PROOFS. Why the law of service is not kept by every step: it does not say that a request in WAITING is one of the port
it waits at. -/

set_option Elab.async false

namespace Sys2Proof.Machine

/-- STARTING; port A holds a CLOSE that names port B in WAITING, and port B is RECEIVING while an earlier command of it is
undecided. -/
def crossedPorts : State := { State.reset with
  pending := [.waitingRequestTaken .a]
  portA := { PortState.cleared true false with framing := .waiting (.close .b 1 0) }
  portB := { PortState.cleared true false with framing := .receiving, undecided := some (.status .b 0) } }

theorem crossedPorts_service : crossedPorts.ServiceLaw where
  pass := nofun
  work _ := .inl rfl
  writes := nofun
  closed _ p k i := State.not_opened_of_closedTable (by cases p <;> rfl) k i
  calm _ := ⟨rfl, rfl⟩
  fresh p _ := by cases p <;> rfl

/-- The CLOSE is answered NOT_READY at port B: its answer is lost, for port B has an undecided command, and stays in the
cache of a port that is still RECEIVING (R144, R150). -/
theorem crossedPorts_step : ∃ t, step crossedPorts = .next t ∧ t.device = .starting ∧
    (t.port .b).framing = .receiving ∧ (t.port .b).cache ≠ none :=
  ⟨takeRequest (.close .b 1 0) { crossedPorts with pending := [] }, rfl, rfl, rfl, by decide⟩

/-- Refutes O53: after one step of `crossedPorts` a port that is RECEIVING in STARTING has a cached answer. -/
theorem not_stepsKeepTablesAndService : ¬ Obligations.StepsKeepTablesAndService := by
  rintro ⟨-, service⟩
  obtain ⟨t, hs, hd, hf, hc⟩ := crossedPorts_step
  exact hc ((service _ t crossedPorts_service hs).fresh .b (.inr ⟨hd, .inl hf⟩))

end Sys2Proof.Machine
end

section
/-! PROOFS. No work waits for an idle array (R136, R138): an offer leaves the array idle only with nothing to do, and what
makes no offer adds no work. -/

set_option Elab.async false

namespace Sys2Proof.Machine

section
variable {s t : State}

/-! ## The offer -/

theorem State.offerScrub_idle (k : Nat) : ∀ {s : State}, s.dir.scrubLeft < k →
    (State.offerScrub k s).sched.activity = .idle → (State.offerScrub k s).dir.eligible = none := by
  induction k with
  | zero => exact fun h => absurd h (Nat.not_lt_zero _)
  | succ k ih =>
    intro s hk hi
    unfold State.offerScrub at hi ⊢
    split at hi
    · next he => simp [he]
    · next i he =>
      have hlt := Directory.eligible_lt he
      split at hi
      · next hc =>
        rw [if_pos hc]
        exact ih (by have := State.scrubLeft_complete hlt hc; omega) hi
      · next hc =>
        have hc' : (s.dir.scrubAt i).complete = false := by simpa using hc
        have hless (w : Bool) : ((s.scrubbed i (s.dir.scrubAt i).next w).removeComplete i).dir.scrubLeft < k := by
          have h1 := State.scrubLeft_scrubbed hlt hc' (s.dir.scrubAt i).next w
          have h2 := (s.scrubbed i (s.dir.scrubAt i).next w).scrubLeft_removeComplete i
          omega
        rw [if_neg hc]
        split at hi
        · next hw => rw [if_pos hw]; exact ih (hless false) hi
        · next hw =>
          rw [if_neg hw]
          split at hi
          · next hl => rw [if_pos hl]; exact ih (hless true) hi
          · simp at hi

theorem State.offerQueue_idle (l : List Nat) : ∀ {s : State}, s.sched.waiters = [] → s.sched.queue = l →
    (State.offerQueue l s).sched.activity = .idle →
    (State.offerQueue l s).sched.waiters = [] ∧ (State.offerQueue l s).sched.queue = [] ∧
      (State.offerQueue l s).dir.eligible = none := by
  induction l with
  | nil =>
    intro s hw hq hi
    unfold State.offerQueue at hi ⊢
    exact ⟨by simpa using hw, by simpa using hq, State.offerScrub_idle _ s.scrubLeft_lt_fuel hi⟩
  | cons n rest ih =>
    intro s hw hq hi
    unfold State.offerQueue at hi ⊢
    simp only at hi ⊢
    split at hi
    · next ha =>
      rw [if_pos ha]
      exact ih (by simpa using hw) (by simp) hi
    · next ha => exact absurd hi ha

/-- An offer leaves the array at work, or nothing to do (R136). -/
theorem State.offer_idleLaw (s : State) : s.offer.IdleLaw := by
  intro hl hi
  by_cases h : s.sched.activity = .idle ∧ s.loaded = true
  · have he : s.offer = State.offerQueue s.serveAll.sched.queue s.serveAll := if_pos h
    rw [he] at hi ⊢
    exact State.offerQueue_idle _ rfl rfl hi
  · have he : s.offer = s := if_neg h
    rw [he] at hi hl
    exact absurd ⟨hi, hl⟩ h

theorem State.freeArray_idleLaw (s : State) : s.freeArray.IdleLaw := State.offer_idleLaw _

theorem State.idleLaw_of_busy (h : t.sched.activity ≠ .idle) : t.IdleLaw := fun _ hi => absurd hi h

theorem State.idleLaw_of_not_loaded (h : t.loaded = false) : t.IdleLaw := fun hl => by rw [h] at hl; cases hl

/-- Nothing has been added to what may wait for the array. -/
theorem State.IdleLaw.congr (h : s.IdleLaw) (hl : t.loaded = s.loaded) (ha : t.sched.activity = s.sched.activity)
    (hw : s.sched.waiters = [] → t.sched.waiters = []) (hq : s.sched.queue = [] → t.sched.queue = [])
    (he : s.dir.eligible = none → t.dir.eligible = none) : t.IdleLaw := by
  intro h1 h2
  obtain ⟨h3, h4, h5⟩ := h (hl ▸ h1) (ha ▸ h2)
  exact ⟨hw h3, hq h4, he h5⟩

theorem State.idleLaw_reframe : ReframeClosed State.IdleLaw := fun _ _ _ _ h =>
  h.congr (State.loaded_congr (by simp)) (by simp) (by simp) (by simp) (by simp)

/-! ## The acceptances -/

theorem State.startWrite_loaded (s : State) : s.startWrite.loaded = s.loaded := by
  unfold State.startWrite
  split
  · exact s.writerFault_loaded
  · rfl

theorem State.kick_loaded (s : State) : s.kick.loaded = s.loaded := by
  unfold State.kick
  split
  · exact s.startWrite_loaded
  · rfl

theorem State.markDirty_loaded (s : State) : s.markDirty.loaded = s.loaded := State.kick_loaded _

theorem State.waitDirectory_loaded (s : State) (p : Port) (w : Work) (ref : RegionRef) (n : Nat) :
    (s.waitDirectory p w ref n).loaded = s.loaded := State.markDirty_loaded _

theorem State.IdleLaw.waitDirectory (h : s.IdleLaw) (p : Port) (w : Work) (ref : RegionRef) (n : Nat) :
    (s.waitDirectory p w ref n).IdleLaw :=
  h.congr (s.waitDirectory_loaded p w ref n) (by simp) (by simp) (by simp) (by simp)

theorem State.IdleLaw.setDir (h : s.IdleLaw) {d : Directory} (hd : s.dir.eligible = none → d.eligible = none) :
    State.IdleLaw { s with dir := d } := h.congr rfl rfl id id hd

theorem Directory.eligible_addScrub (d : Directory) (e : Extent) (h : d.eligible = none) :
    (d.addScrub e).eligible = none := by
  unfold Directory.eligible at *
  rw [List.findIdx?_eq_none_iff] at *
  intro x hx
  rcases List.mem_append.1 hx with hx | hx
  · exact h x hx
  · rw [List.mem_singleton.1 hx]

theorem Directory.eligible_of_scrub {d e : Directory} (h : e.scrub = d.scrub) : e.eligible = d.eligible := by
  unfold Directory.eligible; rw [h]

theorem State.IdleLaw.setFreeze (h : s.IdleLaw) (n : Nat) (l : Freeze) : (s.setFreeze n l).IdleLaw :=
  h.setDir fun he => by rwa [Directory.eligible_of_scrub (Directory.mapRegion_scrub _ _ _)]

theorem State.IdleLaw.cancelQueued (h : s.IdleLaw) (f : SlotBody → Bool) (c : Status) : (s.cancelQueued f c).IdleLaw :=
  h.congr rfl rfl id (fun hq => by simp [State.cancelQueued, hq]) id

theorem State.IdleLaw.invalidate (h : s.IdleLaw) (f : Port → HandleInfo → Bool) : (s.invalidate f).IdleLaw :=
  (h.cancelQueued (s.issuedThrough f) .stale).congr rfl rfl id id id

theorem State.IdleLaw.invalidateIf (h : s.IdleLaw) (o : Bool) (f : Port → HandleInfo → Bool) :
    State.IdleLaw (if o then s.invalidate f else s) := by
  split
  · exact h.invalidate f
  · exact h

theorem State.IdleLaw.acceptShrink (h : s.IdleLaw) (p : Port) (ref : RegionRef) (k : Nat) (o : Bool) (r : Region)
    (n : Nat) : (State.acceptShrink p ref k o r n s).IdleLaw := by
  have ht : State.IdleLaw (if o then s.cancelQueued (fun b => b.touchesTail ref k) .stale else s) := by
    split
    · exact h.cancelQueued _ _
    · exact h
  refine State.IdleLaw.waitDirectory (ht.setDir fun he => Directory.eligible_addScrub _ _ ?_) _ _ _ _
  rwa [Directory.eligible_of_scrub (Directory.mapRegion_scrub _ _ _)]

theorem State.IdleLaw.acceptRetire (h : s.IdleLaw) (p : Port) (ref : RegionRef) (o : Bool) (r : Region) (n : Nat) :
    (State.acceptRetire p ref o r n s).IdleLaw := by
  refine State.IdleLaw.waitDirectory ((h.invalidateIf o (onRegion ref)).setDir fun he => ?_) _ _ _ _
  exact Directory.eligible_addScrub _ _ he

theorem State.IdleLaw.acceptGrant (h : s.IdleLaw) (p : Port) (ref : RegionRef) (v : Rights) (o : Bool) (r : Region)
    (n : Nat) : (State.acceptGrant p ref v o r n s).IdleLaw := by
  refine State.IdleLaw.waitDirectory ((h.invalidateIf o (invalidatedBy p ref v)).setDir fun he => ?_) _ _ _ _
  rwa [Directory.eligible_of_scrub (Directory.mapRegion_scrub _ _ _)]

/-- A FORMAT pass leaves no directory in service (R170, R172). -/
theorem State.formatPass_not_loaded (n k : Nat) : ∀ {s : State}, s.device = .formatting →
    (State.formatPass n k s).loaded = false := by
  have hoff {s : State} (hd : s.device = .formatting) : s.loaded = false := by unfold State.loaded; rw [hd]; rfl
  induction k with
  | zero =>
    intro s hd
    rcases s.formatWrite_cases with he | ⟨q, -, hw⟩
    · rw [State.formatPass, he, State.writerFault_loaded]; exact hoff hd
    · rw [State.formatPass, State.loaded_congr hw]; exact hoff hd
  | succ k ih =>
    intro s hd
    unfold State.formatPass
    simp only
    split
    · exact ih hd
    · exact hoff hd

theorem State.askSuspend_busy {o : EraseOwner} {run : EraseRun} {r : EraseRun} (h : s.sched.activity = .erase o r) :
    (s.askSuspend o run).sched.activity ≠ .idle := by
  unfold State.askSuspend
  split
  · rw [h]; simp
  · split
    · cases o <;> simp
    · simp

theorem State.readPath_busy (w : ReadWait) (h : s.sched.activity ≠ .idle) :
    (s.readPath w).1.sched.activity ≠ .idle := by
  have ha : (s.await w).sched.activity ≠ .idle := h
  unfold State.readPath
  split
  · exact h
  · exact ha
  · exact ha
  · exact ha
  · exact ha
  · next o run he =>
    split
    · exact h
    · split
      · exact ha
      · split
        · exact h
        · split
          · exact State.askSuspend_busy (s := s.await w) he
          · exact ha

theorem State.IdleLaw.readPath (h : s.IdleLaw) (w : ReadWait) : (s.readPath w).1.IdleLaw := by
  by_cases ha : s.sched.activity = .idle
  · rw [State.readPath_idle ha]; exact h
  · exact State.idleLaw_of_busy (State.readPath_busy w ha)

theorem State.IdleLaw.cancelWaiting (h : s.IdleLaw) (n : Nat) (b : SlotBody) : (s.cancelWaiting n b).IdleLaw := by
  have ht : State.IdleLaw ((s.dequeue n).mapSlot n fun b => { b with state := .cancelled .host }) :=
    h.congr rfl rfl id (fun hq => by simp [hq]) id
  unfold State.cancelWaiting
  simp only
  split
  · exact ht.setFreeze _ _
  · exact ht

theorem State.releaseFixes_scrub (s : State) (p : Port) : (s.releaseFixes p).dir.scrub = s.dir.scrub := by
  unfold State.releaseFixes
  refine List.foldlRecOn (motive := fun t : State => t.dir.scrub = s.dir.scrub) s.slots _ rfl fun t ht x _ => ?_
  split
  · split
    · simpa using ht
    · exact ht
  · exact ht

theorem State.IdleLaw.resetPort (h : s.IdleLaw) (p : Port) : (s.resetPort p).IdleLaw :=
  h.congr (State.loaded_congr (by simp)) (by simp [State.resetPort_sched]) (by simp [State.resetPort_sched])
    (fun hq => by simp [State.resetPort_sched, hq])
    fun he => by rwa [State.resetPort_dir, Directory.eligible_of_scrub (s.releaseFixes_scrub p)]

theorem State.IdleLaw.request (h : s.IdleLaw) : RequestCases State.IdleLaw s where
  create _ _ _ _ _ _ _ _ _ _ := State.IdleLaw.waitDirectory (h.setDir (d := s.dir.setBody _ _) id) _ _ _ _
  grow _ _ k _ _ _ _ _ _ := State.IdleLaw.waitDirectory (h.setDir fun he => by
    rwa [Directory.eligible_of_scrub (Directory.mapRegion_scrub _ _ _)]) _ _ _ _
  shrink p ref k o r n _ _ _ _ := h.acceptShrink p ref k o r n
  retire p ref o r n _ _ _ _ := h.acceptRetire p ref o r n
  grant p ref v o r n _ _ _ _ := h.acceptGrant p ref v o r n
  hold _ _ o _ _ _ _ _ _ := ((h.invalidateIf o _).setFreeze _ _).waitDirectory _ _ _ _
  thaw _ _ _ _ _ _ _ := (h.setFreeze _ _).waitDirectory _ _ _ _
  fix _ _ _ _ _ _ _ _ := State.offer_idleLaw _
  format _ _ _ _ _ := State.idleLaw_of_not_loaded (State.formatPass_not_loaded _ _ rfl)
  setHandle _ _ _ _ := h.congr (State.loaded_congr (by simp)) (by simp) (by simp) (by simp) (by simp)
  queueWork _ _ _ _ _ _ _ _ := State.offer_idleLaw _
  readPath w _ := h.readPath w
  cancelWaiting _ _ _ _ _ _ := h.cancelWaiting _ _
  abortErase _ _ _ _ _ _ _ := State.freeArray_idleLaw _
  cancelErase _ _ _ _ _ _ _ := State.freeArray_idleLaw _
  cancelScan _ _ _ _ := State.idleLaw_of_busy (by simp)
  collect _ _ _ _ _ _ := h.congr rfl rfl id id id
  clearNotice _ := h.congr (State.loaded_congr (by simp)) (by simp) (by simp) (by simp) (by simp)
  resetPort p _ := h.resetPort p

/-! ## Events -/

theorem State.IdleLaw.endProgram (h : s.IdleLaw) (r : ArrayEnd) : (s.endProgram r).IdleLaw := by
  unfold State.endProgram
  split
  · cases r <;> exact State.freeArray_idleLaw _
  · exact h

theorem State.slotUnitEnd_idleLaw (s : State) (n u : Nat) (r : ArrayEnd) : (s.slotUnitEnd n u r).IdleLaw := by
  cases r with
  | arrayFault => exact State.freeArray_idleLaw _
  | success =>
    rw [State.slotUnitEnd_success]
    split
    · exact State.idleLaw_of_busy (by simp)
    · exact State.freeArray_idleLaw _

theorem State.scrubUnitEnd_idleLaw (s : State) (u : Nat) (r : ArrayEnd) : (s.scrubUnitEnd u r).IdleLaw := by
  unfold State.scrubUnitEnd
  split <;> exact State.freeArray_idleLaw _

theorem State.formatUnitEnd_not_loaded (hd : s.device = .formatting) (n u : Nat) (r : ArrayEnd) :
    (s.formatUnitEnd n u r).loaded = false := by
  unfold State.formatUnitEnd
  refine State.formatPass_not_loaded _ _ ?_
  split <;> exact hd

theorem State.IdleLaw.endErase (h : s.IdleLaw) (hv : s.ServiceLaw) (r : ArrayEnd) : (s.endErase r).IdleLaw := by
  unfold State.endErase
  split
  · next owner run ha =>
    cases owner with
    | slot n => exact State.slotUnitEnd_idleLaw _ _ _ _
    | scrub => exact State.scrubUnitEnd_idleLaw _ _ _
    | format n =>
      obtain ⟨hd, -, run', ha', -⟩ := State.endPause_format ha
      refine State.idleLaw_of_not_loaded (State.formatUnitEnd_not_loaded ?_ _ _ _)
      rw [State.eraseContent_device, hd]
      exact (hv.pass n run' ha').1
  · exact h

theorem State.fixMarked_idleLaw (s : State) (n : Nat) : (s.fixMarked n).IdleLaw := by
  unfold State.fixMarked
  split <;> exact State.freeArray_idleLaw _

theorem State.fixFault_idleLaw (s : State) (n region : Nat) (e : Extent) : (s.fixFault n region e).IdleLaw := by
  unfold State.fixFault
  simp only
  split <;> exact State.freeArray_idleLaw _

theorem State.IdleLaw.endMark (h : s.IdleLaw) (r : ArrayEnd) : (s.endMark r).IdleLaw := by
  unfold State.endMark
  split
  · cases r
    · simp only
      split
      · exact State.idleLaw_of_busy (by simp)
      · exact State.fixMarked_idleLaw _ _
    · exact State.fixFault_idleLaw _ _ _ _
  · exact h

theorem State.IdleLaw.endScan (h : s.IdleLaw) : s.endScan.IdleLaw := by
  unfold State.endScan
  split
  · simp only
    split
    · split
      · exact State.freeArray_idleLaw _
      · exact State.idleLaw_of_busy (by simp)
    · split
      · exact State.idleLaw_of_busy (by simp [State.beginMarks])
      · exact State.freeArray_idleLaw _
  · exact h

theorem State.IdleLaw.endSlice (h : s.IdleLaw) : s.endSlice.IdleLaw := by
  unfold State.endSlice
  split
  · simp only
    split
    · exact State.idleLaw_of_busy (by simp)
    · exact State.idleLaw_of_busy (State.askSuspend_busy rfl)
  · exact h

theorem State.IdleLaw.writeCompletes (h : s.IdleLaw) (hv : s.ServiceLaw) : s.writeCompletes.IdleLaw := by
  unfold State.writeCompletes
  split
  · next job hw =>
    split
    · next hf =>
      obtain ⟨hq, hr⟩ := hv.calm (hv.not_loaded_of_format hw hf)
      exact fun _ _ => ⟨hr, hq, rfl⟩
    · exact State.offer_idleLaw _
  · exact h

theorem State.IdleLaw.attemptFails (h : s.IdleLaw) : s.attemptFails.IdleLaw := by
  unfold State.attemptFails
  split
  · unfold State.failAttempt
    simp only
    split
    · exact h.congr rfl rfl id id id
    · exact h.congr (State.writerFault_loaded _) rfl id id id
  · exact h

theorem State.enterReset_not_loaded (s : State) : s.enterReset.loaded = false := by
  unfold State.enterReset
  split
  · next h => unfold State.loaded; rw [h]; rfl
  · rfl

theorem State.IdleLaw.leaveReset (h : s.IdleLaw) : s.leaveReset.IdleLaw := by
  unfold State.leaveReset
  split
  · exact State.idleLaw_of_not_loaded rfl
  · exact h

theorem State.startup_idleLaw (s : State) : s.startup.IdleLaw := by
  unfold State.startup
  split
  · exact State.offer_idleLaw _
  · exact State.offer_idleLaw _
  · exact State.idleLaw_of_not_loaded rfl

theorem State.resume_busy (s : State) (o : EraseOwner) (run : EraseRun) : (s.resume o run).sched.activity ≠ .idle := by
  rw [State.resume_activity]; nofun

theorem State.IdleLaw.background (h : s.IdleLaw) : s.background.IdleLaw := by
  unfold State.background
  split
  · split
    · exact State.idleLaw_of_busy (State.resume_busy _ _ _)
    · exact h
  · next ha _ =>
    split
    · exact State.idleLaw_of_busy (by simp [ha])
    · exact h
  · exact State.offer_idleLaw _
  · next ha _ => exact State.idleLaw_of_busy (by simp [ha])
  · exact h

theorem State.IdleLaw.event (h : s.IdleLaw) (hv : s.ServiceLaw) (c : Instr) : EventCases State.IdleLaw c s where
  select _ _ _ _ := h.congr (State.loaded_congr (by simp)) (by simp) (by simp) (by simp) (by simp)
  programEnd r := h.endProgram r
  eraseEnd r _ := h.endErase hv r
  markWriteEnd r := h.endMark r
  scanStepEnd := h.endScan
  runSliceExpiry := h.endSlice
  writeCompletes := h.writeCompletes hv
  attemptFails := h.attemptFails
  resetAssert _ := State.idleLaw_of_not_loaded s.enterReset_not_loaded
  powerLoss _ := State.idleLaw_of_not_loaded s.enterReset_not_loaded
  resetRelease _ := State.IdleLaw.leaveReset (h.congr rfl rfl id id id)
  powerGood _ := State.IdleLaw.leaveReset (h.congr rfl rfl id id id)
  startup _ := s.startup_idleLaw

end

/-- Settles O54: every change makes an offer, leaves the array at work, or adds no work. -/
theorem stepsLeaveNoWorkWaiting : Obligations.StepsLeaveNoWorkWaiting := fun s _ hv h hs => by
  have hl (l : List Instr) : State.IdleLaw { s with pending := l } := h.congr rfl rfl id id id
  exact step_induct State.idleLaw_reframe hl (fun l => (hl l).request)
    (fun c l _ => (hl l).event (State.ServiceLaw.setPending hv l) c) h.background hs

end Sys2Proof.Machine
end

section
/-! PROOFS. The queue over a step (R123, R124, R134, R135): every change to a slot either leaves its part in the queue
and on the array as it was, or goes with the change of the queue or of the activity that the change asks for. -/

set_option Elab.async false

namespace Sys2Proof.Machine

/-! ## What the queue and the array see of a slot -/

/-- The work of a QUEUED slot. -/
def Slot.queuedWork (x : Slot) : Option Work := x.body.bind fun b => if b.state = .queued then some b.work else none

/-- The work of a slot that is RUNNING or SUSPENDED. -/
def Slot.arrayWork (x : Slot) : Option Work := x.body.bind fun b => if b.state.onArray = true then some b.work else none

theorem Slot.queuedWork_eq_some {x : Slot} {w : Work} :
    x.queuedWork = some w ↔ ∃ b, x.body = some b ∧ b.state = .queued ∧ b.work = w := by
  unfold Slot.queuedWork
  cases x.body <;> simp

theorem Slot.arrayWork_eq_some {x : Slot} {w : Work} :
    x.arrayWork = some w ↔ ∃ b, x.body = some b ∧ b.state.onArray = true ∧ b.work = w := by
  unfold Slot.arrayWork
  cases x.body <;> simp

theorem Slot.queuedWork_eq_none_of_array {x : Slot} {w : Work} (h : x.arrayWork = some w) : x.queuedWork = none := by
  obtain ⟨b, hb, hs, -⟩ := Slot.arrayWork_eq_some.1 h
  unfold Slot.queuedWork
  rw [hb]
  simp only [Option.bind_some]
  exact if_neg fun hq => by rw [hq] at hs; cases hs

theorem Slot.arrayWork_eq_none_of_queued {x : Slot} {w : Work} (h : x.queuedWork = some w) : x.arrayWork = none := by
  cases ha : x.arrayWork with
  | none => rfl
  | some v => rw [Slot.queuedWork_eq_none_of_array ha] at h; cases h

/-- The kinds of work that join the queue (R135). -/
def Work.queues (w : Work) : Prop := w.writes = true ∨ w = .verify ∨ w = .fix

section
variable {s t : State}

theorem State.slot_of_slots (h : t.slots = s.slots) (n : Nat) : t.slot n = s.slot n := by
  unfold State.slot
  rw [h]

/-- A slot after one slot was changed; what lies past the table reads FREE. -/
theorem State.slot_modify (h : t.slots = s.slots.modify k f) (hk : k < s.slots.length) (n : Nat) :
    t.slot n = if n = k then f (s.slot n) else s.slot n := by
  unfold State.slot
  rw [h]
  by_cases hn : n = k
  · subst hn; simp [hk]
  · simp [hn, Ne.symm hn]

/-- A slot after every slot was changed by a rule that leaves a FREE slot as it is. -/
theorem State.slot_map {g : Slot → Slot} (h : t.slots = s.slots.map g) (hg : g Slot.blank = Slot.blank) (n : Nat) :
    t.slot n = g (s.slot n) := by
  unfold State.slot
  rw [h]
  by_cases hn : n < s.slots.length
  · simp [hn]
  · simp [hn, hg]

/-! ## The law in two parts -/

/-- The queue holds each QUEUED slot once and no other slot, each with work that queues. -/
structure State.QueueCore (s : State) : Prop where
  once : s.sched.queue.Nodup
  queued : ∀ n, n ∈ s.sched.queue ↔ ∃ w, (s.slot n).queuedWork = some w
  kinds : ∀ n w, (s.slot n).queuedWork = some w → w.queues

/-- The slot of the current activity is on the array with work of its kind. -/
def State.Served (s : State) : Prop :=
  ∀ n, s.sched.activity.slot = some n → ∃ w, (s.slot n).arrayWork = some w ∧ s.sched.activity.Serves w

theorem State.queueLaw_iff : s.QueueLaw ↔ s.QueueCore ∧ s.Served := by
  constructor
  · intro h
    refine ⟨⟨h.once, fun n => (h.queued n).trans ?_, fun n w hw => ?_⟩, fun n hn => ?_⟩
    · exact ⟨fun ⟨b, hb, hq⟩ => ⟨b.work, Slot.queuedWork_eq_some.2 ⟨b, hb, hq, rfl⟩⟩, fun ⟨w, hw⟩ => by
        obtain ⟨b, hb, hq, -⟩ := Slot.queuedWork_eq_some.1 hw
        exact ⟨b, hb, hq⟩⟩
    · obtain ⟨b, hb, hq, rfl⟩ := Slot.queuedWork_eq_some.1 hw
      exact h.kinds n b hb hq
    · obtain ⟨b, hb, ha, hs⟩ := h.served n hn
      exact ⟨b.work, Slot.arrayWork_eq_some.2 ⟨b, hb, ha, rfl⟩, hs⟩
  · rintro ⟨h, hs⟩
    refine ⟨h.once, fun n => (h.queued n).trans ?_, fun n b hb hq => ?_, fun n hn => ?_⟩
    · exact ⟨fun ⟨w, hw⟩ => by
        obtain ⟨b, hb, hq, -⟩ := Slot.queuedWork_eq_some.1 hw
        exact ⟨b, hb, hq⟩, fun ⟨b, hb, hq⟩ => ⟨b.work, Slot.queuedWork_eq_some.2 ⟨b, hb, hq, rfl⟩⟩⟩
    · exact h.kinds n b.work (Slot.queuedWork_eq_some.2 ⟨b, hb, hq, rfl⟩)
    · obtain ⟨w, hw, hv⟩ := hs n hn
      obtain ⟨b, hb, ha, rfl⟩ := Slot.arrayWork_eq_some.1 hw
      exact ⟨b, hb, ha, hv⟩

theorem State.QueueLaw.core (h : s.QueueLaw) : s.QueueCore := (State.queueLaw_iff.1 h).1

theorem State.QueueLaw.atWork (h : s.QueueLaw) : s.Served := (State.queueLaw_iff.1 h).2

theorem State.served_of_idle (h : s.sched.activity = .idle) : s.Served := fun n hn => by rw [h] at hn; cases hn

theorem State.QueueCore.of_idle (h : s.QueueCore) (hi : s.sched.activity = .idle) : s.QueueLaw :=
  State.queueLaw_iff.2 ⟨h, State.served_of_idle hi⟩

/-! ## Changes that the queue does not see -/

/-- Neither the queue nor what it sees of the slots has changed. -/
structure State.SameQueue (s t : State) : Prop where
  queue : t.sched.queue = s.sched.queue
  slots : ∀ n, (t.slot n).queuedWork = (s.slot n).queuedWork

theorem State.QueueCore.congr (h : s.QueueCore) (hs : s.SameQueue t) : t.QueueCore where
  once := hs.queue ▸ h.once
  queued n := by rw [hs.queue, hs.slots]; exact h.queued n
  kinds n := by rw [hs.slots]; exact h.kinds n

/-- Nor has the activity or, but for a FORMAT slot, what it sees of them. -/
structure State.SameWork (s t : State) : Prop extends s.SameQueue t where
  activity : t.sched.activity = s.sched.activity
  working : ∀ n w, w ≠ .format → (s.slot n).arrayWork = some w → (t.slot n).arrayWork = some w

theorem State.SameWork.trans {u : State} (h : s.SameWork t) (k : t.SameWork u) : s.SameWork u :=
  ⟨⟨k.queue.trans h.queue, fun n => (k.slots n).trans (h.slots n)⟩, k.activity.trans h.activity,
    fun n w hw ha => k.working n w hw (h.working n w hw ha)⟩

theorem State.sameWork_of_slots (hs : t.slots = s.slots) (hq : t.sched.queue = s.sched.queue)
    (ha : t.sched.activity = s.sched.activity) : s.SameWork t :=
  ⟨⟨hq, fun n => by rw [State.slot_of_slots hs]⟩, ha, fun n w _ h => by rw [State.slot_of_slots hs]; exact h⟩

/-- A change that leaves slots, queue and activity as they are may come first. -/
theorem State.SameWork.after {u : State} (k : t.SameWork u) (hs : t.slots = s.slots)
    (hq : t.sched.queue = s.sched.queue) (ha : t.sched.activity = s.sched.activity) : s.SameWork u :=
  (State.sameWork_of_slots hs hq ha).trans k

theorem State.SameWork.refl (s : State) : s.SameWork s := State.sameWork_of_slots rfl rfl rfl

/-- A rule for every slot that takes no slot out of the queue and none but a FORMAT slot off the array. -/
theorem State.sameWork_of_map {g : Slot → Slot} (h : t.slots = s.slots.map g) (hg : g Slot.blank = Slot.blank)
    (hq : ∀ x, (g x).queuedWork = x.queuedWork)
    (hw : ∀ x w, w ≠ Work.format → x.arrayWork = some w → (g x).arrayWork = some w)
    (hs : t.sched = s.sched) : s.SameWork t :=
  ⟨⟨by rw [hs], fun n => by rw [State.slot_map h hg, hq]⟩, by rw [hs],
    fun n w hf ha => by rw [State.slot_map h hg]; exact hw _ w hf ha⟩

theorem State.QueueLaw.congr (h : s.QueueLaw) (hs : s.SameWork t)
    (hf : ∀ n run, s.sched.activity ≠ .erase (.format n) run) : t.QueueLaw := by
  refine State.queueLaw_iff.2 ⟨h.core.congr hs.toSameQueue, fun n hn => ?_⟩
  rw [hs.activity] at hn ⊢
  obtain ⟨w, hw, hv⟩ := h.atWork n hn
  refine ⟨w, hs.working n w ?_ hw, hv⟩
  rintro rfl
  cases ha : s.sched.activity with
  | erase o run => cases o with
    | format k => exact hf k run ha
    | _ => rw [ha] at hv; exact hv
  | _ => rw [ha] at hv; exact hv

/-- A change that leaves every slot as it is. -/
theorem State.QueueLaw.of_slots (h : s.QueueLaw) (hs : t.slots = s.slots) (hq : t.sched.queue = s.sched.queue)
    (ha : t.sched.activity = s.sched.activity) : t.QueueLaw where
  once := hq ▸ h.once
  queued n := by rw [hq, State.slot_of_slots hs]; exact h.queued n
  kinds n := by rw [State.slot_of_slots hs]; exact h.kinds n
  served n := by rw [ha, State.slot_of_slots hs]; exact h.served n

theorem State.queueLaw_reframe : ReframeClosed State.QueueLaw := fun _ _ _ _ h =>
  h.of_slots (by simp) (by simp) (by simp)

/-! ### The writer's part -/

theorem Slot.queuedWork_ended {st : SlotState} (hst : st ≠ .queued) (x : Slot) : (x.ended st).queuedWork = none := by
  obtain ⟨u, b⟩ := x
  cases b with
  | none => rfl
  | some b => cases hp : b.port <;> simp [Slot.ended, Slot.queuedWork, Slot.freed, hp, hst]

theorem Slot.takeTarget_queuedWork (q : Word) (x : Slot) : (x.takeTarget q).queuedWork = x.queuedWork := by
  unfold Slot.takeTarget Slot.queuedWork
  cases x.body with
  | none => rfl
  | some b => by_cases h : b.state = .waitDir none <;> simp [h]

theorem Slot.takeTarget_arrayWork (q : Word) (x : Slot) : (x.takeTarget q).arrayWork = x.arrayWork := by
  unfold Slot.takeTarget Slot.arrayWork
  cases x.body with
  | none => rfl
  | some b => by_cases h : b.state = .waitDir none <;> simp [h, SlotState.onArray]

/-- A slot that is QUEUED or works on the array is not in WAIT_DIR and, but for a FORMAT, not ended by the writer. -/
theorem Slot.inWaitDir_eq_false {x : Slot} {w : Work} (h : x.queuedWork = some w ∨ x.arrayWork = some w) :
    x.inWaitDir = false := by
  rcases h with h | h
  · obtain ⟨b, hb, hq, -⟩ := Slot.queuedWork_eq_some.1 h
    simp [Slot.inWaitDir, hb, hq, SlotState.isWaitDir]
  · obtain ⟨b, hb, hq, -⟩ := Slot.arrayWork_eq_some.1 h
    unfold Slot.inWaitDir
    rw [hb]
    cases hs : b.state <;> rw [hs] at hq <;> simp_all [SlotState.isWaitDir, SlotState.onArray]

theorem Slot.runningFormat_eq_false {x : Slot} {w : Work}
    (h : x.queuedWork = some w ∨ w ≠ .format ∧ x.arrayWork = some w) : x.runningFormat = false := by
  rcases h with h | ⟨hw, h⟩
  · obtain ⟨b, hb, hq, -⟩ := Slot.queuedWork_eq_some.1 h
    simp [Slot.runningFormat, hb, hq]
  · obtain ⟨b, hb, -, rfl⟩ := Slot.arrayWork_eq_some.1 h
    simp [Slot.runningFormat, hb, hw]

/-- Slots that are neither QUEUED nor at work, but for a FORMAT's, end. -/
theorem State.sameWork_of_ends {p : Slot → Bool} {st : SlotState} (hst : st ≠ .queued)
    (h : t.slots = s.slots.map fun x => if p x then x.ended st else x)
    (hp : ∀ x w, x.queuedWork = some w ∨ w ≠ Work.format ∧ x.arrayWork = some w → p x = false)
    (hs : t.sched = s.sched) : s.SameWork t := by
  refine State.sameWork_of_map h (by simp [Slot.ended]) (fun x => ?_) (fun x w hw ha => ?_) hs
  · cases hq : x.queuedWork with
    | some w => rw [if_neg (by rw [hp x w (.inl hq)]; nofun), hq]
    | none => split
              · exact Slot.queuedWork_ended hst x
              · exact hq
  · rwa [if_neg (by rw [hp x w (.inr ⟨hw, ha⟩)]; nofun)]

theorem State.writerFault_sameWork (s : State) : s.SameWork s.writerFault :=
  State.sameWork_of_ends (by nofun) rfl (fun x w h => by
    rw [Slot.inWaitDir_eq_false (h.imp_right And.right), Slot.runningFormat_eq_false h]; rfl) rfl

theorem State.startWrite_sameWork (s : State) : s.SameWork s.startWrite := by
  unfold State.startWrite
  split
  · exact s.writerFault_sameWork
  · exact State.sameWork_of_map (g := Slot.takeTarget (s.store.durable + 1)) rfl rfl (Slot.takeTarget_queuedWork _)
      (fun x w _ h => by rwa [Slot.takeTarget_arrayWork]) rfl

theorem State.kick_sameWork (s : State) : s.SameWork s.kick := by
  unfold State.kick
  split
  · exact s.startWrite_sameWork
  · exact .refl s

theorem State.markDirty_sameWork (s : State) : s.SameWork s.markDirty := by
  unfold State.markDirty
  exact State.SameWork.after (State.kick_sameWork _) rfl rfl rfl

theorem State.completeWrite_sameWork (s : State) (job : WriteJob) : s.SameWork (s.completeWrite job) :=
  State.sameWork_of_ends (p := fun x => x.body.any fun b => b.state == .waitDir (some job.image.sequence))
    (st := .doneOk) (by nofun) rfl (fun x w h => by
      have hw := Slot.inWaitDir_eq_false (h.imp_right And.right)
      unfold Slot.inWaitDir at hw
      cases hb : x.body with
      | none => rfl
      | some b =>
        rw [hb] at hw
        cases hs : b.state <;> simp_all [SlotState.isWaitDir]) rfl

theorem State.completeFormat_sameWork (s : State) (job : WriteJob) : s.SameWork (s.completeFormat job) :=
  State.sameWork_of_ends (by nofun) rfl (fun x w h => Slot.runningFormat_eq_false h) rfl

theorem State.failAttempt_sameWork (s : State) (job : WriteJob) : s.SameWork (s.failAttempt job) := by
  unfold State.failAttempt
  simp only
  split
  · exact State.sameWork_of_slots rfl rfl rfl
  · exact State.SameWork.after (State.writerFault_sameWork _) rfl rfl rfl

theorem State.scrubbed_sameWork (s : State) (i u : Nat) (w : Bool) : s.SameWork (s.scrubbed i u w) := by
  unfold State.scrubbed
  split
  · exact State.SameWork.after (State.markDirty_sameWork _) rfl rfl rfl
  · exact State.sameWork_of_slots rfl rfl rfl

theorem State.removeComplete_sameWork (s : State) (i : Nat) : s.SameWork (s.removeComplete i) := by
  unfold State.removeComplete
  split
  · exact State.SameWork.after (State.markDirty_sameWork _) rfl rfl rfl
  · exact .refl s

/-! ## One slot changed -/

/-- Every slot but `n` is as it was, and `n` is not QUEUED. -/
structure State.Takes (s t : State) (n : Nat) : Prop where
  others : ∀ m, m ≠ n → (t.slot m).queuedWork = (s.slot m).queuedWork
  taken : (t.slot n).queuedWork = none

theorem State.endSlot_takes (s : State) (n : Nat) {st : SlotState} (hst : st ≠ .queued) : s.Takes (s.endSlot n st) n := by
  by_cases hn : n < s.slots.length
  · have h := State.slot_modify (s := s) (t := s.endSlot n st) rfl hn
    exact ⟨fun m hm => by rw [h, if_neg hm], by rw [h, if_pos rfl, Slot.queuedWork_ended hst]⟩
  · have h : (s.endSlot n st).slots = s.slots := modify_of_le _ _ _ (Nat.le_of_not_lt hn)
    refine ⟨fun m _ => by rw [State.slot_of_slots h], ?_⟩
    rw [State.slot_of_slots h, State.slot_of_le (Nat.le_of_not_lt hn)]; rfl

/-- A slot that is not QUEUED leaves the queue as it is. -/
theorem State.QueueCore.takes (h : s.QueueCore) {n : Nat} (ht : s.Takes t n) (hn : (s.slot n).queuedWork = none)
    (hq : t.sched.queue = s.sched.queue) : t.QueueCore :=
  h.congr ⟨hq, fun m => by
    by_cases hm : m = n
    · subst hm; rw [ht.taken, hn]
    · exact ht.others m hm⟩

/-- A QUEUED slot that is no longer so leaves the queue. -/
theorem State.QueueCore.leaves (h : s.QueueCore) {n : Nat} (ht : s.Takes t n)
    (hq : ∀ m, m ∈ t.sched.queue ↔ m ∈ s.sched.queue ∧ m ≠ n) (ho : t.sched.queue.Nodup) : t.QueueCore where
  once := ho
  queued m := by
    rw [hq, h.queued]
    by_cases hm : m = n
    · subst hm; simp [ht.taken]
    · simp [hm, ht.others m hm]
  kinds m w hw := by
    by_cases hm : m = n
    · subst hm; rw [ht.taken] at hw; cases hw
    · exact h.kinds m w (ht.others m hm ▸ hw)

/-- A slot changed in fields that neither the queue nor the array sees. -/
theorem State.mapSlot_same (s : State) (n : Nat) {f : SlotBody → SlotBody}
    (hs : ∀ b, (f b).state = b.state := by intro b; rfl)
    (hw : ∀ b, (f b).work = b.work := by intro b; rfl) (m : Nat) :
    ((s.mapSlot n f).slot m).queuedWork = (s.slot m).queuedWork ∧
      ((s.mapSlot n f).slot m).arrayWork = (s.slot m).arrayWork := by
  by_cases hn : n < s.slots.length
  · rw [State.slot_modify (s := s) (t := s.mapSlot n f) rfl hn]
    split
    · unfold Slot.queuedWork Slot.arrayWork
      cases (s.slot m).body <;> simp [hs, hw]
    · exact ⟨rfl, rfl⟩
  · have h : (s.mapSlot n f).slots = s.slots := modify_of_le _ _ _ (Nat.le_of_not_lt hn)
    rw [State.slot_of_slots h]
    exact ⟨rfl, rfl⟩

/-- A slot that is given a state other than QUEUED. -/
theorem State.mapSlot_takes (s : State) (n : Nat) {f : SlotBody → SlotBody} (hs : ∀ b, (f b).state ≠ .queued) :
    s.Takes (s.mapSlot n f) n := by
  by_cases hn : n < s.slots.length
  · have h := State.slot_modify (s := s) (t := s.mapSlot n f) rfl hn
    refine ⟨fun m hm => by rw [h, if_neg hm], ?_⟩
    rw [h, if_pos rfl]
    unfold Slot.queuedWork
    cases (s.slot n).body <;> simp [hs]
  · have h : (s.mapSlot n f).slots = s.slots := modify_of_le _ _ _ (Nat.le_of_not_lt hn)
    refine ⟨fun m _ => by rw [State.slot_of_slots h], ?_⟩
    rw [State.slot_of_slots h, State.slot_of_le (Nat.le_of_not_lt hn)]; rfl

theorem State.mapSlot_arrayWork (s : State) {n : Nat} {f : SlotBody → SlotBody} {b : SlotBody}
    (hb : (s.slot n).body = some b) (hs : (f b).state.onArray = true) :
    ((s.mapSlot n f).slot n).arrayWork = some (f b).work := by
  rw [State.slot_modify (s := s) (t := s.mapSlot n f) rfl (State.lt_of_body hb), if_pos rfl]
  unfold Slot.arrayWork
  rw [hb]
  simp [hs]

end

end Sys2Proof.Machine
end

section
/-! PROOFS. The law of the queue over requests, offers and events (R134 to R136). -/

set_option Elab.async false

namespace Sys2Proof.Machine

section
variable {s t : State}

/-! ## Rules for the law -/

theorem State.QueueCore.of_slots (h : s.QueueCore) (hs : t.slots = s.slots) (hq : t.sched.queue = s.sched.queue) :
    t.QueueCore := h.congr ⟨hq, fun n => by rw [State.slot_of_slots hs]⟩

/-- The activity stands and its slot works on. -/
theorem State.QueueLaw.of_core (h : s.QueueLaw) (hc : t.QueueCore) (ha : t.sched.activity = s.sched.activity)
    (hw : ∀ n w, s.sched.activity.slot = some n → (s.slot n).arrayWork = some w → (t.slot n).arrayWork = some w) :
    t.QueueLaw := by
  refine State.queueLaw_iff.2 ⟨hc, fun n hn => ?_⟩
  rw [ha] at hn ⊢
  obtain ⟨w, hb, hv⟩ := h.atWork n hn
  exact ⟨w, hw n w hn hb, hv⟩

/-- The array goes on with another activity for the same slot. -/
theorem State.QueueLaw.setActivity (h : s.QueueLaw) {x : Activity} (hs : x.slot = s.sched.activity.slot)
    (hv : ∀ w, s.sched.activity.Serves w → x.Serves w) : (s.setActivity x).QueueLaw := by
  refine State.queueLaw_iff.2 ⟨h.core.of_slots rfl rfl, fun n hn => ?_⟩
  obtain ⟨w, hw, hw'⟩ := h.atWork n (hs ▸ hn)
  exact ⟨w, hw, hv w hw'⟩

theorem State.QueueLaw.not_queued (h : s.QueueLaw) {n : Nat} (ha : s.sched.activity.slot = some n) :
    (s.slot n).queuedWork = none := by
  obtain ⟨w, hw, -⟩ := h.atWork n ha
  exact Slot.queuedWork_eq_none_of_array hw

/-- The slot at work is changed and works on. -/
theorem State.QueueLaw.mapSlot (h : s.QueueLaw) {n : Nat} (ha : s.sched.activity.slot = some n)
    {f : SlotBody → SlotBody} (hw : ∀ b, (f b).work = b.work := by intro b; rfl)
    (hs : ∀ b, b.state.onArray = true → (f b).state.onArray = true := by intro b h; exact h) :
    (s.mapSlot n f).QueueLaw := by
  obtain ⟨w, hx, -⟩ := h.atWork n ha
  obtain ⟨b, hb, hon, rfl⟩ := Slot.arrayWork_eq_some.1 hx
  have hat : ((s.mapSlot n f).slot n).arrayWork = some b.work := (s.mapSlot_arrayWork hb (hs b hon)).trans (by rw [hw])
  have hne (m : Nat) (hm : m ≠ n) : (s.mapSlot n f).slot m = s.slot m := by
    rw [State.slot_modify (s := s) (t := s.mapSlot n f) rfl (State.lt_of_body hb), if_neg hm]
  refine h.of_core (h.core.takes ⟨fun m hm => by rw [hne m hm], Slot.queuedWork_eq_none_of_array hat⟩
    (h.not_queued ha) rfl) rfl fun m w hm hw' => ?_
  rw [ha] at hm
  cases hm
  rw [hat, ← hx, hw']

/-- The slot at work ends. -/
theorem State.QueueLaw.endSlot (h : s.QueueLaw) {n : Nat} (ha : s.sched.activity.slot = some n) {st : SlotState}
    (hst : st ≠ .queued := by nofun) : (s.endSlot n st).QueueCore :=
  h.core.takes (s.endSlot_takes n hst) (h.not_queued ha) rfl

/-- A free slot is given work that does not queue. -/
theorem State.fillSlot_sameWork (s : State) {n : Nat} (hn : (s.slot n).body = none) {b : SlotBody}
    (hb : b.state ≠ .queued) :
    s.SameWork (s.fillSlot n b) := by
  by_cases hl : n < s.slots.length
  · have h := State.slot_modify (s := s) (t := s.fillSlot n b) rfl hl
    refine ⟨⟨rfl, fun m => ?_⟩, rfl, fun m w _ hw => ?_⟩
    · rw [h]
      split
      · next e => subst e; unfold Slot.queuedWork; rw [hn]; simp [hb]
      · rfl
    · rw [h, if_neg]
      · exact hw
      · rintro rfl; unfold Slot.arrayWork at hw; rw [hn] at hw; cases hw
  · exact State.sameWork_of_slots (modify_of_le _ _ _ (Nat.le_of_not_lt hl)) rfl rfl

theorem State.free_of_slotCheck {p : Port} {n : Nat} (h : s.slotCheck p = .ok n) :
    n < s.slots.length ∧ (s.slot n).body = none := by
  unfold State.slotCheck State.lowestFreeSlot at h
  split at h
  · cases h
  · next k hk =>
    split at h
    · cases h
    · cases h
      obtain ⟨hl, hb, -⟩ := List.findIdx?_eq_some_iff_getElem.1 hk
      exact ⟨hl, by rw [State.slot_eq hl]; simpa using hb⟩

/-- QUEUED slots that stop being so leave the queue together. -/
theorem State.QueueCore.filter (h : s.QueueCore) {p : Nat → Bool}
    (hq : t.sched.queue = s.sched.queue.filter fun n => !p n)
    (hs : ∀ n, (t.slot n).queuedWork = if p n then none else (s.slot n).queuedWork) : t.QueueCore where
  once := hq ▸ h.once.filter _
  queued n := by
    rw [hq, List.mem_filter, h.queued, hs]
    cases p n <;> simp
  kinds n w hw := by
    rw [hs] at hw
    split at hw
    · cases hw
    · exact h.kinds n w hw

/-! ## Offers -/

theorem State.QueueLaw.offerScrub (k : Nat) : ∀ {s : State}, s.QueueCore → s.sched.activity = .idle →
    (State.offerScrub k s).QueueLaw := by
  induction k with
  | zero => exact fun h hi => h.of_idle hi
  | succ k ih =>
    intro s h hi
    have hr (t : State) (ht : s.SameWork t) (i : Nat) : (State.offerScrub k (t.removeComplete i)).QueueLaw :=
      ih (h.congr (ht.trans (t.removeComplete_sameWork i)).toSameQueue) (by simp [ht.activity, hi])
    unfold State.offerScrub
    split
    · exact h.of_idle hi
    · split
      · exact hr s (.refl s) _
      · split
        · exact hr _ (s.scrubbed_sameWork _ _ _) _
        · split
          · exact hr _ (s.scrubbed_sameWork _ _ _) _
          · exact State.queueLaw_iff.2 ⟨h.of_slots rfl rfl, fun n hn => by cases hn⟩

theorem State.Takes.of_slots {u : State} {n : Nat} (h : s.Takes t n) (hu : u.slots = t.slots) : s.Takes u n :=
  ⟨fun m hm => by rw [State.slot_of_slots hu]; exact h.others m hm, by rw [State.slot_of_slots hu]; exact h.taken⟩

theorem State.Takes.trans {u : State} {n : Nat} (h : s.Takes t n) (k : t.Takes u n) : s.Takes u n :=
  ⟨fun m hm => (k.others m hm).trans (h.others m hm), k.taken⟩

theorem State.runSlot_takes (s : State) (n : Nat) : s.Takes (s.runSlot n) n := s.mapSlot_takes n fun _ => nofun

theorem State.runSlot_arrayWork {n : Nat} {b : SlotBody} (hb : (s.slot n).body = some b) :
    ((s.runSlot n).slot n).arrayWork = some b.work := s.mapSlot_arrayWork hb rfl

/-- A unit of an ERASE slot is started, or the slot ends and the array is free. -/
theorem State.eraseUnit_takes {n : Nat} {x y : Nat} (hw : (s.slot n).arrayWork = some (.erase x y)) (u : Nat) :
    s.Takes (s.eraseUnit n u) n ∧ (s.eraseUnit n u).Served := by
  unfold State.eraseUnit
  split
  · exact ⟨(s.endSlot_takes n (st := .doneFail .worn) nofun).of_slots rfl, State.served_of_idle rfl⟩
  · have hm (m : Nat) := s.mapSlot_same n (f := fun b => { b with suspensions := 0 }) (by intro b; rfl) (by intro b; rfl) m
    refine ⟨⟨fun m _ => (hm m).1, ?_⟩, fun k hk => ?_⟩
    · exact Slot.queuedWork_eq_none_of_array ((hm n).2.trans hw)
    · cases hk
      exact ⟨_, (hm n).2.trans hw, trivial⟩

/-- The QUEUED slot that is started leaves the queue, and holds the array or has ended (R116, R119, R137). -/
theorem State.startSlot_takes {n : Nat} {w : Work} (hq : (s.slot n).queuedWork = some w) (hk : w.queues)
    (hi : s.sched.activity = .idle) : s.Takes (s.startSlot n) n ∧ (s.startSlot n).Served := by
  obtain ⟨b, hb, -, rfl⟩ := Slot.queuedWork_eq_some.1 hq
  have hrun := State.runSlot_arrayWork hb
  have hstale : s.Takes (s.endSlot n (.cancelled .stale)) n ∧ (s.endSlot n (.cancelled .stale)).Served :=
    ⟨s.endSlot_takes n nofun, State.served_of_idle hi⟩
  have hscan (h : b.work = .verify ∨ b.work = .fix) (run : ScanRun) (hr : run.slot = n) :
      s.Takes ((s.runSlot n).setActivity (.scan run)) n ∧ ((s.runSlot n).setActivity (.scan run)).Served := by
    refine ⟨(s.runSlot_takes n).of_slots rfl, fun k hk => ?_⟩
    cases hk
    subst hr
    exact ⟨_, hrun, by rcases h with h | h <;> rw [h] <;> trivial⟩
  unfold State.startSlot
  rw [hb]
  simp only
  split
  · next o d hw =>
    split
    · unfold State.startProgram
      split
      · exact ⟨(s.runSlot_takes n).trans ((s.runSlot n).endSlot_takes n nofun), State.served_of_idle hi⟩
      · refine ⟨(s.runSlot_takes n).of_slots rfl, fun k hk => ?_⟩
        cases hk
        exact ⟨_, hrun, by rw [hw]; trivial⟩
    · exact hstale
  · next u c hw =>
    split
    · have he := State.eraseUnit_takes (hrun.trans (congrArg some hw)) ((s.dir.extentOf b.regionNumber).first + u)
      exact ⟨(s.runSlot_takes n).trans he.1, he.2⟩
    · exact hstale
  · next hw => exact hscan (.inl hw) _ rfl
  · next hw => exact hscan (.inr hw) _ rfl
  · next h1 h2 h3 h4 =>
    rcases hk with hk | hk | hk
    · cases hw : b.work with
      | program o d => exact absurd hw (h1 o d)
      | erase u c => exact absurd hw (h2 u c)
      | _ => rw [hw] at hk; cases hk
    · exact absurd hk h3
    · exact absurd hk h4

theorem State.QueueLaw.offerQueue (l : List Nat) : ∀ {s : State}, s.QueueCore → s.sched.queue = l →
    s.sched.activity = .idle → (State.offerQueue l s).QueueLaw := by
  induction l with
  | nil => exact fun h _ hi => State.QueueLaw.offerScrub _ h hi
  | cons n rest ih =>
    intro s h hq hi
    have hone := h.once
    rw [hq] at hone
    obtain ⟨w, hw⟩ := (h.queued n).1 (by rw [hq]; exact List.mem_cons_self)
    let u : State := { s with sched := { s.sched with queue := rest } }
    obtain ⟨ht, hs⟩ := State.startSlot_takes (s := u) (n := n) hw (h.kinds n w hw) hi
    have hc : (u.startSlot n).QueueCore := by
      refine h.leaves (n := n) ⟨ht.others, ht.taken⟩ (fun m => ?_) ?_
      · rw [State.startSlot_sched_queue, hq, List.mem_cons]
        show m ∈ rest ↔ _
        constructor
        · exact fun hm => ⟨.inr hm, fun e => (List.nodup_cons.1 hone).1 (e ▸ hm)⟩
        · exact fun ⟨hm, hne⟩ => hm.resolve_left hne
      · rw [State.startSlot_sched_queue]
        exact (List.nodup_cons.1 hone).2
    unfold State.offerQueue
    simp only
    split
    · next hi' => exact ih hc (by simp) hi'
    · exact State.queueLaw_iff.2 ⟨hc, hs⟩

theorem State.QueueLaw.offer (h : s.QueueLaw) : s.offer.QueueLaw := by
  unfold State.offer
  split
  · next hi => exact State.QueueLaw.offerQueue _ (h.core.of_slots (by simp) (by simp)) rfl (by simpa using hi.1)
  · exact h

theorem State.QueueCore.freeArray (h : s.QueueCore) : s.freeArray.QueueLaw :=
  State.QueueLaw.offer ((h.of_slots rfl rfl : (s.setActivity .idle).QueueCore).of_idle rfl)

/-- The slot at work ends, and the array is free. -/
theorem State.QueueLaw.finishes (h : s.QueueLaw) {n : Nat} (ha : s.sched.activity.slot = some n) {st : SlotState}
    (hst : st ≠ .queued := by nofun) : (s.endSlot n st).freeArray.QueueLaw := (h.endSlot ha hst).freeArray

/-! ## Acceptances -/

theorem State.ServiceLaw.no_format (hv : s.ServiceLaw) (hl : s.loaded = true) (n : Nat) (run : EraseRun) :
    s.sched.activity ≠ .erase (.format n) run := by
  intro ha
  obtain ⟨hd, -, -⟩ := hv.pass n run ha
  unfold State.loaded at hl
  rw [hd] at hl
  cases hl

theorem State.loaded_of_ready (h : s.device = .ready) : s.loaded = true := by
  unfold State.loaded; rw [h]; rfl

/-- A control command's slot waits for the directory (R35, R51). -/
theorem State.QueueLaw.waitDirectory (h : s.QueueLaw) (hf : ∀ n run, s.sched.activity ≠ .erase (.format n) run)
    {n : Nat} (hn : (s.slot n).body = none) (p : Port) (w : Work) (ref : RegionRef) :
    (s.waitDirectory p w ref n).QueueLaw := by
  unfold State.waitDirectory
  exact h.congr ((s.fillSlot_sameWork hn (by nofun)).trans (State.markDirty_sameWork _)) hf

theorem State.QueueLaw.cancelQueued (h : s.QueueLaw) (f : SlotBody → Bool) (c : Status) :
    (s.cancelQueued f c).QueueLaw := by
  have hs (n : Nat) := State.slot_map (s := s) (t := s.cancelQueued f c) rfl (by rfl) n
  refine h.of_core (h.core.filter (p := fun n => (s.slot n).queuedWith f) rfl fun n => ?_) rfl fun n w hn hw => ?_
  · rw [hs]
    split
    · unfold Slot.queuedWork
      cases (s.slot n).body <;> simp
    · rfl
  · rw [hs, if_neg]
    · exact hw
    · obtain ⟨b, hb, hon, -⟩ := Slot.arrayWork_eq_some.1 hw
      unfold Slot.queuedWith
      rw [hb]
      cases he : b.state <;> rw [he] at hon <;> simp_all [SlotState.onArray]

theorem State.QueueLaw.invalidate (h : s.QueueLaw) (f : Port → HandleInfo → Bool) : (s.invalidate f).QueueLaw :=
  (h.cancelQueued (s.issuedThrough f) .stale).of_slots rfl rfl rfl

theorem State.slot_cancelQueued_free {f : SlotBody → Bool} {c : Status} {n : Nat} (h : (s.slot n).body = none) :
    ((s.cancelQueued f c).slot n).body = none := by
  rw [State.slot_map (s := s) (t := s.cancelQueued f c) rfl (by rfl), if_neg]
  · exact h
  · unfold Slot.queuedWith; rw [h]; simp

/-- The state after an override, or as it was without one (R62, R71, R74). -/
theorem State.QueueLaw.invalidateIf (h : s.QueueLaw) (o : Bool) (f : Port → HandleInfo → Bool) :
    (if o then s.invalidate f else s).QueueLaw := by
  cases o
  · exact h
  · exact h.invalidate f

theorem State.invalidateIf_kept (s : State) (o : Bool) (f : Port → HandleInfo → Bool) :
    (if o then s.invalidate f else s).sched.activity = s.sched.activity ∧
      ∀ n, (s.slot n).body = none → ((if o then s.invalidate f else s).slot n).body = none := by
  cases o
  · exact ⟨rfl, fun _ h => h⟩
  · exact ⟨rfl, fun _ h => State.slot_cancelQueued_free h⟩

/-- A free slot joins the end of the queue (R135). -/
theorem State.QueueLaw.enqueue (h : s.QueueLaw) {n : Nat} (hl : n < s.slots.length) (hn : (s.slot n).body = none)
    (p : Port) {w : Work} (hw : w.queues) (x : Option Nat) (ref : RegionRef) : (s.enqueue n p w x ref).QueueLaw := by
  have hs := State.slot_modify (s := s) (t := s.enqueue n p w x ref) rfl hl
  have hnone : (s.slot n).queuedWork = none := by unfold Slot.queuedWork; rw [hn]; rfl
  have hnew : ((s.enqueue n p w x ref).slot n).queuedWork = some w := by rw [hs, if_pos rfl]; rfl
  have hout : n ∉ s.sched.queue := fun hm => by
    obtain ⟨v, hv⟩ := (h.core.queued n).1 hm
    rw [hnone] at hv; cases hv
  have hmem (m : Nat) : m ∈ (s.enqueue n p w x ref).sched.queue ↔ m ∈ s.sched.queue ∨ m = n := by
    simp [State.enqueue]
  refine h.of_core ⟨?_, fun m => ?_, fun m v hv => ?_⟩ rfl fun m v hm hv => ?_
  · show (s.sched.queue ++ [n]).Nodup
    rw [List.nodup_append]
    exact ⟨h.once, List.nodup_singleton n, fun a ha b hb e => hout (by simp at hb; subst hb; exact e ▸ ha)⟩
  · rw [hmem, h.core.queued]
    by_cases hm : m = n
    · subst hm; exact ⟨fun _ => ⟨w, hnew⟩, fun _ => .inr rfl⟩
    · rw [hs, if_neg hm]; simp [hm]
  · by_cases hm : m = n
    · subst hm; rw [hnew] at hv; cases hv; exact hw
    · rw [hs, if_neg hm] at hv; exact h.core.kinds m v hv
  · rw [hs, if_neg]
    · exact hv
    · rintro rfl; unfold Slot.arrayWork at hv; rw [hn] at hv; cases hv

/-! ## Suspension -/

theorem Activity.serves_erase {o : EraseOwner} {run run' : EraseRun} {w : Work} (h : (Activity.erase o run).Serves w) :
    (Activity.erase o run').Serves w := by
  cases o <;> cases w <;> exact h

theorem State.QueueLaw.askSuspend (h : s.QueueLaw) {o : EraseOwner} {run : EraseRun}
    (ha : s.sched.activity = .erase o run) (run' : EraseRun) : (s.askSuspend o run').QueueLaw := by
  have hd : s.drawn.QueueLaw := h.of_slots rfl rfl rfl
  have hset (r : EraseRun) : (s.drawn.setActivity (.erase o r)).QueueLaw :=
    hd.setActivity (by rw [State.drawn_sched, ha]; cases o <;> rfl) fun w hw => by
      rw [State.drawn_sched, ha] at hw; exact Activity.serves_erase hw
  unfold State.askSuspend
  split
  · exact h
  · split
    · cases o with
      | slot n => exact (hset _).mapSlot rfl (hs := fun _ _ => rfl)
      | _ => exact hset _
    · exact hset _

theorem State.QueueLaw.resume (h : s.QueueLaw) {o : EraseOwner} {run : EraseRun}
    (ha : s.sched.activity = .erase o run) : (s.resume o run).QueueLaw := by
  have hset (r : EraseRun) : (s.setActivity (.erase o r)).QueueLaw :=
    h.setActivity (by rw [ha]; cases o <;> rfl) fun w hw => by
      rw [ha] at hw; exact Activity.serves_erase hw
  unfold State.resume
  cases o with
  | slot n => exact (hset _).mapSlot rfl (hs := fun _ _ => rfl)
  | _ => exact hset _

theorem State.QueueLaw.serveAll (h : s.QueueLaw) : s.serveAll.QueueLaw := h.of_slots (by simp) (by simp) (by simp)

/-- An ERASE slot between two units goes on (R119). -/
theorem State.QueueLaw.nextUnit (h : s.QueueLaw) {n v : Nat} (ha : s.sched.activity = .between n v) (u : Nat) :
    (s.nextUnit n u).QueueLaw := by
  obtain ⟨w, hw, hv⟩ := h.atWork n (by rw [ha]; rfl)
  rw [ha] at hv
  cases w with
  | erase x y =>
    obtain ⟨ht, hs⟩ := State.eraseUnit_takes hw u
    exact State.QueueLaw.offer (State.queueLaw_iff.2
      ⟨h.core.takes ht (Slot.queuedWork_eq_none_of_array hw) (by simp), hs⟩)
  | _ => exact hv.elim

theorem State.QueueLaw.endPause (h : s.QueueLaw) : s.endPause.QueueLaw := by
  unfold State.endPause
  split
  · next ha =>
    split
    · exact h.serveAll.resume (by simpa using ha)
    · exact h
  · next n u ha => exact h.serveAll.nextUnit (by simpa using ha) u
  · exact h

theorem State.QueueLaw.background (h : s.QueueLaw) : s.background.QueueLaw := by
  have hserve (w : ReadWait) (l : List ReadWait) :
      (State.serve { s with sched := { s.sched with waiters := l } } w).QueueLaw :=
    h.of_slots (by simp) (by simp) (by simp)
  unfold State.background
  split
  · next ha _ =>
    split
    · exact h.resume ha
    · exact h
  · split
    · exact hserve _ _
    · exact h
  · next n u ha _ => exact h.nextUnit ha u
  · exact hserve _ _
  · exact h

/-! ## FORMAT -/

theorem State.QueueCore.formatWrite (h : s.QueueCore) : s.formatWrite.QueueLaw := by
  unfold State.formatWrite
  simp only
  split
  · have hi : (s.setActivity .idle).QueueCore := h.of_slots rfl rfl
    exact (hi.congr (State.writerFault_sameWork _).toSameQueue).of_idle rfl
  · exact State.QueueCore.of_idle (h.of_slots rfl rfl) rfl

theorem State.QueueCore.formatPass (n k : Nat) : ∀ {s : State}, s.QueueCore → (s.slot n).arrayWork = some .format →
    (State.formatPass n k s).QueueLaw := by
  induction k with
  | zero => exact fun h _ => h.formatWrite
  | succ k ih =>
    intro s h hw
    unfold State.formatPass
    simp only
    split
    · have hm (m : Nat) := State.mapSlot_same (s.formatWithdraw (Config.unitCount - (k + 1))) n
        (f := fun b => { b with progress := b.progress + 1 }) (by intro b; rfl) (by intro b; rfl) m
      exact ih (h.congr ⟨rfl, fun m => (hm m).1⟩) ((hm n).2.trans hw)
    · exact State.queueLaw_iff.2 ⟨h.of_slots rfl rfl, fun m hm => by cases hm; exact ⟨_, hw, trivial⟩⟩

theorem State.QueueLaw.acceptFormat (h : s.QueueLaw) {n : Nat} (hl : n < s.slots.length) (hn : (s.slot n).body = none)
    (p : Port) : (s.acceptFormat p n).QueueLaw := by
  have hfill := s.fillSlot_sameWork hn (b := .fresh p .format .running none none none) nofun
  unfold State.acceptFormat
  refine State.QueueCore.formatPass n _ ((h.core.congr hfill.toSameQueue).of_slots rfl rfl) ?_
  rw [State.slot_modify (s := s) rfl hl, if_pos rfl]
  rfl

end

end Sys2Proof.Machine
end

section
/-! PROOFS. The law of the queue after every step (R123, R124, R134, R135). -/

set_option Elab.async false

namespace Sys2Proof.Machine

section
variable {s t : State}

/-! ## Requests -/

theorem State.QueueLaw.setDir (h : s.QueueLaw) (d : Directory) : State.QueueLaw { s with dir := d } :=
  h.of_slots rfl rfl rfl

/-- A control command that changes the directory and takes a free slot. -/
theorem State.QueueLaw.changes (h : s.QueueLaw) (hf : ∀ n run, s.sched.activity ≠ .erase (.format n) run) {n : Nat}
    (hn : (s.slot n).body = none) (d : Directory) (p : Port) (w : Work) (ref : RegionRef) :
    (State.waitDirectory { s with dir := d } p w ref n).QueueLaw :=
  State.QueueLaw.waitDirectory (s := { s with dir := d }) (h.setDir d) hf hn p w ref

theorem State.QueueLaw.readPath (h : s.QueueLaw) (w : ReadWait) : (s.readPath w).1.QueueLaw := by
  have hw : (s.await w).QueueLaw := h.of_slots rfl rfl rfl
  unfold State.readPath
  split
  · exact h
  · exact hw
  · exact hw
  · exact hw
  · exact hw
  · next ha =>
    split
    · exact h
    · split
      · exact hw
      · split
        · exact h
        · split
          · exact hw.askSuspend (by simpa using ha) _
          · exact hw

theorem Slot.queuedWith_true {x : Slot} {f : SlotBody → Bool} (h : x.queuedWith f = true) :
    ∃ b, x.body = some b ∧ b.state = .queued ∧ f b = true := by
  unfold Slot.queuedWith at h
  cases hb : x.body <;> simp_all

theorem State.QueueLaw.cancelWaiting (h : s.QueueLaw) {n : Nat} {b : SlotBody} (hb : (s.slot n).body = some b)
    (hq : b.state = .queued) : (s.cancelWaiting n b).QueueLaw := by
  have ht : State.QueueLaw ((s.dequeue n).mapSlot n fun b => { b with state := .cancelled .host }) := by
    have hm := (s.dequeue n).mapSlot_takes n (f := fun b => { b with state := .cancelled .host }) fun _ => nofun
    refine h.of_core (h.core.leaves (n := n) ⟨hm.others, hm.taken⟩ (fun m => ?_) (h.once.filter _)) rfl
      fun m w hm hw => ?_
    · show m ∈ s.sched.queue.filter _ ↔ _
      simp [List.mem_filter]
    · have hne : m ≠ n := by
        rintro rfl
        rw [Slot.arrayWork_eq_none_of_queued (Slot.queuedWork_eq_some.2 ⟨b, hb, hq, rfl⟩)] at hw
        cases hw
      rw [State.slot_modify (s := s.dequeue n) rfl (State.lt_of_body hb), if_neg hne]
      exact hw
  unfold State.cancelWaiting
  simp only
  split
  · exact ht.of_slots (by simp) (by simp) (by simp)
  · exact ht

/-- A slot that is not at work is freed or changed without the queue (R133). -/
theorem State.QueueLaw.freeSlot (h : s.QueueLaw) {n : Nat} {b : SlotBody} (hb : (s.slot n).body = some b)
    (hf : b.state.finished = true) : (s.freeSlot n).QueueLaw := by
  have hs := State.slot_modify (s := s) (t := s.freeSlot n) rfl (State.lt_of_body hb)
  have hq : (s.slot n).queuedWork = none := by
    unfold Slot.queuedWork
    rw [hb]
    exact if_neg fun e => by rw [e] at hf; cases hf
  refine h.of_core (h.core.takes ⟨fun m hm => by rw [hs, if_neg hm], by rw [hs, if_pos rfl]; rfl⟩ hq rfl) rfl
    fun m w _ hw => ?_
  rw [hs, if_neg]
  · exact hw
  · rintro rfl
    obtain ⟨b', hb', hon, -⟩ := Slot.arrayWork_eq_some.1 hw
    rw [hb] at hb'
    cases hb'
    cases hst : b.state <;> rw [hst] at hf hon <;> cases hf <;> cases hon

/-- What PORT_RESET does to a slot in the eyes of the queue and the array (R128, R129). -/
theorem Slot.portReset_queuedWork (p : Port) (x : Slot) : (x.portReset p).queuedWork =
    if x.queuedWith (fun b => b.port == some p) then none else x.queuedWork := by
  obtain ⟨u, b⟩ := x
  cases b with
  | none => rfl
  | some b =>
    by_cases hp : b.port = some p <;> by_cases hq : b.state = .queued <;> by_cases hf : b.state.finished = true <;>
      simp [Slot.portReset, Slot.queuedWork, Slot.queuedWith, Slot.freed, hp, hq, hf]

theorem Slot.portReset_arrayWork (p : Port) {x : Slot} {w : Work} (h : x.arrayWork = some w) :
    (x.portReset p).arrayWork = some w := by
  obtain ⟨b, hb, hon, rfl⟩ := Slot.arrayWork_eq_some.1 h
  obtain ⟨u, _⟩ := x
  cases hb
  have hq : b.state ≠ .queued := by intro e; rw [e] at hon; cases hon
  have hf : b.state.finished ≠ true := by intro e; cases hst : b.state <;> rw [hst] at e hon <;> cases e <;> cases hon
  by_cases hp : b.port = some p <;> simp [Slot.portReset, Slot.arrayWork, hp, hq, hf, hon]

theorem State.QueueLaw.resetPort (h : s.QueueLaw) (p : Port) : (s.resetPort p).QueueLaw := by
  have hs := State.slot_map (s := s) (t := s.resetPort p) (g := Slot.portReset p) (by simp) rfl
  refine h.of_core (h.core.filter (p := fun n => (s.slot n).queuedWith fun b => b.port == some p)
    (by rw [State.resetPort_sched]) fun n => by rw [hs, Slot.portReset_queuedWork]) (by rw [State.resetPort_sched])
    fun n w _ hw => ?_
  rw [hs, Slot.portReset_arrayWork p hw]

theorem State.QueueLaw.cancelErase (h : s.QueueLaw) {n : Nat} (ha : s.sched.activity.slot = some n) :
    (s.cancelErase n).QueueLaw := h.finishes ha

theorem State.QueueLaw.queueWork (h : s.QueueLaw) {p : Port} {n : Nat} (hc : s.slotCheck p = .ok n) {w : Work}
    (hw : w.queues) (k : Nat) (ref : RegionRef) : (s.queueWork n p w k ref).QueueLaw := by
  obtain ⟨hl, hn⟩ := State.free_of_slotCheck hc
  exact (h.enqueue hl hn p hw (some k) ref).offer

/-- A control command that overrides handles where it was asked to, changes the directory and takes a slot. -/
theorem State.QueueLaw.overrides (h : s.QueueLaw) (hv : s.ServiceLaw) (hl : s.loaded = true) {n : Nat}
    (hn : (s.slot n).body = none) (o : Bool) (f : Port → HandleInfo → Bool) (d : Directory) (p : Port) (w : Work)
    (ref : RegionRef) :
    (State.waitDirectory { (if o then s.invalidate f else s) with dir := d } p w ref n).QueueLaw := by
  obtain ⟨ha, hb⟩ := s.invalidateIf_kept o f
  exact (h.invalidateIf o f).changes (fun k run hk => hv.no_format hl k run (ha ▸ hk)) (hb n hn) d p w ref

theorem State.QueueLaw.acceptShrink (h : s.QueueLaw) (hv : s.ServiceLaw) (hl : s.loaded = true) {n : Nat}
    (hn : (s.slot n).body = none) (p : Port) (ref : RegionRef) (k : Nat) (o : Bool) (r : Region) :
    (State.acceptShrink p ref k o r n s).QueueLaw := by
  unfold State.acceptShrink
  cases o with
  | false => exact h.changes (hv.no_format hl) hn _ p _ ref
  | true => exact (h.cancelQueued _ _).changes (hv.no_format hl) (State.slot_cancelQueued_free hn) _ p _ ref

theorem State.QueueLaw.acceptFix (h : s.QueueLaw) {p : Port} {n : Nat} (hc : s.slotCheck p = .ok n) (ref : RegionRef)
    (r : Region) : (State.acceptFix p ref r n s).QueueLaw := by
  obtain ⟨hl, hn⟩ := State.free_of_slotCheck hc
  exact (State.QueueLaw.enqueue (s := s.setFreeze ref.number .fixing) (h.setDir _) hl hn p (.inr (.inr rfl)) none
    ref).offer

theorem State.QueueLaw.abortErase (h : s.QueueLaw) {n : Nat} {run : EraseRun}
    (ha : s.sched.activity = .erase (.slot n) run) : (s.abortErase n run).QueueLaw := by
  unfold State.abortErase
  refine State.QueueLaw.cancelErase ?_ (by simp [ha]; rfl)
  exact h.of_slots rfl rfl rfl

theorem State.QueueLaw.request (h : s.QueueLaw) (hv : s.ServiceLaw) : RequestCases State.QueueLaw s where
  create p _ _ _ n hd _ _ _ hc := h.changes (hv.no_format (State.loaded_of_ready hd))
    (State.free_of_slotCheck hc).2 _ p _ _
  grow p ref _ _ n hd _ _ hc := h.changes (hv.no_format (State.loaded_of_ready hd))
    (State.free_of_slotCheck hc).2 _ p _ ref
  shrink p ref k o r n hd _ _ hc := h.acceptShrink hv (State.loaded_of_ready hd) (State.free_of_slotCheck hc).2 p ref k o r
  retire p ref o _ n hd _ _ hc := h.overrides hv (State.loaded_of_ready hd) (State.free_of_slotCheck hc).2 o _ _ p _ ref
  grant p ref _ o _ n hd _ _ hc := h.overrides hv (State.loaded_of_ready hd) (State.free_of_slotCheck hc).2 o _ _ p _ ref
  hold p ref o _ n hd _ _ hc := h.overrides hv (State.loaded_of_ready hd) (State.free_of_slotCheck hc).2 o _ _ p _ ref
  thaw p ref _ n hd _ hc := h.changes (hv.no_format (State.loaded_of_ready hd))
    (State.free_of_slotCheck hc).2 _ p _ ref
  fix p ref r n _ _ _ hc := h.acceptFix hc ref r
  format p n _ _ hc := h.acceptFormat (State.free_of_slotCheck hc).1 (State.free_of_slotCheck hc).2 p
  setHandle p _ _ _ := h.of_slots (by simp) (by simp) (by simp)
  queueWork n p w k ref _ hc hw := h.queueWork hc (hw.imp_right .inl) k ref
  readPath w _ := h.readPath w
  cancelWaiting p k b _ hb hq := h.cancelWaiting (State.body_of_resolve hb).1 hq
  abortErase n _ run _ _ _ ha := h.abortErase ha
  cancelErase n _ u _ _ _ ha := h.cancelErase (by rw [ha]; rfl)
  cancelScan run c _ ha := h.setActivity (by rw [ha]; rfl) fun w hw => by rw [ha] at hw; cases w <;> exact hw
  collect p k b _ hb hf := h.freeSlot (State.body_of_resolve hb).1 hf
  clearNotice p := h.of_slots (by simp) (by simp) (by simp)
  resetPort p _ := h.resetPort p

/-! ## Events -/

theorem State.QueueLaw.endProgram (h : s.QueueLaw) (r : ArrayEnd) : (s.endProgram r).QueueLaw := by
  unfold State.endProgram
  split
  · next n a ha =>
    have hn : s.sched.activity.slot = some n := by rw [ha]; rfl
    cases r with
    | success =>
      simp only
      refine State.QueueLaw.finishes (State.QueueLaw.mapSlot ?_ ?_) ?_
      · exact h.of_slots rfl rfl rfl
      · exact hn
      · exact hn
    | arrayFault =>
      simp only
      refine State.QueueLaw.finishes ?_ ?_
      · exact h.of_slots rfl rfl rfl
      · exact hn
  · exact h

theorem State.QueueLaw.slotUnitEnd (h : s.QueueLaw) {n : Nat} {run : EraseRun}
    (ha : s.sched.activity = .erase (.slot n) run) (u : Nat) (r : ArrayEnd) : (s.slotUnitEnd n u r).QueueLaw := by
  have hn : s.sched.activity.slot = some n := by rw [ha]; rfl
  have hd : (s.unitDone n).QueueLaw := h.mapSlot hn
  cases r with
  | arrayFault => exact h.finishes hn
  | success =>
    rw [State.slotUnitEnd_success]
    split
    · have ha' : (s.unitDone n).serveAll.sched.activity = .erase (.slot n) run := by simpa [State.unitDone] using ha
      exact hd.serveAll.setActivity (by rw [ha']; rfl) fun w hw => by rw [ha'] at hw; cases w <;> exact hw
    · exact hd.finishes hn

theorem State.QueueLaw.scrubUnitEnd (h : s.QueueLaw) (u : Nat) (r : ArrayEnd) : (s.scrubUnitEnd u r).QueueLaw := by
  unfold State.scrubUnitEnd
  split
  · exact h.core.freeArray
  · have hi : (s.setActivity .idle).QueueCore := h.core.of_slots rfl rfl
    exact ((hi.congr (State.scrubbed_sameWork _ _ _ _).toSameQueue).congr
      (State.removeComplete_sameWork _ _).toSameQueue).freeArray

theorem State.QueueLaw.formatUnitEnd (h : s.QueueLaw) {n : Nat} {run : EraseRun}
    (ha : s.sched.activity = .erase (.format n) run) (u : Nat) (r : ArrayEnd) : (s.formatUnitEnd n u r).QueueLaw := by
  obtain ⟨w, hw, hv⟩ := h.atWork n (by rw [ha]; rfl)
  rw [ha] at hv
  have hwork : w = .format := by cases w <;> first | rfl | exact hv.elim
  subst hwork
  have hpass {t : State} (k : Nat) (hs : t.slots = s.slots) (hq : t.sched.queue = s.sched.queue) :
      (State.formatPass n k (t.mapSlot n fun b => { b with progress := b.progress + 1 })).QueueLaw := by
    have hm (m : Nat) := t.mapSlot_same n (f := fun b => { b with progress := b.progress + 1 }) (by intro b; rfl)
      (by intro b; rfl) m
    refine State.QueueCore.formatPass n k ((h.core.of_slots hs hq).congr ⟨rfl, fun m => (hm m).1⟩) ((hm n).2.trans ?_)
    rw [State.slot_of_slots hs, hw]
  unfold State.formatUnitEnd
  simp only
  split
  · exact hpass _ rfl rfl
  · exact hpass _ rfl rfl

theorem State.QueueLaw.endErase (h : s.QueueLaw) (r : ArrayEnd) : (s.endErase r).QueueLaw := by
  unfold State.endErase
  split
  · next owner run ha =>
    have ht : (s.endPause.eraseContent run r).QueueLaw := h.endPause.of_slots (by simp) (by simp) (by simp)
    have ha' : (s.endPause.eraseContent run r).sched.activity = .erase owner run := by simpa using ha
    cases owner with
    | slot n => exact ht.slotUnitEnd ha' _ r
    | scrub => exact ht.scrubUnitEnd _ r
    | format n => exact ht.formatUnitEnd ha' _ r
  · exact h

theorem State.QueueLaw.fixMarked (h : s.QueueLaw) {n : Nat} (hn : s.sched.activity.slot = some n) :
    (s.fixMarked n).QueueLaw := by
  unfold State.fixMarked
  split
  · refine State.QueueLaw.finishes ?_ ?_
    · exact h.of_slots rfl rfl rfl
    · exact hn
  · have hw : (s.mapSlot n fun b => { b with state := .waitDir none }).QueueCore :=
      h.core.takes (s.mapSlot_takes n fun _ => nofun) (h.not_queued hn) rfl
    have hi : ((s.mapSlot n fun b => { b with state := .waitDir none }).setActivity .idle).QueueCore :=
      hw.of_slots rfl rfl
    exact (hi.congr (State.markDirty_sameWork _).toSameQueue).freeArray

theorem State.QueueLaw.fixFault (h : s.QueueLaw) {n : Nat} (hn : s.sched.activity.slot = some n) (region : Nat)
    (e : Extent) : (s.fixFault n region e).QueueLaw := by
  have ht : ((s.endSlot n (.doneFail .arrayFault)).setActivity .idle).QueueCore :=
    (h.endSlot hn (st := .doneFail .arrayFault)).of_slots rfl rfl
  have hf (l : Freeze) : (((s.endSlot n (.doneFail .arrayFault)).setActivity .idle).setFreeze region l).QueueCore :=
    ht.of_slots (by simp) (by simp)
  unfold State.fixFault
  simp only
  split
  · exact ((hf _).congr (State.markDirty_sameWork _).toSameQueue).freeArray
  · exact (hf _).freeArray

theorem State.QueueLaw.endMark (h : s.QueueLaw) (r : ArrayEnd) : (s.endMark r).QueueLaw := by
  unfold State.endMark
  split
  · next run ha =>
    have hn : s.sched.activity.slot = some run.slot := by rw [ha]; rfl
    cases r with
    | success =>
      have hm (x : ArrayState) :
          (State.mapSlot { s with array := x } run.slot fun b => { b with progress := b.progress + 1 }).QueueLaw := by
        refine State.QueueLaw.mapSlot ?_ ?_
        · exact h.of_slots rfl rfl rfl
        · exact hn
      simp only
      split
      · have ha' : s.sched.activity = .mark run := ha
        refine (hm _).serveAll.setActivity (by simp [ha']; rfl) fun w hw => ?_
        rw [State.serveAll_sched_activity, State.mapSlot_sched, ha'] at hw
        cases w <;> exact hw
      · exact (hm _).fixMarked hn
    | arrayFault =>
      simp only
      split
      · refine State.QueueLaw.fixFault ?_ ?_ _ _
        · exact h.of_slots rfl rfl rfl
        · exact hn
      · refine State.QueueLaw.fixFault ?_ ?_ _ _
        · exact h.of_slots rfl rfl rfl
        · exact hn
  · exact h

theorem State.QueueLaw.answerCancel (h : s.QueueCore) (c : Option (Port × Byte)) (st : Status) (x : SlotState) :
    (s.answerCancel c st x).QueueCore := h.of_slots (by simp) (by simp)

theorem State.QueueLaw.verifyDone (h : s.QueueLaw) {run : ScanRun} (hn : s.sched.activity.slot = some run.slot)
    (v : Word) : (s.verifyDone run v).QueueLaw := by
  unfold State.verifyDone
  simp only
  refine State.QueueCore.freeArray (State.QueueLaw.answerCancel ?_ _ _ _)
  refine State.QueueLaw.endSlot (State.QueueLaw.mapSlot h hn) ?_
  exact hn

theorem State.QueueLaw.verifyCancelled (h : s.QueueLaw) {run : ScanRun} (hn : s.sched.activity.slot = some run.slot) :
    (s.verifyCancelled run).QueueLaw :=
  State.QueueCore.freeArray (State.QueueLaw.answerCancel (h.endSlot hn) _ _ _)

/-- A FIX whose scan is over begins its marks (R78, R79). -/
theorem State.QueueLaw.beginMarks (h : s.QueueLaw) {run : ScanRun} (ha : s.sched.activity = .scan run)
    (hf : s.slotWork run.slot = some .fix) (v : Word) : (s.beginMarks run v).QueueLaw := by
  have hn : s.sched.activity.slot = some run.slot := by rw [ha]; rfl
  obtain ⟨w, hw, -⟩ := h.atWork _ hn
  have hwf : w = .fix := by
    obtain ⟨b, hb, -, rfl⟩ := Slot.arrayWork_eq_some.1 hw
    unfold State.slotWork at hf
    rw [hb] at hf
    exact Option.some.inj hf
  subst hwf
  have hm (m : Nat) := s.mapSlot_same run.slot (f := fun b => { b with value := some v }) (by intro b; rfl)
    (by intro b; rfl) m
  refine State.queueLaw_iff.2 ⟨?_, fun n hn' => ?_⟩
  · refine (h.mapSlot hn (f := fun b => { b with value := some v })).core.of_slots ?_ ?_
    · simp [State.beginMarks]
    · simp [State.beginMarks]
  · cases hn'
    refine ⟨.fix, ?_, trivial⟩
    rw [State.slot_of_slots (s := s.mapSlot run.slot fun b => { b with value := some v }) (by simp [State.beginMarks])]
    exact (hm _).2.trans hw

theorem State.slotWork_mapSlot (s : State) (n : Nat) {f : SlotBody → SlotBody}
    (hw : ∀ b, (f b).work = b.work := by intro b; rfl) (m : Nat) : (s.mapSlot n f).slotWork m = s.slotWork m := by
  unfold State.slotWork
  by_cases hn : n < s.slots.length
  · rw [State.slot_modify (s := s) (t := s.mapSlot n f) rfl hn]
    split
    · cases (s.slot m).body <;> simp [hw]
    · rfl
  · rw [State.slot_of_slots (s := s) (modify_of_le _ _ _ (Nat.le_of_not_lt hn))]

theorem State.QueueLaw.endScan (h : s.QueueLaw) : s.endScan.QueueLaw := by
  unfold State.endScan
  split
  · next run ha =>
    have hn : s.sched.activity.slot = some run.slot := by rw [ha]; rfl
    have hd : (s.unitDone run.slot).QueueLaw := h.mapSlot hn
    have ha' : (s.unitDone run.slot).sched.activity = .scan run := ha
    simp only
    split
    · split
      · exact hd.verifyCancelled hn
      · refine hd.serveAll.setActivity (by rw [State.serveAll_sched_activity, ha']; rfl) fun w hw => ?_
        rw [State.serveAll_sched_activity, ha'] at hw
        cases w <;> exact hw
    · split
      · next hf => exact hd.beginMarks ha' ((s.slotWork_mapSlot run.slot (m := run.slot)).trans hf) _
      · exact hd.verifyDone hn _
  · exact h

theorem State.QueueLaw.endSlice (h : s.QueueLaw) : s.endSlice.QueueLaw := by
  unfold State.endSlice
  split
  · next owner run ha =>
    have hset (r : EraseRun) : (s.endPause.setActivity (.erase owner r)).QueueLaw :=
      h.endPause.setActivity (by rw [ha]; cases owner <;> rfl) fun w hw => by
        rw [ha] at hw; exact Activity.serves_erase hw
    simp only
    split
    · exact hset _
    · exact (hset _).askSuspend rfl _
  · exact h

theorem State.QueueLaw.writeCompletes (h : s.QueueLaw) (hv : s.ServiceLaw) : s.writeCompletes.QueueLaw := by
  unfold State.writeCompletes
  split
  · next job hw =>
    have hf (n : Nat) (run : EraseRun) : s.sched.activity ≠ .erase (.format n) run := fun ha =>
      (hv.pass n run ha).2.1 job hw
    split
    · exact h.congr (s.completeFormat_sameWork job) hf
    · exact State.QueueLaw.offer (h.congr ((s.completeWrite_sameWork job).trans (State.kick_sameWork _)) hf)
  · exact h

theorem State.QueueLaw.attemptFails (h : s.QueueLaw) (hv : s.ServiceLaw) : s.attemptFails.QueueLaw := by
  unfold State.attemptFails
  split
  · next job hw => exact h.congr (s.failAttempt_sameWork job) fun n run ha => (hv.pass n run ha).2.1 job hw
  · exact h

theorem slot_blank_of_table (h : t.slots = emptyTable) (n : Nat) : t.slot n = Slot.blank := by
  unfold State.slot
  rw [h, List.getD_eq_getElem?_getD, List.getElem?_replicate]
  split <;> rfl

/-- Empty tables: no slot is QUEUED and none at work. -/
theorem State.queueLaw_of_empty (hs : t.slots = emptyTable) (hq : t.sched = .empty) : t.QueueLaw := by
  refine State.QueueCore.of_idle ⟨?_, fun n => ?_, fun n w hw => ?_⟩ (by rw [hq])
  · rw [hq]; exact List.nodup_nil
  · rw [hq, slot_blank_of_table hs]
    exact ⟨nofun, fun ⟨w, hw⟩ => nomatch hw⟩
  · rw [slot_blank_of_table hs] at hw; cases hw

theorem State.QueueLaw.enterReset (h : s.QueueLaw) : s.enterReset.QueueLaw := by
  unfold State.enterReset
  split
  · exact h
  · exact State.queueLaw_of_empty rfl rfl

theorem State.QueueLaw.leaveReset (h : s.QueueLaw) : s.leaveReset.QueueLaw := by
  unfold State.leaveReset
  split
  · exact h.of_slots rfl rfl rfl
  · exact h

theorem State.startup_queueLaw (s : State) : s.startup.QueueLaw := by
  have hserve (d : Directory) (c : Option CopyId) (q : Word) : (s.initialise.enterService d c q).QueueLaw := by
    unfold State.enterService
    simp only
    refine State.QueueLaw.offer (State.QueueLaw.congr ?_ (State.kick_sameWork _) nofun)
    exact State.queueLaw_of_empty rfl rfl
  unfold State.startup
  split
  · exact hserve _ _ _
  · exact hserve _ _ _
  · exact State.queueLaw_of_empty rfl rfl

theorem State.QueueLaw.event (h : s.QueueLaw) (hv : s.ServiceLaw) (c : Instr) : EventCases State.QueueLaw c s where
  select _ _ _ _ := h.of_slots (by simp) (by simp) (by simp)
  programEnd r := h.endProgram r
  eraseEnd r _ := h.endErase r
  markWriteEnd r := h.endMark r
  scanStepEnd := h.endScan
  runSliceExpiry := h.endSlice
  writeCompletes := h.writeCompletes hv
  attemptFails := h.attemptFails hv
  resetAssert _ := h.enterReset.of_slots rfl rfl rfl
  powerLoss _ := h.enterReset.of_slots rfl rfl rfl
  resetRelease _ := State.QueueLaw.leaveReset (h.of_slots rfl rfl rfl)
  powerGood _ := State.QueueLaw.leaveReset (h.of_slots rfl rfl rfl)
  startup _ := s.startup_queueLaw

end

/-- Settles O58: a slot that changes joins or leaves the queue with the change, or is the one the array works for. -/
theorem stepsKeepTheQueue : Obligations.StepsKeepTheQueue := fun s _ hv h hs => by
  have hl (l : List Instr) : State.QueueLaw { s with pending := l } := h.of_slots rfl rfl rfl
  have hvl (l : List Instr) : State.ServiceLaw { s with pending := l } := State.ServiceLaw.setPending hv l
  exact step_induct State.queueLaw_reframe hl (fun l => (hl l).request (hvl l)) (fun c l _ => (hl l).event (hvl l) c)
    h.background hs

end Sys2Proof.Machine
end

section
/-! PROOFS. The step and the reset state: what a command leaves of the queue of commands and the two lines (logs 1, 24),
and the laws at reset. -/

set_option Elab.async false

namespace Sys2Proof.Machine

/-- Settles O1: a step with a command at the front is that command on the queue's rest. -/
theorem stepRunsTheFrontCommand : Obligations.StepRunsTheFrontCommand := fun c rest s => step_cons c rest s

/-! ## The queue of commands and the two lines -/

/-- The queue of commands and the two lines are as they were. -/
structure State.SameLines (s t : State) : Prop where
  pending : t.pending = s.pending
  reset : t.resetAsserted = s.resetAsserted
  power : t.powerGood = s.powerGood

section
variable (s : State)

theorem State.SameLines.reframe : ReframeClosed s.SameLines := fun _ _ _ _ h =>
  ⟨by simp [h.pending], by simp [h.reset], by simp [h.power]⟩

theorem State.invalidateIf_lines (o : Bool) (f : Port → HandleInfo → Bool) :
    s.SameLines (if o then s.invalidate f else s) := by
  cases o <;> exact ⟨rfl, rfl, rfl⟩

theorem State.SameLines.waits {s t : State} (h : s.SameLines t) (d : Directory) (p : Port) (w : Work) (ref : RegionRef)
    (n : Nat) : s.SameLines (State.waitDirectory { t with dir := d } p w ref n) :=
  ⟨by simp [State.waitDirectory, h.pending], by simp [State.waitDirectory, h.reset],
    by simp [State.waitDirectory, h.power]⟩

theorem State.acceptShrink_lines (p : Port) (ref : RegionRef) (k : Nat) (o : Bool) (r : Region) (n : Nat) :
    s.SameLines (State.acceptShrink p ref k o r n s) := by
  unfold State.acceptShrink
  cases o
  · exact State.SameLines.waits (t := s) ⟨rfl, rfl, rfl⟩ _ p _ ref n
  · have h : s.SameLines (s.cancelQueued (fun b => b.touchesTail ref k) .stale) := ⟨rfl, rfl, rfl⟩
    exact h.waits _ p _ ref n

theorem State.offer_lines {s t : State} (h : s.SameLines t) : s.SameLines t.offer :=
  ⟨by simp [h.pending], by simp [h.reset], by simp [h.power]⟩

theorem State.askSuspend_lines {s t : State} (h : s.SameLines t) (o : EraseOwner) (run : EraseRun) :
    s.SameLines (t.askSuspend o run) := ⟨by simp [h.pending], by simp [h.reset], by simp [h.power]⟩

theorem State.readPath_lines (w : ReadWait) : s.SameLines (s.readPath w).1 := by
  have hw : s.SameLines (s.await w) := ⟨rfl, rfl, rfl⟩
  unfold State.readPath
  split
  · exact ⟨rfl, rfl, rfl⟩
  · exact hw
  · exact hw
  · exact hw
  · exact hw
  · split
    · exact ⟨rfl, rfl, rfl⟩
    · split
      · exact hw
      · split
        · exact ⟨rfl, rfl, rfl⟩
        · split
          · exact State.askSuspend_lines hw _ _
          · exact hw

theorem State.cancelWaiting_lines (n : Nat) (b : SlotBody) : s.SameLines (s.cancelWaiting n b) := by
  unfold State.cancelWaiting
  simp only
  split <;> exact ⟨by simp, by simp, by simp⟩

theorem State.cancelErase_lines (n : Nat) : s.SameLines (s.cancelErase n) :=
  ⟨by simp [State.cancelErase], by simp [State.cancelErase], by simp [State.cancelErase]⟩

theorem State.abortErase_lines (n : Nat) (run : EraseRun) : s.SameLines (s.abortErase n run) :=
  ⟨by simp [State.abortErase, State.cancelErase], by simp [State.abortErase, State.cancelErase],
    by simp [State.abortErase, State.cancelErase]⟩

theorem State.acceptFormat_lines (p : Port) (n : Nat) : s.SameLines (s.acceptFormat p n) :=
  ⟨by simp [State.acceptFormat], by simp [State.acceptFormat], by simp [State.acceptFormat]⟩

theorem State.requests_keepLines : RequestCases s.SameLines s where
  create p _ _ _ n _ _ _ _ _ := State.SameLines.waits (t := s) ⟨rfl, rfl, rfl⟩ _ p _ _ n
  grow p ref _ _ n _ _ _ _ := State.SameLines.waits (t := s) ⟨rfl, rfl, rfl⟩ _ p _ ref n
  shrink p ref k o r n _ _ _ _ := s.acceptShrink_lines p ref k o r n
  retire p ref o _ n _ _ _ _ := (s.invalidateIf_lines o _).waits _ p _ ref n
  grant p ref _ o _ n _ _ _ _ := (s.invalidateIf_lines o _).waits _ p _ ref n
  hold p ref o _ n _ _ _ _ := (s.invalidateIf_lines o _).waits _ p _ ref n
  thaw p ref _ n _ _ _ := State.SameLines.waits (t := s) ⟨rfl, rfl, rfl⟩ _ p _ ref n
  fix p ref r n _ _ _ _ := State.offer_lines ⟨rfl, rfl, rfl⟩
  format p n _ _ _ := s.acceptFormat_lines p n
  setHandle p h x _ := ⟨by simp, by simp, by simp⟩
  queueWork n p w h ref _ _ _ := State.offer_lines ⟨rfl, rfl, rfl⟩
  readPath w _ := s.readPath_lines w
  cancelWaiting p k b _ _ _ := s.cancelWaiting_lines _ b
  abortErase n _ run _ _ _ _ := s.abortErase_lines n run
  cancelErase n _ _ _ _ _ _ := s.cancelErase_lines n
  cancelScan run c _ _ := ⟨rfl, rfl, rfl⟩
  collect p k b _ _ _ := ⟨rfl, rfl, rfl⟩
  clearNotice p := ⟨by simp, by simp, by simp⟩
  resetPort p _ := ⟨by simp, by simp, by simp⟩

/-- The queue is as it was, and each line but where its own events move it. -/
structure State.LinesAfter (c : Instr) (t : State) : Prop where
  pending : t.pending = s.pending
  reset : c ≠ .resetAssert → c ≠ .resetRelease → t.resetAsserted = s.resetAsserted
  power : c ≠ .powerLoss → c ≠ .powerGood → t.powerGood = s.powerGood

theorem State.SameLines.linesAfter {s t : State} (h : s.SameLines t) (c : Instr) : s.LinesAfter c t :=
  ⟨h.pending, fun _ _ => h.reset, fun _ _ => h.power⟩

/-- Abandoned array work changes the array and draws free values (R9, R13, R15). -/
theorem State.cutWork_eq : s.cutWork = { s with array := s.cutWork.array, draws := s.cutWork.draws } := by
  unfold State.cutWork
  split
  · rfl
  · rfl
  · rfl
  · rfl
  · rfl
  · simp only; split <;> rfl

/-- A write in flight leaves its remains in the copy it went to (R38). -/
theorem State.cutWrite_eq : s.cutWrite = { s with store := s.cutWrite.store, draws := s.cutWrite.draws } := by
  unfold State.cutWrite
  split <;> rfl

theorem State.enterReset_lines : s.SameLines s.enterReset := by
  unfold State.enterReset
  split
  · exact ⟨rfl, rfl, rfl⟩
  · rw [State.cutWrite_eq, State.cutWork_eq]
    exact ⟨rfl, rfl, rfl⟩

theorem State.leaveReset_lines : s.SameLines s.leaveReset := by
  unfold State.leaveReset
  split <;> exact ⟨rfl, rfl, rfl⟩

theorem State.startup_lines : s.SameLines s.startup := by
  have hserve (d : Directory) (c : Option CopyId) (q : Word) : s.SameLines (s.initialise.enterService d c q) := by
    unfold State.enterService
    exact State.offer_lines ⟨by simp; rfl, by simp; rfl, by simp; rfl⟩
  unfold State.startup
  split
  · exact hserve _ _ _
  · exact hserve _ _ _
  · exact ⟨rfl, rfl, rfl⟩

theorem State.events_keepLines (c : Instr) : EventCases (s.LinesAfter c) c s where
  select _ _ _ _ := State.SameLines.linesAfter ⟨by simp, by simp, by simp⟩ c
  programEnd _ := State.SameLines.linesAfter ⟨by simp, by simp, by simp⟩ c
  eraseEnd _ _ := State.SameLines.linesAfter ⟨by simp, by simp, by simp⟩ c
  markWriteEnd _ := State.SameLines.linesAfter ⟨by simp, by simp, by simp⟩ c
  scanStepEnd := State.SameLines.linesAfter ⟨by simp, by simp, by simp⟩ c
  runSliceExpiry := State.SameLines.linesAfter ⟨by simp, by simp, by simp⟩ c
  writeCompletes := State.SameLines.linesAfter ⟨by simp, by simp, by simp⟩ c
  attemptFails := State.SameLines.linesAfter ⟨by simp, by simp, by simp⟩ c
  resetAssert hc := ⟨s.enterReset_lines.pending, fun h => absurd hc h, fun _ _ => s.enterReset_lines.power⟩
  powerLoss hc := ⟨s.enterReset_lines.pending, fun _ _ => s.enterReset_lines.reset, fun h => absurd hc h⟩
  resetRelease hc := ⟨(State.leaveReset_lines _).pending, fun _ h => absurd hc h, fun _ _ =>
    (State.leaveReset_lines _).power⟩
  powerGood hc := ⟨(State.leaveReset_lines _).pending, fun _ _ => (State.leaveReset_lines _).reset, fun _ h =>
    absurd hc h⟩
  startup _ := s.startup_lines.linesAfter c

theorem State.LinesAfter.reframe (c : Instr) : ReframeClosed (s.LinesAfter c) := fun _ _ _ _ h =>
  ⟨by simp [h.pending], fun h1 h2 => by simp [h.reset h1 h2], fun h1 h2 => by simp [h.power h1 h2]⟩

end

theorem RequestCases.imp {P Q : State → Prop} {s : State} (h : RequestCases P s) (hi : ∀ t, P t → Q t) :
    RequestCases Q s where
  create p a r f n h1 h2 h3 h4 h5 := hi _ (h.create p a r f n h1 h2 h3 h4 h5)
  grow p ref k r n h1 h2 h3 h4 := hi _ (h.grow p ref k r n h1 h2 h3 h4)
  shrink p ref k o r n h1 h2 h3 h4 := hi _ (h.shrink p ref k o r n h1 h2 h3 h4)
  retire p ref o r n h1 h2 h3 h4 := hi _ (h.retire p ref o r n h1 h2 h3 h4)
  grant p ref v o r n h1 h2 h3 h4 := hi _ (h.grant p ref v o r n h1 h2 h3 h4)
  hold p ref o r n h1 h2 h3 h4 := hi _ (h.hold p ref o r n h1 h2 h3 h4)
  thaw p ref r n h1 h2 h3 := hi _ (h.thaw p ref r n h1 h2 h3)
  fix p ref r n h1 h2 h3 h4 := hi _ (h.fix p ref r n h1 h2 h3 h4)
  format p n h1 h2 h3 := hi _ (h.format p n h1 h2 h3)
  setHandle p k x h1 := hi _ (h.setHandle p k x h1)
  queueWork n p w k ref h1 h2 h3 := hi _ (h.queueWork n p w k ref h1 h2 h3)
  readPath w h1 := hi _ (h.readPath w h1)
  cancelWaiting p k b h1 h2 h3 := hi _ (h.cancelWaiting p k b h1 h2 h3)
  abortErase n b run h1 h2 h3 h4 := hi _ (h.abortErase n b run h1 h2 h3 h4)
  cancelErase n b u h1 h2 h3 h4 := hi _ (h.cancelErase n b u h1 h2 h3 h4)
  cancelScan run c h1 h2 := hi _ (h.cancelScan run c h1 h2)
  collect p k b h1 h2 h3 := hi _ (h.collect p k b h1 h2 h3)
  clearNotice p := hi _ (h.clearNotice p)
  resetPort p h1 := hi _ (h.resetPort p h1)

/-- Settles O2: every arm answers a next state, and what it does is one of the changes that keep queue and lines. -/
theorem everyCommandAnswers : Obligations.EveryCommandAnswers := by
  intro c s
  have hreq : RequestCases (s.LinesAfter c) s := s.requests_keepLines.imp fun _ h => h.linesAfter c
  have h : s.LinesAfter c (after c s) := (s.events_keepLines c).after hreq (State.LinesAfter.reframe s c)
    (State.SameLines.linesAfter ⟨rfl, rfl, rfl⟩ c)
  exact ⟨after c s, exec_eq_next c s, h.pending, h.reset, h.power⟩

/-! ## The laws at reset -/

theorem State.reset_handle (p : Port) (k : Nat) (i : HandleInfo) : State.reset.handle p k ≠ .opened i :=
  State.not_opened_of_closedTable (by cases p <;> rfl) k i

theorem State.reset_holds (i : Image) : ¬ State.reset.store.Holds i := by
  rintro (h | h | ⟨job, h, -⟩) <;> cases h

theorem State.reset_record (n : Nat) : State.reset.dir.record n = Record.blank :=
  Directory.record_replicate n _ _ _

theorem State.reset_arrayLaw : State.reset.ArrayLaw where
  data := rfl
  headers := rfl
  map := rfl
  quiet _ := ⟨rfl, rfl⟩
  agrees := nofun
  limit _ := Nat.zero_le _
  started := nofun

theorem State.reset_tableLaw : State.reset.TableLaw where
  records := rfl
  scrub := Nat.zero_le _
  images i h := absurd h (State.reset_holds i)
  handles p := by cases p <;> rfl
  slots := rfl
  quota p := by cases p <;> decide

theorem State.reset_serviceLaw : State.reset.ServiceLaw where
  pass := nofun
  work _ := .inl rfl
  writes := nofun
  closed _ := State.reset_handle
  calm _ := ⟨rfl, rfl⟩
  fresh p _ := by cases p <;> rfl

theorem State.reset_nameLaw : State.reset.NameLaw where
  working m n x h := by rw [State.reset_record] at h; cases h
  images i h := absurd h (State.reset_holds i)

theorem State.reset_placeLaw : State.reset.PlaceLaw where
  working := by
    refine ⟨fun m n e f u h => ?_, nofun, fun n e u h => ?_, fun n e h => ?_, nofun, nofun⟩
    all_goals rw [State.reset_record] at h; cases h
  images i h := absurd h (State.reset_holds i)
  erasing := nofun
  formatted := nofun

theorem State.reset_storeLaw : State.reset.StoreLaw where
  checked i h := absurd h (State.reset_holds i)
  current := nofun
  newest := nofun
  empty _ := rfl
  apart := nofun
  target := nofun
  number := nofun
  unloaded h := by rcases h with h | h <;> cases h

/-- Settles O50: at reset every table is empty and no copy holds an image. -/
theorem resetKeepsTheLaws : Obligations.ResetKeepsTheLaws :=
  ⟨State.reset_arrayLaw, State.reset_tableLaw, State.reset_serviceLaw, State.idleLaw_of_not_loaded rfl,
    fun p h i _ _ _ hi => absurd hi (State.reset_handle p h i), fun p h i hi => absurd hi (State.reset_handle p h i),
    State.reset_nameLaw, State.reset_placeLaw, State.queueLaw_of_empty rfl rfl, State.reset_storeLaw⟩

end Sys2Proof.Machine
end

section
/-! PROOFS. Frames (R145 to R148, R158): a request's frame decodes to the request, the CRC-8 tells messages apart that
differ in one byte, and faulty frames are answered without a trace. -/

set_option Elab.async false

namespace Sys2Proof

/-! ## CRC-8 -/

/-- The remainder before a shift, from the one after it. -/
def crc8Unshift (r : Byte) : Byte := if r.getLsbD 0 then ((r ^^^ 0x07) >>> 1) ||| 0x80 else r >>> 1

theorem crc8Unshift_shift : ∀ r : Byte, crc8Unshift (crc8Shift r) = r := by decide

theorem crc8Shift_injective : Function.Injective crc8Shift := Function.LeftInverse.injective crc8Unshift_shift

/-- Eight shifts lose nothing of the remainder. -/
theorem crc8Byte_inj {r q b c : Byte} : crc8Byte r b = crc8Byte q c ↔ r ^^^ b = q ^^^ c := by
  unfold crc8Byte
  simp only [crc8Shift_injective.eq_iff]

theorem foldl_crc8Byte_inj (post : List Byte) : ∀ {r q : Byte},
    post.foldl crc8Byte r = post.foldl crc8Byte q → r = q := by
  induction post with
  | nil => exact id
  | cons b rest ih => exact fun h => BitVec.xor_left_inj b |>.1 (crc8Byte_inj.1 (ih h))

/-! ## Fields -/

theorem half_be16 (v : Half) : half (v.extractLsb' 8 8) (v.extractLsb' 0 8) = v :=
  BitVec.extractLsb'_append_extractLsb' (w := 8) (len := 8)

theorem word_be32 (v : Word) :
    word (v.extractLsb' 24 8) (v.extractLsb' 16 8) (v.extractLsb' 8 8) (v.extractLsb' 0 8) = v := by
  have hhi : v.extractLsb' 24 8 ++ v.extractLsb' 16 8 = v.extractLsb' 16 (8 + 8) :=
    BitVec.extractLsb'_append_extractLsb'_eq_extractLsb' rfl
  have hlo : v.extractLsb' 8 8 ++ v.extractLsb' 0 8 = v.extractLsb' 0 (8 + 8) :=
    BitVec.extractLsb'_append_extractLsb'_eq_extractLsb' rfl
  unfold word
  rw [hhi, hlo]
  exact BitVec.extractLsb'_append_extractLsb' (w := 16) (len := 16)

theorem Cmd.ofCode_code (c : Cmd) : Cmd.ofCode c.code = some c := by cases c <;> rfl

/-! ## The decoder -/

section
variable {p : Port} {code tag crc : Byte} {params extra : List Byte}

/-- The bytes of a request frame before its CRC byte (R145). -/
def frameHead (code tag : Byte) (params : List Byte) : List Byte :=
  code :: tag :: be16 (BitVec.ofNat 16 params.length) ++ params

/-- What the decoder says of a complete frame whose CRC byte agrees (R148 steps 2 and 4). -/
def checkedVerdict (p : Port) (code tag : Byte) (params : List Byte) : Verdict :=
  match Cmd.ofCode code with
  | none => .unknownCode code tag params
  | some cmd =>
    if keptParams < params.length then .badLength cmd tag
    else
      match decodeParams p tag cmd params with
      | some i => .request i
      | none => .badLength cmd tag

theorem decodeFrame_head (h : params.length ≤ 65535) : decodeFrame p (frameHead code tag params ++ crc :: extra) =
    if crc8 (frameHead code tag params) = crc then checkedVerdict p code tag params else .badCrc tag := by
  have hn : (BitVec.ofNat 16 params.length).toNat = params.length := by
    rw [BitVec.toNat_ofNat]
    exact Nat.mod_eq_of_lt (by omega)
  have hlen : ¬ (params ++ crc :: extra).length < params.length + 1 := by simp
  unfold frameHead checkedVerdict
  simp only [be16, List.cons_append, List.nil_append, decodeFrame, half_be16, hn, if_neg hlen, List.take_left]
  simp <;> rfl

theorem decodeFrame_badCrc (h : params.length ≤ 65535) (hc : crc ≠ crc8 (frameHead code tag params)) :
    decodeFrame p (frameHead code tag params ++ crc :: extra) = .badCrc tag := by
  rw [decodeFrame_head h, if_neg hc.symm]

theorem decodeFrame_checked {cmd : Cmd} {i : Instr} (h : params.length ≤ 517)
    (hd : decodeParams p tag cmd params = some i) :
    decodeFrame p (frameBytes cmd.code tag params ++ extra) = .request i := by
  have hf : frameBytes cmd.code tag params ++ extra =
      frameHead cmd.code tag params ++ crc8 (frameHead cmd.code tag params) :: extra :=
    List.append_assoc _ _ _
  rw [hf, decodeFrame_head (by omega), if_pos rfl, checkedVerdict, Cmd.ofCode_code]
  simp only
  rw [if_neg (by unfold keptParams; omega), hd]

end

/-- A 1-byte length field that a name fits. -/
theorem nameLength_toNat {name : List Byte} (h : nameFieldFits name = true) :
    (BitVec.ofNat 8 name.length).toNat = name.length := by
  have hl : name.length ≤ 255 := of_decide_eq_true h
  rw [BitVec.toNat_ofNat]
  exact Nat.mod_eq_of_lt (by omega)

/-- The parameter fields of a well-formed request are read back, and fit what a port keeps (R145, R148 step 4, R158). -/
theorem decodeParams_request {i : Instr} {p : Port} {tag : Byte} {cmd : Cmd} {params : List Byte}
    (hw : i.wellFormed = true) (hr : i.request = some (p, tag, cmd, params)) :
    params.length ≤ 517 ∧ decodeParams p tag cmd params = some i := by
  have hname {name : List Byte} (h : nameFieldFits name = true) : name.length ≤ 255 := of_decide_eq_true h
  have hread {name : List Byte} (h : nameFieldFits name = true) (x : Instr) :
      (if name.length = (BitVec.ofNat 8 name.length).toNat then some x else none) = some x := by
    rw [nameLength_toNat h]; exact if_pos rfl
  cases i with
  | lookup q t name =>
    cases hr
    exact ⟨by have := hname hw; simp only [List.length_cons]; omega, hread hw _⟩
  | create q t rights placement first count name =>
    cases hr
    refine ⟨by have := hname hw; simp [be16]; omega, ?_⟩
    show (if _ then some (Instr.create p tag rights placement (half _ _) (half _ _) name) else none) = _
    rw [half_be16, half_be16]
    exact hread hw _
  | openHandle q t m sel =>
    cases sel with
    | byName name =>
      cases hr
      exact ⟨by have := hname hw; simp only [List.length_cons]; omega, hread hw _⟩
    | byReference r g => cases hr; exact ⟨by simp, rfl⟩
    | other sel rest =>
      obtain ⟨h0, h1, hl⟩ := of_decide_eq_true hw
      cases hr
      refine ⟨by simp only [List.length_cons]; exact hl, ?_⟩
      show (if sel = 0 then _ else if sel = 1 then _ else some (Instr.openHandle p tag m (.other sel rest))) = _
      rw [if_neg h0, if_neg h1]
  | program q t h o d =>
    have hl : d.length + 5 ≤ 517 := of_decide_eq_true hw
    cases hr
    refine ⟨by simp [be32]; omega, ?_⟩
    show some (Instr.program p tag h (word _ _ _ _) d) = _
    rw [word_be32]
  | read q t h o n =>
    cases hr
    refine ⟨by simp [be16, be32], ?_⟩
    show some (Instr.read p tag h (word _ _ _ _) (half _ _)) = _
    rw [word_be32, half_be16]
  | unitInfo q t u =>
    cases hr
    refine ⟨by simp [be16], ?_⟩
    show some (Instr.unitInfo p tag (half _ _)) = _
    rw [half_be16]
  | grow q t r g n =>
    cases hr
    refine ⟨by simp [be16], ?_⟩
    show some (Instr.grow p tag r g (half _ _)) = _
    rw [half_be16]
  | shrink q t r g n o =>
    cases hr
    refine ⟨by simp [be16], ?_⟩
    show some (Instr.shrink p tag r g (half _ _) o) = _
    rw [half_be16]
  | erase q t h u n =>
    cases hr
    refine ⟨by simp [be16], ?_⟩
    show some (Instr.erase p tag h (half _ _) (half _ _)) = _
    rw [half_be16, half_be16]
  | identify | status | portReset | list | readRecord | retire | grant | hold | thaw | fix | verify | format | close
  | query | cancel | collect => cases hr; exact ⟨by simp, rfl⟩
  | _ => cases hr

/-- Settles O3: check, length and fields of the frame are those the encoder wrote. -/
theorem requestFramesDecode : Obligations.RequestFramesDecode := by
  intro i p tag cmd params extra hw hr
  obtain ⟨hl, hd⟩ := decodeParams_request hw hr
  exact ⟨by rw [requestFrame, hr]; rfl, decodeFrame_checked hl hd⟩

/-- Settles O4: from the byte that differs on, the two remainders differ. -/
theorem crcDetectsAChangedByte : Obligations.CrcDetectsAChangedByte := by
  intro pre post b c hne h
  unfold crc8 at h
  rw [List.foldl_append, List.foldl_append] at h
  exact hne ((BitVec.xor_right_inj _).1 (crc8Byte_inj.1 (foldl_crc8Byte_inj post h)))

/-- A code outside the table stands for no command. -/
theorem Cmd.ofCode_none {code : Byte} (h : code ∉ [(0x01 : Byte), 0x02, 0x03, 0x04, 0x10, 0x11, 0x12, 0x13, 0x14, 0x15,
    0x16, 0x17, 0x18, 0x19, 0x1A, 0x1B, 0x1F, 0x20, 0x21, 0x30, 0x31, 0x32, 0x40, 0x41, 0x42]) :
    Cmd.ofCode code = none := by
  have hall : Cmd.all.map Cmd.code = [0x01, 0x02, 0x03, 0x04, 0x10, 0x11, 0x12, 0x13, 0x14, 0x15, 0x16, 0x17, 0x18,
    0x19, 0x1A, 0x1B, 0x1F, 0x20, 0x21, 0x30, 0x31, 0x32, 0x40, 0x41, 0x42] := rfl
  rw [← hall] at h
  refine List.find?_eq_none.2 fun k hk he => h (List.mem_map.2 ⟨k, hk, beq_iff_eq.1 he⟩)

namespace Machine

theorem exec_frameError_badCrc {s : State} {p : Port} {tag : Byte} {frame : List Byte} (h : s.Listens p)
    (hd : decodeFrame p frame = .badCrc tag) :
    exec (.frameError p frame) s = .next (s.delivered p ⟨.frameError, tag, false, s.attention p, false, []⟩) := by
  simp only [exec, execFrameError, hd, h.arrive, takeFrameError, State.answerFrame_eq]

theorem exec_frameError_badLength {s : State} {p : Port} {tag : Byte} {cmd : Cmd} {frame : List Byte}
    (h : s.Receives p cmd tag) (hd : decodeFrame p frame = .badLength cmd tag) :
    exec (.frameError p frame) s = .next (s.delivered p ⟨.frameError, tag, false, s.attention p, false, []⟩) := by
  simp only [exec, execFrameError, hd, h.toListens.arrive, takeFrameError, h.replay, State.answerFrame_eq]

theorem exec_unknownCommand {s : State} {p : Port} {code : Byte} (h : s.Listens p) (hc : Cmd.ofCode code = none)
    (tag : Byte) (params : List Byte) : exec (.unknownCommand p code tag params) s =
      .next (s.delivered p ⟨.unknownCommand, tag, false, s.attention p, false, []⟩) := by
  simp only [exec, execUnknownCommand, hc, h.arrive, takeUnknown, State.answerFrame_eq]

end Machine

/-- Settles O5: each faulty frame is answered from its own verdict. -/
theorem faultyFramesAreAnswered : Obligations.FaultyFramesAreAnswered :=
  ⟨fun _ _ _ _ _ _ _ h hl hc => Machine.exec_frameError_badCrc h (decodeFrame_badCrc hl hc),
    fun _ _ _ _ _ h hd => Machine.exec_frameError_badLength h hd,
    fun _ _ _ tag params h hc => Machine.exec_unknownCommand h (Cmd.ofCode_none hc) tag params⟩

end Sys2Proof
end

section
/-! PROOFS. What a block decides does not depend on its port's framing state (R149), and a refusal changes nothing
(R51, R105). -/

set_option Elab.async false

namespace Sys2Proof.Machine

/-! ## A port with another framing state -/

/-- The state with a port's framing state replaced. -/
def State.reframe (s : State) (p : Port) (x : Framing) : State := s.setPort p { s.port p with framing := x }

section
variable (s : State) (p : Port) (x : Framing)

@[simp] theorem State.reframe_array : (s.reframe p x).array = s.array := by cases p <;> rfl
@[simp] theorem State.reframe_dir : (s.reframe p x).dir = s.dir := by cases p <;> rfl
@[simp] theorem State.reframe_store : (s.reframe p x).store = s.store := by cases p <;> rfl
@[simp] theorem State.reframe_sched : (s.reframe p x).sched = s.sched := by cases p <;> rfl
@[simp] theorem State.reframe_slots : (s.reframe p x).slots = s.slots := by cases p <;> rfl
@[simp] theorem State.reframe_device : (s.reframe p x).device = s.device := by cases p <;> rfl
@[simp] theorem State.reframe_draws : (s.reframe p x).draws = s.draws := by cases p <;> rfl
@[simp] theorem State.reframe_formatWithdrawn : (s.reframe p x).formatWithdrawn = s.formatWithdrawn := by
  cases p <;> rfl
@[simp] theorem State.reframe_slot (n : Nat) : (s.reframe p x).slot n = s.slot n := by cases p <;> rfl
@[simp] theorem State.reframe_loaded : (s.reframe p x).loaded = s.loaded := by cases p <;> rfl
@[simp] theorem State.reframe_handle (q : Port) (k : Nat) : (s.reframe p x).handle q k = s.handle q k := by
  cases p <;> cases q <;> rfl
@[simp] theorem State.reframe_available : (s.reframe p x).available = s.available := by cases p <;> rfl
@[simp] theorem State.reframe_hoped : (s.reframe p x).hoped = s.hoped := by cases p <;> rfl
@[simp] theorem State.reframe_slotCheck (q : Port) : (s.reframe p x).slotCheck q = s.slotCheck q := by cases p <;> rfl
@[simp] theorem State.reframe_anySlot (f : SlotBody → Bool) : (s.reframe p x).anySlot f = s.anySlot f := by
  cases p <;> rfl
@[simp] theorem State.reframe_anyOpen (f : Port → HandleInfo → Bool) : (s.reframe p x).anyOpen f = s.anyOpen f := by
  cases p <;> rfl
@[simp] theorem State.reframe_ticket (n : Nat) : (s.reframe p x).ticket n = s.ticket n := by cases p <;> rfl
@[simp] theorem State.reframe_createResult (n r : Nat) : (s.reframe p x).createResult n r = s.createResult n r := by
  cases p <;> rfl
@[simp] theorem State.reframe_attention (q : Port) : (s.reframe p x).attention q = s.attention q := by
  cases p <;> cases q <;> rfl

/-! ### Operations that do not see it -/

theorem State.setDir_reframe (d : Directory) : { s.reframe p x with dir := d } =
    ({ s with dir := d } : State).reframe p x := by cases p <;> rfl

theorem State.kick_reframe : (s.reframe p x).kick = s.kick.reframe p x := by
  unfold State.kick State.startWrite
  simp only [State.reframe_store]
  split
  · split <;> cases p <;> rfl
  · rfl

theorem State.markDirty_reframe : (s.reframe p x).markDirty = s.markDirty.reframe p x := by
  unfold State.markDirty
  rw [← State.kick_reframe]
  cases p <;> rfl

theorem State.writerFault_reframe : (s.reframe p x).writerFault = s.writerFault.reframe p x := by cases p <;> rfl

theorem State.waitDirectory_reframe (q : Port) (w : Work) (ref : RegionRef) (n : Nat) :
    (s.reframe p x).waitDirectory q w ref n = (s.waitDirectory q w ref n).reframe p x := by
  unfold State.waitDirectory
  rw [← State.markDirty_reframe]
  cases p <;> rfl

theorem State.setActivity_reframe (a : Activity) : (s.reframe p x).setActivity a = (s.setActivity a).reframe p x := by
  cases p <;> rfl

theorem State.endSlot_reframe (n : Nat) (st : SlotState) :
    (s.reframe p x).endSlot n st = (s.endSlot n st).reframe p x := by
  cases p <;> rfl

theorem State.mapSlot_reframe (n : Nat) (f : SlotBody → SlotBody) :
    (s.reframe p x).mapSlot n f = (s.mapSlot n f).reframe p x := by cases p <;> rfl

theorem State.startErase_reframe (o : EraseOwner) (u : Nat) :
    (s.reframe p x).startErase o u = (s.startErase o u).reframe p x := by cases p <;> rfl

theorem State.enqueue_reframe (n : Nat) (q : Port) (w : Work) (h : Option Nat) (ref : RegionRef) :
    (s.reframe p x).enqueue n q w h ref = (s.enqueue n q w h ref).reframe p x := by cases p <;> rfl

theorem State.await_reframe (w : ReadWait) : (s.reframe p x).await w = (s.await w).reframe p x := by cases p <;> rfl

theorem State.cancelQueued_reframe (f : SlotBody → Bool) (c : Status) :
    (s.reframe p x).cancelQueued f c = (s.cancelQueued f c).reframe p x := by cases p <;> rfl

theorem State.issuedThrough_reframe (f : Port → HandleInfo → Bool) :
    (s.reframe p x).issuedThrough f = s.issuedThrough f := by
  funext b
  unfold State.issuedThrough
  simp only [State.reframe_handle]

theorem State.invalidate_reframe (f : Port → HandleInfo → Bool) :
    (s.reframe p x).invalidate f = (s.invalidate f).reframe p x := by
  unfold State.invalidate
  rw [State.issuedThrough_reframe, State.cancelQueued_reframe]
  cases p <;> rfl

theorem State.setHandle_reframe (q : Port) (k : Nat) (h : Handle) :
    (s.reframe p x).setHandle q k h = (s.setHandle q k h).reframe p x := by cases p <;> cases q <;> rfl

theorem State.freeSlot_reframe (n : Nat) : (s.reframe p x).freeSlot n = (s.freeSlot n).reframe p x := by cases p <;> rfl

theorem State.clearNotice_reframe (q : Port) : (s.reframe p x).clearNotice q = (s.clearNotice q).reframe p x := by
  cases p <;> cases q <;> rfl

theorem State.setFreeze_reframe (n : Nat) (l : Freeze) :
    (s.reframe p x).setFreeze n l = (s.setFreeze n l).reframe p x := by
  cases p <;> rfl

theorem State.scrubbed_reframe (i u : Nat) (w : Bool) :
    (s.reframe p x).scrubbed i u w = (s.scrubbed i u w).reframe p x := by
  unfold State.scrubbed
  simp only [State.reframe_dir, State.setDir_reframe, State.markDirty_reframe]
  split <;> rfl

theorem State.removeComplete_reframe (i : Nat) : (s.reframe p x).removeComplete i = (s.removeComplete i).reframe p x := by
  unfold State.removeComplete
  simp only [State.reframe_dir, State.setDir_reframe, State.markDirty_reframe]
  split <;> rfl

theorem State.eraseUnit_reframe (n u : Nat) : (s.reframe p x).eraseUnit n u = (s.eraseUnit n u).reframe p x := by
  unfold State.eraseUnit
  simp only [State.reframe_array]
  split
  · rw [State.endSlot_reframe, State.setActivity_reframe]
  · rw [State.mapSlot_reframe, State.startErase_reframe]

theorem State.startProgram_reframe (n a : Nat) : (s.reframe p x).startProgram n a = (s.startProgram n a).reframe p x := by
  unfold State.startProgram
  simp only [State.reframe_array]
  split
  · exact State.endSlot_reframe _ _ _ _ _
  · exact State.setActivity_reframe _ _ _ _

theorem State.startChecks_reframe (b : SlotBody) : (s.reframe p x).startChecks b = s.startChecks b := by
  unfold State.startChecks
  simp only [State.reframe_handle, State.reframe_dir]

theorem State.runSlot_reframe (n : Nat) : (s.reframe p x).runSlot n = (s.runSlot n).reframe p x := by cases p <;> rfl

theorem State.startSlot_reframe (n : Nat) : (s.reframe p x).startSlot n = (s.startSlot n).reframe p x := by
  unfold State.startSlot
  simp only [State.reframe_slot, State.startChecks_reframe, State.runSlot_reframe, State.reframe_dir,
    State.startProgram_reframe, State.eraseUnit_reframe, State.endSlot_reframe, State.setActivity_reframe]
  split
  · rfl
  · split
    · split <;> rfl
    · split <;> rfl
    · rfl
    · rfl
    · rfl

theorem State.askSuspend_reframe (o : EraseOwner) (run : EraseRun) :
    (s.reframe p x).askSuspend o run = (s.askSuspend o run).reframe p x := by
  unfold State.reframe
  rw [← State.askSuspend_setPort]
  congr 2
  simp

end

theorem State.offerScrub_reframe (p : Port) (x : Framing) (k : Nat) : ∀ s : State,
    State.offerScrub k (s.reframe p x) = (State.offerScrub k s).reframe p x := by
  induction k with
  | zero => exact fun _ => rfl
  | succ k ih =>
    intro s
    unfold State.offerScrub
    simp only [State.reframe_dir, State.reframe_array, State.scrubbed_reframe, State.removeComplete_reframe,
      State.startErase_reframe, ih]
    split
    · rfl
    · split
      · rfl
      · split
        · rfl
        · split <;> rfl

theorem State.offerQueue_reframe (p : Port) (x : Framing) (l : List Nat) : ∀ s : State,
    State.offerQueue l (s.reframe p x) = (State.offerQueue l s).reframe p x := by
  induction l with
  | nil =>
    intro s
    unfold State.offerQueue State.scrubFuel
    rw [State.offerScrub_reframe, State.reframe_dir]
  | cons n rest ih =>
    intro s
    have hs : ({ s.reframe p x with sched := { s.sched with queue := rest } } : State) =
        ({ s with sched := { s.sched with queue := rest } } : State).reframe p x := by cases p <;> rfl
    unfold State.offerQueue
    simp only [State.reframe_sched, hs, State.startSlot_reframe, ih]
    split <;> rfl

theorem State.formatPass_reframe (p : Port) (x : Framing) (n k : Nat) : ∀ s : State,
    State.formatPass n k (s.reframe p x) = (State.formatPass n k s).reframe p x := by
  induction k with
  | zero =>
    intro s
    unfold State.formatPass State.formatWrite
    simp only [State.reframe_store, State.setActivity_reframe, State.writerFault_reframe]
    split
    · rfl
    · cases p <;> rfl
  | succ k ih =>
    intro s
    have hw (u : Nat) : (s.reframe p x).formatWithdraw u = (s.formatWithdraw u).reframe p x := by cases p <;> rfl
    unfold State.formatPass
    simp only [State.reframe_array, hw, State.mapSlot_reframe, State.startErase_reframe, ih]
    split <;> rfl

section
variable (s : State) (p : Port) (x : Framing)

theorem State.port_reframe (q : Port) : (s.reframe p x).port q =
    if q = p then { s.port p with framing := x } else s.port q := by
  cases p <;> cases q <;> rfl

theorem State.setPort_reframe_self (q : PortState) : (s.reframe p x).setPort p q = s.setPort p q := by cases p <;> rfl

theorem State.reframe_setPort_self (q : PortState) :
    (s.setPort p q).reframe p x = s.setPort p { q with framing := x } := by
  cases p <;> rfl

theorem State.setPort_reframe_of_ne {q : Port} (h : q ≠ p) (r : PortState) :
    (s.reframe p x).setPort q r = (s.setPort q r).reframe p x := by
  cases p <;> cases q <;> first | exact absurd rfl h | rfl

theorem PortState.deliver_framing (q : PortState) (x : Framing) (r : Response) :
    ∃ y, ({ q with framing := x } : PortState).deliver r = { q.deliver r with framing := y } := by
  unfold PortState.deliver
  by_cases h : q.undecided.isSome
  · exact ⟨x, by simp only [if_pos h]⟩
  · exact ⟨.responding r, by simp only [if_neg h]⟩

theorem State.response_reframe (q : Port) (tag : Byte) (r : Reply) :
    (s.reframe p x).response q tag r = s.response q tag r := by
  unfold State.response
  rw [State.reframe_attention]

/-- A response replaces the framing state of its port, or leaves it with the undecided command emptied (R144). -/
theorem State.finish_reframe (q : Port) (cmd : Cmd) (tag : Byte) (r : Reply) :
    ∃ y, (s.reframe p x).finish q cmd tag r = (s.finish q cmd tag r).reframe p y := by
  unfold State.finish State.kept
  rw [State.response_reframe, State.reframe_device, State.port_reframe]
  by_cases hq : q = p
  · subst hq
    obtain ⟨y, hy⟩ := ((s.port q).keep s.device.caches cmd tag (s.response q tag r)).deliver_framing x
      (s.response q tag r)
    refine ⟨y, ?_⟩
    rw [if_pos rfl, State.setPort_reframe_self, State.reframe_setPort_self, ← hy]
    rfl
  · rw [if_neg hq, State.setPort_reframe_of_ne _ _ _ hq]
    exact ⟨x, rfl⟩

theorem State.undecided_reframe : ((s.reframe p x).port p).undecided = (s.port p).undecided := by cases p <;> rfl

theorem State.answered_reframe (cmd : Cmd) (tag : Byte) (st : Status) (l : List Byte) (f : Bool) :
    (s.reframe p x).answered p cmd tag st l f = s.answered p cmd tag st l f := by cases p <;> rfl

/-- A command decided in its own select period answers alike from every framing state. -/
theorem State.finish_reframe_self (h : (s.port p).undecided = none) (cmd : Cmd) (tag : Byte) (r : Reply) :
    (s.reframe p x).finish p cmd tag r = s.finish p cmd tag r := by
  rw [State.finish_eq cmd tag r ((s.undecided_reframe p x).trans h), State.finish_eq cmd tag r h, State.answered_reframe]

theorem State.serveAll_reframe : ∃ y, (s.reframe p x).serveAll = s.serveAll.reframe p y := by
  have hfold (l : List ReadWait) : ∀ (s : State) (x : Framing),
      ∃ y, l.foldl State.serve (s.reframe p x) = (l.foldl State.serve s).reframe p y := by
    induction l with
    | nil => exact fun s x => ⟨x, rfl⟩
    | cons w rest ih =>
      intro s x
      have hr : (s.reframe p x).readReply w = s.readReply w := by unfold State.readReply; rw [State.reframe_array]
      obtain ⟨y, hy⟩ := s.finish_reframe p x w.port .read w.tag (s.readReply w)
      obtain ⟨z, hz⟩ := ih (s.serve w) y
      refine ⟨z, ?_⟩
      rw [List.foldl_cons, List.foldl_cons, ← hz]
      unfold State.serve
      rw [hr, hy]
  obtain ⟨y, hy⟩ := hfold s.sched.waiters s x
  refine ⟨y, ?_⟩
  unfold State.serveAll
  rw [State.reframe_sched, hy]
  cases p <;> rfl

theorem State.offer_reframe : ∃ y, (s.reframe p x).offer = s.offer.reframe p y := by
  unfold State.offer
  simp only [State.reframe_sched, State.reframe_loaded]
  split
  · obtain ⟨y, hy⟩ := s.serveAll_reframe p x
    exact ⟨y, by rw [hy, State.offerQueue_reframe, State.reframe_sched]⟩
  · exact ⟨x, rfl⟩

theorem State.freeArray_reframe : ∃ y, (s.reframe p x).freeArray = s.freeArray.reframe p y := by
  unfold State.freeArray
  rw [State.setActivity_reframe]
  exact State.offer_reframe _ p x

/-- What one slot of the port has PORT_RESET do to the regions (R77, R129). -/
def State.releaseFix (q : Port) (t : State) (y : Slot) : State :=
  match y.body with
  | some b => if b.port = some q ∧ b.state = .queued ∧ b.work = .fix then t.setFreeze b.regionNumber .held else t
  | none => t

theorem State.releaseFixes_foldl (q : Port) : s.releaseFixes q = s.slots.foldl (State.releaseFix q) s := rfl

theorem State.releaseFix_reframe (q : Port) (y : Slot) :
    State.releaseFix q (s.reframe p x) y = (State.releaseFix q s y).reframe p x := by
  unfold State.releaseFix
  split
  · split
    · exact State.setFreeze_reframe _ _ _ _ _
    · rfl
  · rfl

theorem State.releaseFixes_reframe (q : Port) : (s.reframe p x).releaseFixes q = (s.releaseFixes q).reframe p x := by
  have hfold (l : List Slot) : ∀ s : State, l.foldl (State.releaseFix q) (s.reframe p x) =
      (l.foldl (State.releaseFix q) s).reframe p x := by
    induction l with
    | nil => exact fun _ => rfl
    | cons y rest ih =>
      intro s
      rw [List.foldl_cons, List.foldl_cons, ← ih, State.releaseFix_reframe]
  rw [State.releaseFixes_foldl, State.releaseFixes_foldl, State.reframe_slots]
  exact hfold s.slots s

theorem State.resetPort_reframe (q : Port) : (s.reframe p x).resetPort q = (s.resetPort q).reframe p x := by
  unfold State.resetPort
  rw [State.releaseFixes_reframe]
  cases p <;> cases q <;> rfl

end

/-! ## Blocks -/

/-- A block's decision on `s`, a refusal of which changes nothing (R51, R105). -/
def Quiet (s : State) (d : State × Option Reply) : Prop := ∀ r, d.2 = some r → r.status ≠ .ok → d.1 = s

theorem Quiet.unchanged (s : State) (r : Option Reply) : Quiet s (s, r) := fun _ _ _ => rfl

theorem Quiet.ok (s t : State) (l : List Byte) : Quiet s (t, some (.ok l)) := fun _ hr hn => by
  cases hr; exact absurd rfl hn

theorem Quiet.undecided (s t : State) : Quiet s (t, none) := fun _ hr => by cases hr

/-- A block decides alike from every framing state of the port, and a refusal of it changes nothing (R51, R105, R149). -/
structure BlockLaw (p : Port) (block : State → State × Option Reply) : Prop where
  refusal : ∀ s, Quiet s (block s)
  reframed : ∀ s x, ∃ y, block (s.reframe p x) = ((block s).1.reframe p y, (block s).2)

section
variable {p : Port}

/-- A block that reads the state alone. -/
theorem BlockLaw.query {f : State → Reply} (h : ∀ s x, f (s.reframe p x) = f s) : BlockLaw p fun s => (s, some (f s)) where
  refusal s := .unchanged s _
  reframed s x := ⟨x, by rw [h]⟩

/-- A block that changes the state and answers OK. -/
theorem BlockLaw.change {f : State → State} (l : List Byte) (h : ∀ s x, ∃ y, f (s.reframe p x) = (f s).reframe p y) :
    BlockLaw p fun s => (f s, some (.ok l)) where
  refusal s := .ok s _ l
  reframed s x := by
    obtain ⟨y, hy⟩ := h s x
    exact ⟨y, by rw [hy]⟩

/-- The owner-only region commands (R51). -/
theorem BlockLaw.ownerCommand {ref : RegionRef} {checks : State → Region → Option Status}
    {accept : Region → Nat → State → State} (hc : ∀ s x, checks (s.reframe p x) = checks s)
    (ha : ∀ r n s x, ∃ y, accept r n (s.reframe p x) = (accept r n s).reframe p y) :
    BlockLaw p fun s => s.ownerCommand p ref (checks s) accept where
  refusal s := by
    unfold State.ownerCommand
    split
    · exact .unchanged s _
    · split
      · exact .unchanged s _
      · split
        · exact .unchanged s _
        · exact .ok s _ _
  reframed s x := by
    have hh : (s.reframe p x).ownerHead p ref = s.ownerHead p ref := by unfold State.ownerHead; rw [State.reframe_dir]
    unfold State.ownerCommand
    simp only [hh, hc, State.reframe_slotCheck]
    split
    · exact ⟨x, rfl⟩
    · split
      · exact ⟨x, rfl⟩
      · split
        · exact ⟨x, rfl⟩
        · next r _ _ _ _ n _ =>
          obtain ⟨y, hy⟩ := ha r n s x
          exact ⟨y, by rw [hy, State.reframe_ticket]⟩

end

end Sys2Proof.Machine
end

section
/-! PROOFS. Requests in turn (R149), and refusals that leave no trace (R51, R105): every request's block keeps the laws of
a block. -/

set_option Elab.async false

namespace Sys2Proof.Machine

section
variable {p : Port}

/-! ## The blocks -/

theorem BlockLaw.create (a : CreateArgs) : BlockLaw p (createBlock p a) where
  refusal s := by
    unfold createBlock
    split
    · exact .unchanged s _
    · split
      · exact .unchanged s _
      · split
        · split
          · exact .unchanged s _
          · exact .unchanged s _
        · split
          · exact .unchanged s _
          · exact .ok s _ _
  reframed s x := by
    have ha (record first n : Nat) : (s.reframe p x).acceptCreate p a record first n =
        (s.acceptCreate p a record first n).reframe p x := by
      unfold State.acceptCreate
      simp only [State.reframe_dir, State.setDir_reframe, State.waitDirectory_reframe]
    unfold createBlock
    simp only [State.reframe_dir, State.reframe_available, State.reframe_hoped, State.reframe_slotCheck,
      State.reframe_createResult, ha]
    split
    · exact ⟨x, rfl⟩
    · split
      · exact ⟨x, rfl⟩
      · split
        · split <;> exact ⟨x, rfl⟩
        · split <;> exact ⟨x, rfl⟩

theorem growChecks_reframe (s : State) (x : Framing) (k : Nat) : growChecks (s.reframe p x) k = growChecks s k := by
  funext r
  unfold growChecks
  rw [State.reframe_available]

theorem BlockLaw.grow (a : RegionRef × Nat) :
    BlockLaw p fun s => s.ownerCommand p a.1 (growChecks s a.2) (State.acceptGrow p a.1 a.2) :=
  .ownerCommand (fun s x => growChecks_reframe s x a.2) fun r n s x => ⟨x, by
    unfold State.acceptGrow
    simp only [State.reframe_dir, State.setDir_reframe, State.waitDirectory_reframe]⟩

theorem BlockLaw.shrink (a : RegionRef × Nat × Bool) : BlockLaw p fun s =>
    s.ownerCommand p a.1 (shrinkChecks s a.1 a.2.1 a.2.2) (State.acceptShrink p a.1 a.2.1 a.2.2) :=
  .ownerCommand (fun s x => by
    funext r
    unfold shrinkChecks
    simp only [State.reframe_anySlot, State.reframe_dir]) fun r n s x => ⟨x, by
    unfold State.acceptShrink
    simp only [State.cancelQueued_reframe]
    split
    · simp only [State.reframe_dir, State.setDir_reframe, State.waitDirectory_reframe]
    · simp only [State.reframe_dir, State.setDir_reframe, State.waitDirectory_reframe]⟩

theorem BlockLaw.retire (a : RegionRef × Bool) : BlockLaw p fun s =>
    s.ownerCommand p a.1 (retireChecks s a.1 a.2) (State.acceptRetire p a.1 a.2) :=
  .ownerCommand (fun s x => by
    funext r
    unfold retireChecks
    simp only [State.reframe_anySlot, State.reframe_anyOpen, State.reframe_dir]) fun r n s x => ⟨x, by
    unfold State.acceptRetire
    simp only [State.invalidate_reframe]
    split
    · simp only [State.reframe_dir, State.setDir_reframe, State.waitDirectory_reframe]
    · simp only [State.reframe_dir, State.setDir_reframe, State.waitDirectory_reframe]⟩

theorem BlockLaw.grant (a : RegionRef × Rights × Bool) : BlockLaw p fun s =>
    s.ownerCommand p a.1 (grantChecks s p a.1 a.2.1 a.2.2) (State.acceptGrant p a.1 a.2.1 a.2.2) :=
  .ownerCommand (fun s x => by
    funext r
    unfold grantChecks
    simp only [State.reframe_anySlot, State.reframe_anyOpen, State.issuedThrough_reframe]) fun r n s x => ⟨x, by
    unfold State.acceptGrant
    simp only [State.invalidate_reframe]
    split
    · simp only [State.reframe_dir, State.setDir_reframe, State.waitDirectory_reframe]
    · simp only [State.reframe_dir, State.setDir_reframe, State.waitDirectory_reframe]⟩

theorem BlockLaw.hold (a : RegionRef × Bool) : BlockLaw p fun s =>
    s.ownerCommand p a.1 (holdChecks s a.1 a.2) (State.acceptHold p a.1 a.2) :=
  .ownerCommand (fun s x => by
    funext r
    unfold holdChecks
    simp only [State.reframe_anySlot, State.reframe_anyOpen]) fun r n s x => ⟨x, by
    unfold State.acceptHold
    simp only [State.invalidate_reframe]
    split
    · simp only [State.setFreeze_reframe, State.waitDirectory_reframe]
    · simp only [State.setFreeze_reframe, State.waitDirectory_reframe]⟩

theorem BlockLaw.thaw (ref : RegionRef) : BlockLaw p fun s =>
    s.ownerCommand p ref (fun r => firstOf [(r.freeze.beyondHold, .frozen)]) (State.acceptThaw p ref) :=
  .ownerCommand (checks := fun _ r => firstOf [(r.freeze.beyondHold, .frozen)]) (fun _ _ => rfl) fun r n s x => ⟨x, by
    unfold State.acceptThaw
    simp only [State.setFreeze_reframe, State.waitDirectory_reframe]⟩

theorem BlockLaw.fix (ref : RegionRef) : BlockLaw p fun s => s.ownerCommand p ref fixChecks (State.acceptFix p ref) :=
  .ownerCommand (checks := fun _ => fixChecks) (fun _ _ => rfl) fun r n s x => by
    unfold State.acceptFix
    rw [State.setFreeze_reframe, State.enqueue_reframe]
    exact State.offer_reframe _ p x

theorem BlockLaw.format : BlockLaw p (formatBlock p) where
  refusal s := by
    unfold formatBlock
    split
    · exact .unchanged s _
    · split
      · exact .unchanged s _
      · exact .ok s _ _
  reframed s x := by
    have ha (n : Nat) : (s.reframe p x).acceptFormat p n = (s.acceptFormat p n).reframe p x := by
      unfold State.acceptFormat
      simp only
      rw [← State.formatPass_reframe]
      cases p <;> rfl
    unfold formatBlock
    simp only [State.reframe_store, State.reframe_slotCheck, State.reframe_ticket, ha]
    split
    · exact ⟨x, rfl⟩
    · split <;> exact ⟨x, rfl⟩

theorem BlockLaw.openHandle (a : Mode × Target) : BlockLaw p (openBlock p a) where
  refusal s := by
    unfold openBlock
    split
    · exact .unchanged s _
    · split
      · split
        · exact .unchanged s _
        · split
          · exact .unchanged s _
          · exact .ok s _ _
      · exact .unchanged s _
  reframed s x := by
    have hl : (s.reframe p x).lowestClosed p = s.lowestClosed p := by cases p <;> rfl
    have hc (ref : RegionRef) (r : Region) : openChecks (s.reframe p x) p a.1 ref r = openChecks s p a.1 ref r := by
      unfold openChecks
      rw [State.reframe_anyOpen]
    unfold openBlock
    simp only [State.reframe_dir, hc, hl, State.setHandle_reframe]
    split
    · exact ⟨x, rfl⟩
    · split
      · split
        · exact ⟨x, rfl⟩
        · split <;> exact ⟨x, rfl⟩
      · exact ⟨x, rfl⟩

theorem BlockLaw.close (k : Nat) : BlockLaw p (closeBlock p k) where
  refusal s := by
    unfold closeBlock
    split
    · exact .unchanged s _
    · split
      · exact .unchanged s _
      · exact .ok s _ _
  reframed s x := by
    unfold closeBlock
    simp only [State.reframe_handle, State.reframe_anySlot, State.setHandle_reframe]
    split
    · exact ⟨x, rfl⟩
    · split <;> exact ⟨x, rfl⟩

theorem State.useHandle_reframe (s : State) (x : Framing) (q : Port) (k : Nat) :
    (s.reframe p x).useHandle q k = s.useHandle q k := by
  unfold State.useHandle
  rw [State.reframe_handle]

theorem State.queueWork_reframe (s : State) (x : Framing) (n : Nat) (q : Port) (w : Work) (k : Nat) (ref : RegionRef) :
    ∃ y, (s.reframe p x).queueWork n q w k ref = (s.queueWork n q w k ref).reframe p y := by
  unfold State.queueWork
  rw [State.enqueue_reframe]
  exact State.offer_reframe _ p x

theorem BlockLaw.verify (k : Nat) : BlockLaw p (verifyBlock p k) where
  refusal s := by
    unfold verifyBlock
    split
    · exact .unchanged s _
    · split
      · exact .unchanged s _
      · exact .ok s _ _
  reframed s x := by
    unfold verifyBlock
    simp only [State.useHandle_reframe, State.reframe_slotCheck, State.reframe_ticket]
    split
    · exact ⟨x, rfl⟩
    · next i _ =>
      split
      · exact ⟨x, rfl⟩
      · next n _ =>
        obtain ⟨y, hy⟩ := s.queueWork_reframe x n p .verify k i.region
        exact ⟨y, by rw [hy]⟩

theorem BlockLaw.write (k : Nat) (f : Extent → Bool) (w : Work) : BlockLaw p (writeBlock p k f w) where
  refusal s := by
    unfold writeBlock
    split
    · exact .unchanged s _
    · split
      · exact .unchanged s _
      · split
        · exact .unchanged s _
        · split
          · exact .unchanged s _
          · exact .ok s _ _
  reframed s x := by
    unfold writeBlock
    simp only [State.useHandle_reframe, State.reframe_slotCheck, State.reframe_ticket, State.reframe_dir]
    split
    · exact ⟨x, rfl⟩
    · next i _ =>
      split
      · exact ⟨x, rfl⟩
      · split
        · exact ⟨x, rfl⟩
        · split
          · exact ⟨x, rfl⟩
          · next n _ =>
            obtain ⟨y, hy⟩ := s.queueWork_reframe x n p w k i.region
            exact ⟨y, by rw [hy]⟩

theorem BlockLaw.readPath (w : ReadWait) : BlockLaw p (State.readPath w) where
  refusal s := by
    unfold State.readPath
    split
    · exact .unchanged s _
    · exact .undecided s _
    · exact .undecided s _
    · exact .undecided s _
    · exact .undecided s _
    · split
      · exact .unchanged s _
      · split
        · exact .undecided s _
        · split
          · exact .unchanged s _
          · split
            · exact .undecided s _
            · exact .undecided s _
  reframed s x := by
    have hr : (s.reframe p x).readReply w = s.readReply w := by unfold State.readReply; rw [State.reframe_array]
    unfold State.readPath
    simp only [State.reframe_sched, hr, State.await_reframe, State.askSuspend_reframe]
    split
    · exact ⟨x, rfl⟩
    · exact ⟨x, rfl⟩
    · exact ⟨x, rfl⟩
    · exact ⟨x, rfl⟩
    · exact ⟨x, rfl⟩
    · split
      · exact ⟨x, rfl⟩
      · split
        · exact ⟨x, rfl⟩
        · split
          · exact ⟨x, rfl⟩
          · split <;> exact ⟨x, rfl⟩

theorem BlockLaw.read (tag : Byte) (a : ReadArgs) : BlockLaw p (readBlock p tag a) where
  refusal s := by
    unfold readBlock
    split
    · exact .unchanged s _
    · simp only
      split
      · exact (BlockLaw.readPath (p := p) _).refusal s
      · exact .unchanged s _
  reframed s x := by
    unfold readBlock
    simp only [State.useHandle_reframe, State.reframe_dir]
    split
    · exact ⟨x, rfl⟩
    · split
      · exact (BlockLaw.readPath _).reframed s x
      · exact ⟨x, rfl⟩

theorem BlockLaw.lookup (name : List Byte) : BlockLaw p (lookupBlock name) where
  refusal s := by unfold lookupBlock; split <;> exact .unchanged s _
  reframed s x := by
    unfold lookupBlock
    simp only [State.reframe_dir]
    split <;> exact ⟨x, rfl⟩

theorem State.resolveTicket_reframe (s : State) (x : Framing) (q : Port) (k : Ticket) :
    (s.reframe p x).resolveTicket q k = s.resolveTicket q k := by
  unfold State.resolveTicket
  simp only [State.reframe_slot]

theorem BlockLaw.queryTicket (k : Ticket) : BlockLaw p (queryBlock p k) where
  refusal s := by unfold queryBlock; split <;> exact .unchanged s _
  reframed s x := by
    unfold queryBlock
    simp only [State.resolveTicket_reframe]
    split <;> exact ⟨x, rfl⟩

theorem BlockLaw.collect (k : Ticket) : BlockLaw p (collectBlock p k) where
  refusal s := by
    unfold collectBlock
    split
    · exact .unchanged s _
    · split
      · exact .ok s _ _
      · exact .unchanged s _
  reframed s x := by
    unfold collectBlock
    simp only [State.resolveTicket_reframe, State.freeSlot_reframe]
    split
    · exact ⟨x, rfl⟩
    · split <;> exact ⟨x, rfl⟩

theorem State.cancelWaiting_reframe (s : State) (x : Framing) (n : Nat) (b : SlotBody) :
    (s.reframe p x).cancelWaiting n b = (s.cancelWaiting n b).reframe p x := by
  have hd : (s.reframe p x).dequeue n = (s.dequeue n).reframe p x := by cases p <;> rfl
  unfold State.cancelWaiting
  simp only [hd, State.mapSlot_reframe, State.setFreeze_reframe]
  split <;> rfl

theorem State.cancelErase_reframe (s : State) (x : Framing) (n : Nat) :
    ∃ y, (s.reframe p x).cancelErase n = (s.cancelErase n).reframe p y := by
  unfold State.cancelErase
  rw [State.endSlot_reframe]
  exact State.freeArray_reframe _ p x

theorem State.abortErase_reframe (s : State) (x : Framing) (n : Nat) (run : EraseRun) :
    ∃ y, (s.reframe p x).abortErase n run = (s.abortErase n run).reframe p y := by
  have hd : State.drawn { s.reframe p x with
      array := (s.reframe p x).array.stopErase run (Config.eraseSets (s.reframe p x).draws) } =
      (State.drawn { s with array := s.array.stopErase run (Config.eraseSets s.draws) }).reframe p x := by
    cases p <;> rfl
  unfold State.abortErase
  rw [hd]
  exact State.cancelErase_reframe _ x n

/-- CANCEL's decision for a slot that works on the array, by the current activity (R121, R131). -/
def State.cancelWorking (s : State) (q : Port) (tag : Byte) (n : Nat) (b : SlotBody) : State × Option Reply :=
  match s.sched.activity with
  | .erase (.slot m) run =>
    if m = n then (s.abortErase m run, some (.ok [(SlotState.cancelled .host).code])) else tooLate b.state s
  | .between m _ => if m = n then (s.cancelErase m, some (.ok [(SlotState.cancelled .host).code])) else tooLate b.state s
  | .scan run =>
    if run.slot = n ∧ b.work = .verify then (s.setActivity (.scan { run with cancel := some (q, tag) }), none)
    else tooLate b.state s
  | _ => tooLate b.state s

section
variable {s : State} {q : Port} {tag : Byte} {k : Ticket} {b : SlotBody}

theorem cancelBlock_none (h : s.resolveTicket q k = none) : cancelBlock q tag k s = refuse .noSuchTicket s := by
  unfold cancelBlock; rw [h]

theorem cancelBlock_queued (h : s.resolveTicket q k = some b) (hb : b.state = .queued) : cancelBlock q tag k s =
    (s.cancelWaiting k.slot b, some (.ok [(SlotState.cancelled .host).code])) := by
  unfold cancelBlock; rw [h]; simp only [hb]

theorem cancelBlock_working (h : s.resolveTicket q k = some b) (hb : b.state.onArray = true) :
    cancelBlock q tag k s = s.cancelWorking q tag k.slot b := by
  unfold cancelBlock
  rw [h]
  cases hst : b.state with
  | running => simp only [hst]; unfold State.cancelWorking; rw [hst] <;> rfl
  | suspended => simp only [hst]; unfold State.cancelWorking; rw [hst] <;> rfl
  | _ => rw [hst] at hb; cases hb

theorem cancelBlock_over (h : s.resolveTicket q k = some b) (hq : b.state ≠ .queued) (hb : b.state.onArray = false) :
    cancelBlock q tag k s = tooLate b.state s := by
  unfold cancelBlock
  rw [h]
  cases hst : b.state with
  | queued => exact absurd hst hq
  | running => rw [hst] at hb; cases hb
  | suspended => rw [hst] at hb; cases hb
  | _ => simp only [hst]

end

theorem State.cancelWorking_quiet (s : State) (q : Port) (tag : Byte) (n : Nat) (b : SlotBody) :
    Quiet s (s.cancelWorking q tag n b) := by
  unfold State.cancelWorking
  split
  · split
    · exact .ok s _ _
    · exact .unchanged s _
  · split
    · exact .ok s _ _
    · exact .unchanged s _
  · split
    · exact .undecided s _
    · exact .unchanged s _
  · exact .unchanged s _

theorem State.cancelWorking_reframe (s : State) (x : Framing) (q : Port) (tag : Byte) (n : Nat) (b : SlotBody) :
    ∃ y, (s.reframe p x).cancelWorking q tag n b =
      ((s.cancelWorking q tag n b).1.reframe p y, (s.cancelWorking q tag n b).2) := by
  unfold State.cancelWorking
  simp only [State.reframe_sched, State.setActivity_reframe]
  split
  · next m run _ =>
    split
    · obtain ⟨y, hy⟩ := s.abortErase_reframe (p := p) x m run
      exact ⟨y, by rw [hy]⟩
    · exact ⟨x, rfl⟩
  · next m _ _ =>
    split
    · obtain ⟨y, hy⟩ := s.cancelErase_reframe (p := p) x m
      exact ⟨y, by rw [hy]⟩
    · exact ⟨x, rfl⟩
  · split <;> exact ⟨x, rfl⟩
  · exact ⟨x, rfl⟩

theorem BlockLaw.cancel (tag : Byte) (k : Ticket) : BlockLaw p (cancelBlock p tag k) where
  refusal s := by
    cases h : s.resolveTicket p k with
    | none => rw [cancelBlock_none h]; exact .unchanged s _
    | some b =>
      by_cases hq : b.state = .queued
      · rw [cancelBlock_queued h hq]; exact .ok s _ _
      · cases hw : b.state.onArray with
        | true => rw [cancelBlock_working h hw]; exact s.cancelWorking_quiet _ _ _ _
        | false => rw [cancelBlock_over h hq hw]; exact .unchanged s _
  reframed s x := by
    have hr := s.resolveTicket_reframe (p := p) x p k
    cases h : s.resolveTicket p k with
    | none => rw [cancelBlock_none h, cancelBlock_none (hr.trans h)]; exact ⟨x, rfl⟩
    | some b =>
      by_cases hq : b.state = .queued
      · rw [cancelBlock_queued h hq, cancelBlock_queued (hr.trans h) hq, State.cancelWaiting_reframe]
        exact ⟨x, rfl⟩
      · cases hw : b.state.onArray with
        | true =>
          rw [cancelBlock_working h hw, cancelBlock_working (hr.trans h) hw]
          exact s.cancelWorking_reframe x _ _ _ _
        | false =>
          rw [cancelBlock_over h hq hw, cancelBlock_over (hr.trans h) hq hw]
          exact ⟨x, rfl⟩

end

end Sys2Proof.Machine
end

section
/-! PROOFS. Requests that wait for their port's earlier command (R149), and requests that are refused (R51, R105, R146,
R150). -/

set_option Elab.async false

namespace Sys2Proof.Machine

/-! ## A command taken stays decided -/

/-- No command of the port is undecided. -/
def State.Decided (p : Port) (s : State) : Prop := (s.port p).undecided = none

section
variable {s : State} {p : Port}

theorem State.Decided.congr {t : State} (h : s.Decided p) (ht : t.port p = s.port p) : t.Decided p := by
  unfold State.Decided
  rw [ht]
  exact h

theorem State.Decided.offer (h : s.Decided p) : s.offer.Decided p := State.offer_decided h

theorem State.Decided.waits {t : State} (h : t.Decided p) (d : Directory) (q : Port) (w : Work) (ref : RegionRef)
    (n : Nat) : (State.waitDirectory { t with dir := d } q w ref n).Decided p := h.congr (by simp; cases p <;> rfl)

theorem State.Decided.invalidateIf (h : s.Decided p) (o : Bool) (f : Port → HandleInfo → Bool) :
    (if o then s.invalidate f else s).Decided p := by
  cases o
  · exact h
  · cases p <;> exact h

theorem State.Decided.acceptShrink (h : s.Decided p) (q : Port) (ref : RegionRef) (k : Nat) (o : Bool) (r : Region)
    (n : Nat) : (State.acceptShrink q ref k o r n s).Decided p := by
  unfold State.acceptShrink
  cases o
  · exact h.waits _ q _ ref n
  · have hc : (s.cancelQueued (fun b => b.touchesTail ref k) .stale).Decided p := h.congr (by simp)
    exact hc.waits _ q _ ref n

theorem State.Decided.readPath (h : s.Decided p) (w : ReadWait) : (s.readPath w).1.Decided p := by
  have hw : (s.await w).Decided p := h.congr (by simp)
  unfold State.readPath
  split
  · exact h
  · exact hw
  · exact hw
  · exact hw
  · exact hw
  · split
    · exact h
    · split
      · exact hw
      · split
        · exact h
        · split
          · exact hw.congr (by simp)
          · exact hw

theorem State.Decided.cancelWaiting (h : s.Decided p) (n : Nat) (b : SlotBody) : (s.cancelWaiting n b).Decided p := by
  unfold State.cancelWaiting
  simp only
  split <;> exact h.congr (by simp)

theorem State.Decided.requests (h : s.Decided p) : RequestCases (State.Decided p) s where
  create q _ _ _ n _ _ _ _ _ := h.waits _ q _ _ n
  grow q ref _ _ n _ _ _ _ := h.waits _ q _ ref n
  shrink q ref k o r n _ _ _ _ := h.acceptShrink q ref k o r n
  retire q ref o _ n _ _ _ _ := (h.invalidateIf o _).waits _ q _ ref n
  grant q ref _ o _ n _ _ _ _ := (h.invalidateIf o _).waits _ q _ ref n
  hold q ref o _ n _ _ _ _ := (h.invalidateIf o _).waits _ q _ ref n
  thaw q ref _ n _ _ _ := h.waits _ q _ ref n
  fix q ref r n _ _ _ _ := State.Decided.offer (h.congr (by simp))
  format q n _ _ _ := h.congr (by simp [State.acceptFormat]; cases p <;> rfl)
  setHandle q k x _ := by unfold State.Decided State.setHandle; cases q <;> cases p <;> exact h
  queueWork n q w k ref _ _ _ := State.Decided.offer (h.congr (by simp))
  readPath w _ := h.readPath w
  cancelWaiting q k b _ _ _ := h.cancelWaiting _ b
  abortErase n _ run _ _ _ _ := State.Decided.offer (h.congr (by simp; cases p <;> rfl))
  cancelErase n _ _ _ _ _ _ := State.Decided.offer (h.congr (by simp))
  cancelScan run c _ _ := h.congr (by simp)
  collect q k b _ _ _ := h.congr (by simp)
  clearNotice q := by unfold State.Decided State.clearNotice; cases q <;> cases p <;> exact h
  resetPort q _ := by
    unfold State.Decided
    rw [State.resetPort_port]
    split
    · next hq => subst hq; exact h
    · exact h

end

/-! ## Requests -/

/-- The request is taken in the order of R148, by a block that keeps the laws of a block and leaves no command
undecided but its own. -/
inductive TakenByBlock (i : Instr) (p : Port) (tag : Byte) (cmd : Cmd) : Prop
  | intro {α : Type} {args : Option α} {heldBack : α → Bool} {block : α → State → State × Option Reply}
      (take : ∀ s, takeRequest i s = s.take i p cmd tag args heldBack block) (law : ∀ a, BlockLaw p (block a))
      (decided : ∀ a s, s.device.answer cmd = none → s.Decided p → (block a s).1.Decided p) : TakenByBlock i p tag cmd

section
variable {p : Port}

theorem BlockLaw.identify : BlockLaw p fun s => (s, some (.ok (identifyResult p))) := .query fun _ _ => rfl

theorem BlockLaw.status : BlockLaw p fun s => (s.clearNotice p, some (.ok (s.statusResult p))) where
  refusal s := .ok s _ _
  reframed s x := ⟨x, by rw [State.clearNotice_reframe, show (s.reframe p x).statusResult p = s.statusResult p by
    cases p <;> rfl]⟩

theorem BlockLaw.portReset : BlockLaw p fun s => (s.resetPort p, some (.ok [])) :=
  .change [] fun s x => ⟨x, s.resetPort_reframe p x p⟩

theorem BlockLaw.unitInfo (u : Nat) : BlockLaw p fun s => (s, some (.ok (s.unitInfo u))) :=
  .query fun s x => by rw [show (s.reframe p x).unitInfo u = s.unitInfo u by cases p <;> rfl]

theorem BlockLaw.list : BlockLaw p fun s =>
    (s, some (.ok (byteOf s.dir.listEntries.length :: s.dir.listEntries.flatten))) :=
  .query fun s x => by rw [State.reframe_dir]

theorem BlockLaw.readRecord (n : Nat) : BlockLaw p fun s => (s, some (.ok ((s.dir.record n).readBytes n))) :=
  .query fun s x => by rw [State.reframe_dir]

end

theorem Instr.takenByBlock {i : Instr} {p : Port} {tag : Byte} {cmd : Cmd} {params : List Byte}
    (h : i.request = some (p, tag, cmd, params)) : TakenByBlock i p tag cmd := by
  cases i with
  | identify =>
    cases h
    exact .intro (args := some ()) (heldBack := fun _ => false) (fun _ => rfl) (fun _ => .identify)
      fun _ _ _ h => h
  | status =>
    cases h
    exact .intro (args := some ()) (heldBack := fun _ => false) (fun _ => rfl) (fun _ => .status)
      fun _ _ _ h => h.requests.clearNotice p
  | portReset =>
    cases h
    exact .intro (args := some ()) (heldBack := fun _ => false) (fun _ => rfl) (fun _ => .portReset)
      fun _ _ hd h => h.requests.resetPort p (Device.answer_down hd (by decide) (by decide))
  | unitInfo => cases h; exact ⟨fun _ => rfl, .unitInfo, fun _ _ _ h => h⟩
  | list =>
    cases h
    exact .intro (args := some ()) (heldBack := fun _ => false) (fun _ => rfl) (fun _ => .list)
      fun _ _ _ h => h
  | lookup => cases h; exact ⟨fun _ => rfl, .lookup, fun _ _ _ h => by unfold lookupBlock; split <;> exact h⟩
  | readRecord => cases h; exact ⟨fun _ => rfl, .readRecord, fun _ _ _ h => h⟩
  | create =>
    cases h
    exact ⟨fun _ => rfl, .create, fun a _ hd h => h.requests.createBlock h (ready_of_control hd rfl) p a⟩
  | grow =>
    cases h
    exact ⟨fun _ => rfl, .grow, fun a _ hd h =>
      State.ownerCommand_induct h fun r n => h.requests.grow _ _ _ r n (ready_of_control hd rfl)⟩
  | shrink =>
    cases h
    exact ⟨fun _ => rfl, .shrink, fun a _ hd h =>
      State.ownerCommand_induct h fun r n => h.requests.shrink _ _ _ _ r n (ready_of_control hd rfl)⟩
  | retire =>
    cases h
    exact ⟨fun _ => rfl, .retire, fun a _ hd h =>
      State.ownerCommand_induct h fun r n => h.requests.retire _ _ _ r n (ready_of_control hd rfl)⟩
  | grant =>
    cases h
    exact ⟨fun _ => rfl, .grant, fun a _ hd h =>
      State.ownerCommand_induct h fun r n => h.requests.grant _ _ _ _ r n (ready_of_control hd rfl)⟩
  | hold =>
    cases h
    exact ⟨fun _ => rfl, .hold, fun a _ hd h =>
      State.ownerCommand_induct h fun r n => h.requests.hold _ _ _ r n (ready_of_control hd rfl)⟩
  | thaw =>
    cases h
    exact ⟨fun _ => rfl, .thaw, fun a _ hd h =>
      State.ownerCommand_induct h fun r n h1 _ => h.requests.thaw _ _ r n (ready_of_control hd rfl) h1⟩
  | fix =>
    cases h
    exact ⟨fun _ => rfl, .fix, fun a _ hd h =>
      State.ownerCommand_induct h fun r n => h.requests.fix _ _ r n (ready_of_control hd rfl)⟩
  | verify =>
    cases h
    exact ⟨fun _ => rfl, .verify, fun k _ hd h =>
      h.requests.verifyBlock h (State.loaded_of_answer hd (by decide)) p k⟩
  | format =>
    cases h
    exact .intro (args := some ()) (heldBack := fun _ => true) (fun _ => rfl) (fun _ => .format)
      fun _ _ hd h => h.requests.formatBlock h (recovery_of_format hd) p
  | openHandle q t m sel => cases sel <;> (cases h; exact ⟨fun _ => rfl, .openHandle, fun a _ hd h =>
      h.requests.openBlock h (State.loaded_of_answer hd (by decide)) p a⟩)
  | close =>
    cases h
    exact ⟨fun _ => rfl, .close, fun k _ hd h =>
      h.requests.closeBlock h (State.loaded_of_answer hd (by decide)) p k⟩
  | read =>
    cases h
    exact ⟨fun _ => rfl, .read tag, fun a _ hd h =>
      h.requests.readBlock h (State.loaded_of_answer hd (by decide)) p tag a⟩
  | program =>
    cases h
    exact ⟨fun _ => rfl, fun a => .write _ _ _, fun a _ hd h =>
      h.requests.writeBlock h (State.loaded_of_answer hd (by decide)) p _ _ rfl⟩
  | erase =>
    cases h
    exact ⟨fun _ => rfl, fun a => .write _ _ _, fun a _ hd h =>
      h.requests.writeBlock h (State.loaded_of_answer hd (by decide)) p _ _ rfl⟩
  | query => cases h; exact ⟨fun _ => rfl, .queryTicket, fun _ _ _ h => by unfold queryBlock; split <;> exact h⟩
  | cancel =>
    cases h
    exact ⟨fun _ => rfl, .cancel tag, fun k _ hd h =>
      h.requests.cancelBlock h (State.loaded_of_answer hd (by decide)) p tag k⟩
  | collect =>
    cases h
    exact ⟨fun _ => rfl, .collect, fun k _ hd h =>
      h.requests.collectBlock h (Device.answer_down hd nofun nofun) p k⟩
  | _ => cases h

/-! ## Taking a request from another framing state -/

section
variable {s : State} {p : Port}

theorem State.replay_reframe (x : Framing) (cmd : Cmd) (tag : Byte) :
    (s.reframe p x).replay p cmd tag = s.replay p cmd tag := by cases p <;> rfl

theorem State.sendReplay_reframe (x : Framing) (r : Response) : (s.reframe p x).sendReplay p r = s.sendReplay p r := by
  cases p <;> rfl

theorem State.answerFrame_reframe (x : Framing) (h : s.Decided p) (tag : Byte) (st : Status) :
    (s.reframe p x).answerFrame p tag st = s.answerFrame p tag st := by
  rw [State.answerFrame_eq, State.answerFrame_eq]
  unfold State.delivered
  rw [if_pos (show (s.port p).undecided = none from h), if_pos ((s.undecided_reframe p x).trans h)]
  cases p <;> rfl

theorem State.take_reframe (x : Framing) {i : Instr} {tag : Byte} {cmd : Cmd} {α : Type} {args : Option α}
    {heldBack : α → Bool} {block : α → State → State × Option Reply} (h : s.Decided p) (law : ∀ a, BlockLaw p (block a))
    (decided : ∀ a s, s.device.answer cmd = none → s.Decided p → (block a s).1.Decided p) :
    (s.reframe p x).take i p cmd tag args heldBack block = s.take i p cmd tag args heldBack block := by
  unfold State.take
  rw [State.replay_reframe, State.reframe_device]
  split
  · exact s.sendReplay_reframe x _
  · split
    · exact s.finish_reframe_self p x h _ _ _
    · next a =>
      cases hd : s.device.answer cmd with
      | some st => exact s.finish_reframe_self p x h _ _ _
      | none =>
        obtain ⟨y, hy⟩ := (law a).reframed s x
        have hb := decided a s hd h
        have hi : ((s.reframe p x).port p).inhibit = (s.port p).inhibit := by cases p <;> rfl
        rcases hk : block a s with ⟨t, r⟩
        rw [hk] at hb hy
        simp only [hi, hy]
        split
        · exact s.finish_reframe_self p x h _ _ _
        · cases r with
          | some r => exact t.finish_reframe_self p y hb _ _ _
          | none => cases p <;> rfl

/-- A request does the same from every framing state of its port, once its port's earlier command is decided (R149). -/
theorem takeRequest_reframe {i : Instr} {tag : Byte} {cmd : Cmd} {params : List Byte} (x : Framing)
    (hr : i.request = some (p, tag, cmd, params)) (h : s.Decided p) :
    takeRequest i (s.reframe p x) = takeRequest i s := by
  obtain ⟨take, law, decided⟩ := Instr.takenByBlock hr
  rw [take, take]
  exact s.take_reframe x h law decided

end

/-! ## Frames that wait -/

section
variable {s : State} {p : Port} {i : Instr}

theorem after_frameAt (h : i.FrameAt p) (s : State) : after i s = s.arrive i p (takeRequest i) := by
  rcases h with ⟨tag, cmd, params, hr⟩ | ⟨frame, rfl, hf⟩ | ⟨code, tag, params, rfl, hc⟩
  · exact after_request hr s
  · rcases hf with ⟨tag, hf⟩ | ⟨cmd, tag, hf⟩ <;>
      simp only [Machine.after, exec, execFrameError, hf] <;> rfl
  · simp only [Machine.after, exec, execUnknownCommand, Cmd.ofCode_none hc]
    rfl

theorem takeRequest_reframe_of_frameAt (h : i.FrameAt p) (x : Framing) (hu : s.Decided p) :
    takeRequest i (s.reframe p x) = takeRequest i s := by
  rcases h with ⟨tag, cmd, params, hr⟩ | ⟨frame, rfl, hf⟩ | ⟨code, tag, params, rfl, hc⟩
  · exact takeRequest_reframe x hr hu
  · show takeFrameError p frame (s.reframe p x) = takeFrameError p frame s
    unfold takeFrameError
    rcases hf with ⟨tag, hf⟩ | ⟨cmd, tag, hf⟩
    · simp only [hf, State.answerFrame_reframe x hu]
    · simp only [hf, State.replay_reframe, State.answerFrame_reframe x hu, State.sendReplay_reframe]
  · exact State.answerFrame_reframe x hu _ _

theorem State.arrive_waits {earlier : Instr} {take : State → State} (hf : (s.port p).framing = .receiving)
    (hd : s.device ≠ .inReset) (hu : (s.port p).undecided = some earlier) :
    s.arrive i p take = s.setPort p { s.port p with framing := .waiting i } := by
  unfold State.arrive
  rw [hf]
  simp only [if_neg hd, hu, Option.isSome_some, if_true]

theorem exec_waitingRequestTaken (hf : (s.port p).framing = .waiting i) (hu : s.Decided p) :
    exec (.waitingRequestTaken p) s = .next (takeRequest i s) := by
  show execWaitingRequestTaken p s = _
  unfold execWaitingRequestTaken
  rw [hf, show (s.port p).undecided = none from hu]
  rfl

theorem exec_waitingRequestTaken_waits (hf : (s.port p).framing = .waiting i) (hu : (s.port p).undecided ≠ none) :
    exec (.waitingRequestTaken p) s = .next s := by
  show execWaitingRequestTaken p s = _
  unfold execWaitingRequestTaken
  rw [hf]
  simp only [if_pos (Option.isSome_iff_ne_none.2 hu)]

theorem State.replay_identify (s : State) (p : Port) (tag : Byte) : s.replay p .identify tag = none := by
  unfold State.replay
  split
  · exact if_neg fun h => absurd h.1 (by decide)
  · rfl

theorem takeIdentify_decided (hu : s.Decided p) (tag : Byte) :
    takeIdentify p tag s = s.answered p .identify tag .ok (identifyResult p) := by
  unfold takeIdentify State.take
  rw [State.replay_identify, Device.answer_identify]
  exact State.finish_eq _ _ _ hu

end

/-- Settles O9: a block decides alike from every framing state, so a frame that waited is taken as on arrival. -/
theorem requestsWaitTheirTurn : Obligations.RequestsWaitTheirTurn := by
  refine ⟨fun i s p earlier hi hf hd hu => ?_, fun i s p hi hf hd => ⟨fun hu => ?_, fun hu => ?_⟩,
    fun s p tag hf hu => ?_⟩
  · rw [exec_eq_next, after_frameAt hi, State.arrive_waits hf hd hu]
  · rw [exec_waitingRequestTaken hf hu, exec_eq_next, after_frameAt hi]
    have hl : (s.reframe p .receiving).Listens p := by cases p <;> exact ⟨rfl, hu, hd⟩
    exact congrArg Host.Outcome.next ((takeRequest_reframe_of_frameAt hi .receiving hu).symm.trans (hl.arrive _ _).symm)
  · exact exec_waitingRequestTaken_waits hf hu
  · rw [exec_waitingRequestTaken hf hu, ← identifyResult_eq]
    exact congrArg Host.Outcome.next (takeIdentify_decided hu tag)

/-! ## Requests that are refused -/

section
variable {s : State} {p : Port}

/-- What a request that is not answered OK leaves: its port's response, and what the replay cache takes of it. -/
def State.Refused (s : State) (p : Port) (cmd : Cmd) (tag : Byte) (t : State) : Prop :=
  ∀ r, (t.port p).framing = .responding r → r.status ≠ .ok →
    t = s.setPort p { s.port p with framing := .responding r, cache := (t.port p).cache } ∧
    ((t.port p).cache = (s.port p).cache ∨
      cmd ∈ mutatingCommands ∧ tag ≠ 0 ∧ (t.port p).cache = some ⟨cmd, tag, r⟩)

theorem State.Refused.answered (cmd : Cmd) (tag : Byte) (st : Status) (l : List Byte) (f : Bool) :
    s.Refused p cmd tag (s.answered p cmd tag st l f) := by
  intro r hr _
  have hp : (s.answered p cmd tag st l f).port p = { s.port p with
      framing := .responding ⟨st, tag, false, s.attention p, f, l⟩
      cache := if cmd ∈ mutatingCommands ∧ tag ≠ 0 ∧ s.device ≠ .inReset
        then some ⟨cmd, tag, ⟨st, tag, false, s.attention p, f, l⟩⟩ else (s.port p).cache } := by cases p <;> rfl
  rw [hp] at hr ⊢
  cases hr
  refine ⟨rfl, ?_⟩
  by_cases hc : cmd ∈ mutatingCommands ∧ tag ≠ 0 ∧ s.device ≠ .inReset
  · exact .inr ⟨hc.1, hc.2.1, if_pos hc⟩
  · exact .inl (if_neg hc)

theorem State.Refused.of_framing {cmd : Cmd} {tag : Byte} {t : State} (h : ∀ r, (t.port p).framing ≠ .responding r) :
    s.Refused p cmd tag t := fun r hr => absurd hr (h r)

theorem State.Refused.sendReplay (cmd : Cmd) (tag : Byte) (r : Response) : s.Refused p cmd tag (s.sendReplay p r) := by
  intro r' hr _
  cases p <;> (cases hr; exact ⟨rfl, .inl rfl⟩)

theorem State.Refused.take {i : Instr} {tag : Byte} {cmd : Cmd} {α : Type} {args : Option α}
    {heldBack : α → Bool} {block : α → State → State × Option Reply} (h : s.Decided p) (law : ∀ a, BlockLaw p (block a))
    (decided : ∀ a s, s.device.answer cmd = none → s.Decided p → (block a s).1.Decided p) :
    s.Refused p cmd tag (s.take i p cmd tag args heldBack block) := by
  have hfin : ∀ r, s.Refused p cmd tag (s.finish p cmd tag r) := fun r => by
    rw [State.finish_eq _ _ _ h]
    exact .answered _ _ _ _ _
  unfold State.take
  split
  · exact .sendReplay _ _ _
  · split
    · exact hfin _
    · next a =>
      split
      · exact hfin _
      · next hd =>
        split
        · exact hfin _
        · have hb := decided a s hd h
          have hq := (law a).refusal s
          rcases hk : block a s with ⟨t, _ | r⟩ <;> rw [hk] at hb hq
          · exact .of_framing fun r => by cases p <;> nofun
          · intro r' hr hn
            have ht : t = s := hq r rfl fun hok => hn (by
              have hr : ((t.finish p cmd tag r).port p).framing = .responding r' := hr
              rw [State.finish_eq _ _ _ hb] at hr
              cases p <;> (cases hr; exact hok))
            subst ht
            exact hfin r r' hr hn

end

/-- Settles O10: every refusal of a block leaves the state, and the rest of the order of R148 touches the port alone. -/
theorem refusalsChangeNothing : Obligations.RefusalsChangeNothing := by
  intro i s t p tag cmd params r hi hf ht
  rw [exec_eq_next, after_request hi] at ht
  obtain rfl := (Host.Outcome.next.inj ht).symm
  obtain ⟨take, law, decided⟩ := Instr.takenByBlock hi
  have hall : s.Refused p cmd tag (s.arrive i p (takeRequest i)) := by
    unfold State.arrive
    rw [hf]
    simp only
    split
    · exact .of_framing fun r => by rw [hf]; nofun
    · split
      · exact .of_framing fun r => by cases p <;> nofun
      · next hu =>
        rw [take]
        exact .take (Option.not_isSome_iff_eq_none.1 hu) law decided
  exact hall r

end Sys2Proof.Machine
end

section
/-! PROOFS. What a port asks without changing the directory: STATUS, PORT_RESET, UNIT_INFO, LIST, LOOKUP, READ_RECORD
(R41 to R44, R101, R129, R154, R157). -/

set_option Elab.async false

namespace Sys2Proof.Machine

/-! ## A command decided on arrival -/

section
variable {s t : State} {i : Instr} {p : Port} {tag : Byte} {cmd : Cmd} {params : List Byte} {α : Type}
  {args : Option α} {heldBack : α → Bool} {block : α → State → State × Option Reply} {a : α} {r : Reply}

theorem exec_decided (hr : i.request = some (p, tag, cmd, params)) (h : s.Receives p cmd tag)
    (take : takeRequest i s = s.take i p cmd tag args heldBack block) (ha : args = some a)
    (hd : s.device.answer cmd = none) (hb : (heldBack a && (s.port p).inhibit) = false)
    (hk : block a s = (t, some r)) (hu : t.Decided p) :
    exec i s = .next (t.answered p cmd tag r.status r.result r.incompleteData) := by
  rw [exec_request hr h.toListens, take, State.take_decided h ha hd hb hk hu]

/-- A command that reads the state alone. -/
theorem exec_reads (hr : i.request = some (p, tag, cmd, params)) (h : s.Receives p cmd tag)
    (take : takeRequest i s = s.take i p cmd tag args heldBack block) (ha : args = some a)
    (hd : s.device.answer cmd = none) (hb : (heldBack a && (s.port p).inhibit) = false) (hk : block a s = (s, some r)) :
    exec i s = .next (s.answered p cmd tag r.status r.result r.incompleteData) :=
  exec_decided hr h take ha hd hb hk h.decided

end

/-! ## Entries of a table -/

section
variable {α β γ : Type}

theorem mapIdx_eq_map_range (f : Nat → α → β) (l : List α) (d : α) :
    l.mapIdx f = (List.range l.length).map fun n => f n (l.getD n d) := by
  refine List.ext_getElem (by simp) fun n h _ => ?_
  have hn : n < l.length := by simpa using h
  simp [hn]

theorem flatten_filterMap (g : α → Option (List β)) (l : List α) :
    (l.filterMap g).flatten = l.flatMap fun x => (g x).getD [] := by
  induction l with
  | nil => rfl
  | cons x l ih =>
    rw [List.filterMap_cons, List.flatMap_cons, ← ih]
    cases g x <;> rfl

/-- The entries that some members of a table give, one after another. -/
theorem flatten_filterMap_mapIdx (f : Nat → α → γ) (g : γ → Option (List β)) (l : List α) (d : α) :
    ((l.mapIdx f).filterMap g).flatten = (List.range l.length).flatMap fun n => (g (f n (l.getD n d))).getD [] := by
  rw [flatten_filterMap, mapIdx_eq_map_range f l d, List.flatMap_map]

theorem length_filterMap_mapIdx (f : Nat → α → γ) (g : γ → Option (List β)) (q : α → Bool) (l : List α)
    (h : ∀ n x, (g (f n x)).isSome = q x) : ((l.mapIdx f).filterMap g).length = l.countP q := by
  rw [List.length_filterMap_eq_countP]
  induction l generalizing f with
  | nil => rfl
  | cons x l ih =>
    rw [List.mapIdx_cons, List.countP_cons, List.countP_cons, ih _ fun n y => h (n + 1) y]
    simp only [h 0 x]

end

/-! ## STATUS -/

section
variable (s : State) (p : Port)

/-- A slot's entry in the STATUS result, none for a slot of the other port (R157). -/
def Slot.statusEntry (p : Port) (n : Nat) (x : Slot) : Option (List Byte) :=
  x.body.bind fun b =>
    if b.port = some p then some [byteOf n, x.useCount.setWidth 8, b.state.code, b.work.code] else none

theorem Slot.statusEntry_isSome (p : Port) (n : Nat) (x : Slot) : (x.statusEntry p n).isSome = x.ofPort p := by
  unfold Slot.statusEntry Slot.ofPort
  cases x.body with
  | none => rfl
  | some b => by_cases h : b.port = some p <;> simp [h]

theorem State.slotEntries_eq : s.slotEntries p = (s.slots.mapIdx fun n x => (n, x)).filterMap fun y =>
    y.2.statusEntry p y.1 := by
  unfold State.slotEntries
  refine congrArg (List.filterMap · _) (funext fun y => ?_)
  obtain ⟨n, x⟩ := y
  unfold Slot.statusEntry
  cases x with
  | mk c b => cases b <;> rfl

theorem State.slotEntries_flatten : (s.slotEntries p).flatten =
    (List.range s.slots.length).flatMap fun n => ((s.slot n).statusEntry p n).getD [] := by
  rw [State.slotEntries_eq, flatten_filterMap_mapIdx _ _ _ Slot.blank]
  rfl

theorem State.slotEntries_length : (s.slotEntries p).length = s.slots.countP (Slot.ofPort p) := by
  rw [State.slotEntries_eq]
  exact length_filterMap_mapIdx _ _ _ _ fun n x => x.statusEntry_isSome p n

theorem Device.answer_status (d : Device) : d.answer .status = none := by cases d <;> decide

end

/-- Settles O12: STATUS is answered in every device state, from the state whose notice it clears. -/
theorem statusAnswersAndClearsTheNotice : Obligations.StatusAnswersAndClearsTheNotice := by
  intro s p tag h
  have hu : (s.clearNotice p).Decided p := by
    cases p <;> exact h.decided
  have hx : exec (.status p tag) s = .next ((s.clearNotice p).answered p .status tag .ok (s.statusResult p)) :=
    exec_decided (i := .status p tag) (args := some ()) (heldBack := fun _ => false)
      (block := fun _ s => (s.clearNotice p, some (.ok (s.statusResult p)))) (r := .ok (s.statusResult p)) rfl
      (h.receives (by decide) tag) rfl rfl s.device.answer_status rfl rfl hu
  rw [hx]
  unfold State.statusResult
  rw [s.slotEntries_flatten p, s.slotEntries_length p]
  have he : ((List.range s.slots.length).flatMap fun n => ((s.slot n).statusEntry p n).getD []) =
      (List.range s.slots.length).flatMap fun n => match (s.slot n).body with
        | some b => if b.port = some p
          then [byteOf n, (s.slot n).useCount.setWidth 8, b.state.code, b.work.code] else []
        | none => [] := by
    refine List.flatMap_congr fun n _ => ?_
    unfold Slot.statusEntry
    cases (s.slot n).body with
    | none => rfl
    | some b => by_cases hb : b.port = some p <;> simp [hb]
  have hh : Handle.statusBytes = fun h => match h with
      | .closed => [(0 : Byte), 0, 0, 0]
      | .opened i => [1, byteOf i.region.number, i.region.generation, i.mode.code]
      | .stale i => [2, byteOf i.region.number, i.region.generation, i.mode.code] :=
    funext fun h => by cases h <;> rfl
  rw [he, hh]
  rfl

/-! ## PORT_RESET -/

section
variable (s : State) (p : Port)

theorem Slot.portReset_port (x : Slot) : ((x.portReset p).body.any fun b => b.port == some p) = false := by
  unfold Slot.portReset
  cases hb : x.body with
  | none => simp [hb]
  | some b =>
    by_cases hp : b.port = some p
    · by_cases hq : b.state = .queued ∨ b.state.finished = true
      · simp [hp, hq, Slot.freed]
      · simp [hp, hq]
    · simp [hp, hb]

/-- A port without slots and without a notice has its attention lowered (R129, R153). -/
theorem State.resetPort_attention : (s.resetPort p).attention p = false := by
  unfold State.attention
  rw [State.resetPort_port, if_pos rfl, State.resetPort_slots, Bool.false_or, List.any_eq_false]
  intro x hx
  obtain ⟨y, _, rfl⟩ := List.mem_map.1 hx
  have h := y.portReset_port p
  unfold Slot.finishedOf
  cases hb : (y.portReset p).body with
  | none => simp
  | some b => rw [hb] at h; simpa using fun he => absurd he (by simpa using h)

theorem Slot.portReset_eq (x : Slot) : x.portReset p = match x.body with
    | none => x
    | some b =>
      if b.port ≠ some p then x
      else if b.state = .queued ∨ b.state.finished = true then ⟨x.useCount + 1, none⟩
      else ⟨x.useCount, some { b with port := none, handle := none }⟩ := by
  unfold Slot.portReset
  cases x.body with
  | none => rfl
  | some b => simp only [ne_eq, ite_not]; rfl

/-- The slot is a QUEUED FIX of the port on region `n`. -/
def SlotBody.queuedFix (b : SlotBody) (p : Port) (n : Nat) : Bool :=
  b.port == some p && b.state == .queued && b.work == .fix && b.regionNumber == n

/-- A record after its region's freeze level was set, where it is ACTIVE. -/
def Record.withFreeze (x : Record) (l : Freeze) : Record :=
  match x.body with
  | .active r => { x with body := .active { r with freeze := l } }
  | _ => x

theorem Record.withFreeze_idem (x : Record) (l : Freeze) : (x.withFreeze l).withFreeze l = x.withFreeze l := by
  unfold Record.withFreeze
  cases h : x.body <;> simp [h]

theorem State.record_setFreeze (n : Nat) (l : Freeze) (m : Nat) :
    (s.setFreeze n l).dir.record m = if m = n then (s.dir.record m).withFreeze l else s.dir.record m := by
  unfold State.setFreeze Directory.mapRegion Record.withFreeze
  by_cases hm : m = n
  · subst hm
    cases hb : (s.dir.record m).body with
    | active r =>
      rw [if_pos rfl]
      exact (Directory.record_setBody (Directory.lt_of_body (by rw [hb]; nofun)) _ _).trans (if_pos rfl)
    | _ => simp
  · rw [if_neg hm]
    cases (s.dir.record n).body with
    | active r => exact Directory.record_setBody_of_ne _ hm _
    | _ => rfl

theorem State.record_releaseFixes (n : Nat) : (s.releaseFixes p).dir.record n =
    if s.slots.any (fun x => x.body.any fun b => b.queuedFix p n) then (s.dir.record n).withFreeze .held
    else s.dir.record n := by
  rw [State.releaseFixes_foldl]
  suffices h : ∀ (l : List Slot) (t : State), (l.foldl (State.releaseFix p) t).dir.record n =
      if l.any (fun x => x.body.any fun b => b.queuedFix p n) then (t.dir.record n).withFreeze .held
      else t.dir.record n from h _ _
  intro l
  induction l with
  | nil => intro t; rfl
  | cons x l ih =>
    intro t
    have hx : (State.releaseFix p t x).dir.record n =
        if (x.body.any fun b => b.queuedFix p n) then (t.dir.record n).withFreeze .held else t.dir.record n := by
      obtain ⟨c, b⟩ := x
      unfold SlotBody.queuedFix
      cases b with
      | none => rfl
      | some b =>
        by_cases hb : b.port = some p ∧ b.state = .queued ∧ b.work = .fix
        · rw [show State.releaseFix p t ⟨c, some b⟩ = t.setFreeze b.regionNumber .held from if_pos hb,
            State.record_setFreeze]
          by_cases hn : n = b.regionNumber
          · subst hn; simp [hb]
          · simp [hb, hn, Ne.symm hn]
        · rw [show State.releaseFix p t ⟨c, some b⟩ = t from if_neg hb]
          have : ((b.port == some p && b.state == .queued && b.work == .fix) : Bool) = false := by
            simpa [and_assoc] using hb
          simp [this]
    rw [List.foldl_cons, ih, hx, List.any_cons]
    cases (x.body.any fun b => b.queuedFix p n) with
    | false => rfl
    | true => 
      cases (l.any fun x => x.body.any fun b => b.queuedFix p n)
      · rfl
      · simp [Record.withFreeze_idem]

theorem State.releaseFixes_dir :
    (s.releaseFixes p).dir.scrub = s.dir.scrub ∧ (s.releaseFixes p).dir.withdrawn = s.dir.withdrawn := by
  rw [State.releaseFixes_foldl]
  refine List.foldlRecOn (motive := fun t : State => t.dir.scrub = s.dir.scrub ∧ t.dir.withdrawn = s.dir.withdrawn)
    _ _ ⟨rfl, rfl⟩ fun t ht x _ => ?_
  obtain ⟨c, b⟩ := x
  cases b with
  | none => exact ht
  | some b =>
    unfold State.releaseFix
    simp only
    split
    · exact ⟨(Directory.mapRegion_scrub _ _ _).trans ht.1, (Directory.mapRegion_withdrawn _ _ _).trans ht.2⟩
    · exact ht

theorem State.Decided.resetPort {q : Port} (h : s.Decided q) : (s.resetPort p).Decided q := by
  unfold State.Decided
  rw [State.resetPort_port]
  split
  · next hq => subst hq; exact h
  · exact h

theorem Device.answer_portReset {d : Device} (h1 : d ≠ .starting) (h2 : d ≠ .inReset) :
    d.answer .portReset = none := by
  cases d
  case inReset => exact absurd rfl h2
  case starting => exact absurd rfl h1
  all_goals decide

theorem exec_portReset {s : State} {p : Port} (h : s.Listens p) (hd : s.device ≠ .starting) (tag : Byte) :
    exec (.portReset p tag) s = .next ((s.resetPort p).answered p .portReset tag .ok []) :=
  exec_decided (i := .portReset p tag) (args := some ()) (heldBack := fun _ => false)
    (block := fun _ s => (s.resetPort p, some (.ok []))) (r := .ok []) rfl (h.receives (by decide) tag) rfl rfl
    (Device.answer_portReset hd h.alive) rfl rfl (State.Decided.resetPort s p h.decided)

end

section
variable (s : State) (p q : Port) (cmd : Cmd) (tag : Byte) (st : Status) (l : List Byte) (f : Bool)

theorem State.answered_other (h : q ≠ p) : (s.answered p cmd tag st l f).port q = s.port q := by
  cases p <;> cases q
  case a.a | b.b => exact absurd rfl h
  all_goals rfl

/-- What an answer that the replay cache does not take leaves of its port. -/
theorem State.answered_port (h : cmd ∉ mutatingCommands) : (s.answered p cmd tag st l f).port p =
    { s.port p with framing := .responding ⟨st, tag, false, s.attention p, f, l⟩ } := by
  have hc : ¬ (cmd ∈ mutatingCommands ∧ tag ≠ 0 ∧ s.device ≠ .inReset) := fun hm => h hm.1
  cases p <;> (simp only [State.answered, State.setPort, State.port, if_neg hc])

theorem State.answered_attention (r : Port) : (s.answered p cmd tag st l f).attention r = s.attention r := by
  cases p <;> cases r <;> rfl

end

/-- Settles O13: a PORT_RESET piece by piece. -/
theorem portResetClearsThePort : Obligations.PortResetClearsThePort := by
  intro s p tag h hd
  refine ⟨_, exec_portReset h hd tag, ?_, ?_, ?_, fun n => ?_, ?_, ?_, ?_, ?_, fun n => ?_, ?_⟩
  · rw [State.answered_port _ _ _ _ _ _ _ (by decide), State.resetPort_attention, State.resetPort_port, if_pos rfl]
  · have ho : otherPort p ≠ p := by cases p <;> nofun
    rw [State.answered_other _ _ _ _ _ _ _ _ ho, State.resetPort_port, if_neg ho]
  · rw [State.answered_attention]
    exact s.resetPort_attention p
  · have hs : ((s.resetPort p).answered p .portReset tag .ok []).slot n = (s.slot n).portReset p := by
      refine (State.slot_of_slots (s := s.resetPort p) ?_ n).trans (State.slot_map (s.resetPort_slots p) rfl n)
      cases p <;> rfl
    refine (hs.trans ((s.slot n).portReset_eq p)).trans ?_
    cases (s.slot n).body <;> rfl
  · cases p <;> exact congrArg (·.queue) (s.resetPort_sched _)
  · cases p <;> exact congrArg (·.activity) (s.resetPort_sched _)
  · cases p <;> exact congrArg (·.waiters) (s.resetPort_sched _)
  · cases p <;> exact congrArg (·.nextArrival) (s.resetPort_sched _)
  · have hr : ((s.resetPort p).answered p .portReset tag .ok []).dir.record n = (s.releaseFixes p).dir.record n := by
      refine congrArg (fun d : Directory => d.record n) (Eq.trans ?_ (s.resetPort_dir p))
      cases p <;> rfl
    rw [hr, State.record_releaseFixes]
    unfold Record.withFreeze
    cases hb : (s.dir.record n).body with
    | active r => rfl
    | _ => split <;> rfl
  · have hd := s.releaseFixes_dir p
    refine ⟨?_, ?_, ?_, ?_, ?_, ?_, ?_⟩
    · cases p <;> exact (congrArg (·.scrub) (s.resetPort_dir _)).trans hd.1
    · cases p <;> exact (congrArg (·.withdrawn) (s.resetPort_dir _)).trans hd.2
    · cases p <;> exact s.resetPort_array _
    · cases p <;> exact s.resetPort_store _
    · cases p <;> exact s.resetPort_device _
    · cases p <;> exact s.resetPort_formatWithdrawn _
    · cases p <;> exact s.resetPort_draws _

/-! ## UNIT_INFO -/

section
variable {s : State} {d : Directory} {u : Nat}

theorem Directory.placed_of_placeLaw (h : s.PlaceLaw) : s.dir.Placed := h.working

theorem Directory.holder_eq (h : d.Placed) {n : Nat} {e : Extent} (hn : d.units n = some e) (he : e.contains u = true) :
    d.holder u = some n := by
  have hl : n < d.records.length := Directory.lt_of_body fun hb => by rw [Directory.units, hb] at hn; cases hn
  refine findIdx?_eq_some_of Record.blank hl ?_ fun m hm => ?_
  · show (d.units n).any (fun e => e.contains u) = true
    rw [hn]
    exact he
  · show (d.units m).any (fun e => e.contains u) = false
    cases hu : d.units m with
    | none => rfl
    | some f => exact eq_false_of_ne_true fun hf => absurd (h.regions m n f e u hu hn hf he) hm.ne

theorem Directory.holder_none (h : ∀ n e, d.units n = some e → e.contains u = false) : d.holder u = none := by
  refine List.findIdx?_eq_none_iff.2 fun x hx => ?_
  obtain ⟨n, hn, rfl⟩ := List.getElem_of_mem hx
  have := h n
  rw [Directory.units, Directory.record_eq hn] at this
  cases hb : (d.records[n]).body.units with
  | none => rfl
  | some e => exact this e hb

theorem Directory.scrubOf_eq (h : d.Placed) {i : Nat} {f : ScrubExtent} (hi : d.scrub[i]? = some f)
    (hf : f.extent.contains u = true) : d.scrubOf u = some i := by
  obtain ⟨hl, rfl⟩ := List.getElem?_eq_some_iff.1 hi
  refine List.findIdx?_eq_some_iff_getElem.2 ⟨hl, hf, fun j hj => ?_⟩
  intro hc
  have hjl : j < d.scrub.length := hj.trans hl
  refine absurd (h.scrubbed j i (d.scrub[j]).extent (d.scrub[i]).extent u ?_ ?_ hc hf) hj.ne
  · simp [Directory.scrubRanges, hjl]
  · simp [Directory.scrubRanges, hl]

/-- The place of a unit of a region, in its recorded extent or its pending growth (R45). -/
theorem Directory.place_region (h : d.Placed) {n : Nat} {e : Extent} (hn : d.units n = some e)
    (he : e.contains u = true) : (d.place u).bytes =
      0 :: byteOf n :: (d.record n).generation :: halfOf (u - e.first) ++
        [if (d.extentOf n).contains u then (0 : Byte) else 1] := by
  have hf : (d.extentOf n).first = e.first := by
    unfold Directory.units at hn
    unfold Directory.extentOf
    cases hb : (d.record n).body <;> rw [hb] at hn <;> cases hn <;> rfl
  have hle : e.first ≤ u := by
    unfold Extent.contains at he
    simp only [Bool.and_eq_true, decide_eq_true_eq] at he
    exact he.1
  have hg : boolCode (decide ((d.extentOf n).first + (d.extentOf n).count ≤ u)) =
      if (d.extentOf n).contains u then (0 : Byte) else 1 := by
    unfold boolCode Extent.contains
    rw [hf]
    by_cases hc : e.first + (d.extentOf n).count ≤ u
    · simp [hc, hle]
    · simp [hc, hle, Nat.lt_of_not_le hc]
  unfold Directory.place
  rw [Directory.holder_eq h hn he, ← hf, ← hg]
  rfl

theorem Directory.place_withdrawn (h : d.Placed) (hw : u ∈ d.withdrawn) : d.place u = .withdrawn := by
  have hn : d.holder u = none := Directory.holder_none fun n e he => eq_false_of_ne_true fun hc =>
    (h.apart n e u he hc).1 hw
  unfold Directory.place
  rw [hn]
  simp [hw]

theorem Directory.place_scrub (h : d.Placed) (hw : u ∉ d.withdrawn) {i : Nat} {f : ScrubExtent}
    (hi : d.scrub[i]? = some f) (hf : f.extent.contains u = true) :
    d.place u = .scrub (i + 1) (decide (u < f.extent.first + f.progress)) := by
  have hn : d.holder u = none := Directory.holder_none fun n e he => eq_false_of_ne_true fun hc => by
    have := (h.apart n e u he hc).2 f.extent (List.mem_map.2 ⟨f, List.mem_of_getElem? hi, rfl⟩)
    rw [hf] at this
    cases this
  unfold Directory.place
  rw [hn]
  simp [hw, Directory.scrubOf_eq h hi hf, List.getD_eq_getElem?_getD, hi]

theorem Directory.place_free (hr : ∀ n e, d.units n = some e → e.contains u = false) (hw : u ∉ d.withdrawn)
    (hs : ∀ f ∈ d.scrub, f.extent.contains u = false) : d.place u = .free := by
  have hn : d.scrubOf u = none := List.findIdx?_eq_none_iff.2 fun f hf => hs f hf
  unfold Directory.place
  rw [Directory.holder_none hr]
  simp [hw, hn]

theorem exec_unitInfo {p : Port} {tag : Byte} {v : Half} (h : s.Receives p .unitInfo tag) (hv : v.toNat ≤ 1023)
    (hd : s.device ≠ .starting) :
    exec (.unitInfo p tag v) s = .next (s.answered p .unitInfo tag .ok (s.unitInfo v.toNat)) := by
  have ha : s.device.answer .unitInfo = none := by
    cases he : s.device
    case inReset => exact absurd he h.alive
    case starting => exact absurd he hd
    all_goals decide
  exact exec_reads (i := .unitInfo p tag v) (heldBack := fun _ => false) (a := v.toNat)
    (block := fun u s => (s, some (.ok (s.unitInfo u)))) (r := .ok (s.unitInfo v.toNat)) rfl h rfl
    (unitOperand_eq hv) ha rfl rfl

end

/-- Settles O14: by the one place of the unit. -/
theorem unitInfoReportsThePlace : Obligations.UnitInfoReportsThePlace := by
  intro s p tag u x h hu hd hp hx
  have hx : s.assignment u.toNat = x := by
    have hw := Directory.placed_of_placeLaw hp
    unfold State.assignment
    rcases hx with ⟨hl, n, e, hn, he, rfl⟩ | ⟨hl, hm, rfl⟩ | ⟨hl, hm, i, f, hi, hf, rfl⟩ | ⟨hl, hm, hs, hr, rfl⟩ |
      ⟨hl, hm, rfl⟩ | ⟨hl, hm, rfl⟩ <;> rw [hl]
    · exact Directory.place_region hw hn he
    · rw [Directory.place_withdrawn hw hm]; rfl
    · rw [Directory.place_scrub hw hm hi hf]
      by_cases hc : u.toNat < f.extent.first + f.progress
      · simp [Place.bytes, boolCode, hc]
      · simp [Place.bytes, boolCode, hc]
    · rw [Directory.place_free hr hm hs]; rfl
    · simp [hm]; rfl
    · simp [hm]
  rw [exec_unitInfo h hu hd, ← hx]
  rfl

end Sys2Proof.Machine
end

section
/-! PROOFS. The directory's queries: LIST, LOOKUP and READ_RECORD (R41 to R43). -/

set_option Elab.async false

namespace Sys2Proof.Machine

section
variable {s : State} {p : Port} {tag : Byte}

/-! ## LIST -/

theorem RecordBody.name_isSome (b : RecordBody) : b.name.isSome = (b != .free) := by
  cases b <;> simp [RecordBody.name, RecordBody.ident]

theorem Directory.listEntries_length (d : Directory) :
    d.listEntries.length = d.records.countP fun r => r.body != .free :=
  length_filterMap_mapIdx _ _ _ _ fun n r => by
    rw [id, Record.listEntry, Option.isSome_map, RecordBody.name_isSome]

theorem Directory.listEntries_flatten (d : Directory) : d.listEntries.flatten =
    (List.range d.records.length).flatMap fun n => ((d.record n).listEntry n).getD [] :=
  flatten_filterMap_mapIdx _ _ _ Record.blank

theorem exec_list (h : s.Receives p .list tag) (hl : s.loaded = true) :
    exec (.list p tag) s = .next (s.answered p .list tag .ok
      (byteOf s.dir.listEntries.length :: s.dir.listEntries.flatten)) :=
  exec_reads (i := .list p tag) (args := some ()) (heldBack := fun _ => false)
    (block := fun _ s => (s, some (.ok (byteOf s.dir.listEntries.length :: s.dir.listEntries.flatten))))
    (r := .ok (byteOf s.dir.listEntries.length :: s.dir.listEntries.flatten)) rfl h rfl rfl
    (Device.answer_none_of_loaded hl (by decide) (by decide)) rfl rfl

/-! ## LOOKUP -/

theorem exec_lookup {name : List Byte} {r : Reply} (h : s.Receives p .lookup tag) (hl : s.loaded = true)
    (hv : ValidName name) (hr : lookupBlock name s = (s, some r)) :
    exec (.lookup p tag name) s = .next (s.answered p .lookup tag r.status r.result r.incompleteData) :=
  exec_reads (i := .lookup p tag name) (heldBack := fun _ => false) rfl h rfl (nameOperand_eq hv)
    (Device.answer_none_of_loaded hl (by decide) (by decide)) rfl hr

theorem lookupBlock_found {name : List Byte} {n : Nat} (hl : s.NameLaw) (hn : (s.dir.record n).body.name = some name) :
    lookupBlock name s =
      (s, some (.ok [byteOf n, (s.dir.record n).generation, (s.dir.record n).body.code])) := by
  unfold lookupBlock
  rw [Directory.findName_eq hn fun m hm => hl.working m n name hm hn]

theorem lookupBlock_missing {name : List Byte} (h : ∀ n, (s.dir.record n).body.name ≠ some name) :
    lookupBlock name s = (s, some (.refusal .noSuchRegion)) := by
  unfold lookupBlock
  rw [Directory.findName_none h]
  rfl

/-! ## READ_RECORD -/

theorem exec_readRecord {n : Byte} (h : s.Receives p .readRecord tag) (hl : s.loaded = true) (hn : n.toNat ≤ 31) :
    exec (.readRecord p tag n) s = .next (s.answered p .readRecord tag .ok
      ((s.dir.record n.toNat).readBytes n.toNat)) :=
  exec_reads (i := .readRecord p tag n) (heldBack := fun _ => false) (a := n.toNat)
    (block := fun n s => (s, some (.ok ((s.dir.record n).readBytes n))))
    (r := .ok ((s.dir.record n.toNat).readBytes n.toNat)) rfl h rfl (regionOperand_eq hn)
    (Device.answer_none_of_loaded hl (by decide) (by decide)) rfl rfl

theorem portCode_eq (p : Port) : portCode p = if p = .a then 0 else 1 := by cases p <;> rfl

theorem byteOf_toNat (n : Byte) : byteOf n.toNat = n := by simp [byteOf]

theorem halfOf_zero : halfOf 0 = [0, 0] := by decide

theorem be32_zero : be32 0 = [0, 0, 0, 0] := by decide

theorem nameField_nil : nameField [] = List.replicate 13 0 := by decide

theorem RecordBody.presence_free : RecordBody.presence .free = 0 := by decide

theorem RecordBody.presence_pending (i : Identity) (e : Extent) : RecordBody.presence (.pending i e) = 27 := by
  show bits [true, true, false, true, true, false] = 27
  decide

theorem RecordBody.presence_retiring (i : Identity) : RecordBody.presence (.retiring i) = 25 := by
  show bits [true, false, false, true, true, false] = 25
  decide

theorem RecordBody.presence_active (r : Region) : RecordBody.presence (.active r) =
    27 + (if r.growth.isSome then 4 else 0) + (if (RecordBody.checkWord (.active r)).isSome then 32 else 0) := by
  have hb : RecordBody.presence (.active r) =
      bits [true, true, r.growth.isSome, true, true, (RecordBody.checkWord (.active r)).isSome] := by
    obtain ⟨i, e, growth, l⟩ := r
    cases l with
    | fixed w => cases w <;> rfl
    | _ => rfl
  rw [hb]
  cases r.growth.isSome <;> cases (RecordBody.checkWord (.active r)).isSome <;> decide

theorem Record.readBytes_free (n : Nat) (g : Byte) :
    Record.readBytes n ⟨g, .free⟩ = byteOf n :: 0 :: g :: List.replicate 27 0 := by
  show [byteOf n, 0, g, RecordBody.presence .free] ++ nameField [] ++ halfOf 0 ++ halfOf 0 ++ halfOf 0 ++ [0, 0, 0] ++
    be32 0 = _
  rw [RecordBody.presence_free, nameField_nil, halfOf_zero, be32_zero]
  rfl

theorem Record.readBytes_pending (n : Nat) (g : Byte) (i : Identity) (e : Extent) :
    Record.readBytes n ⟨g, .pending i e⟩ = byteOf n :: 1 :: g :: 27 :: byteOf i.name.length :: i.name ++
      List.replicate (12 - i.name.length) 0 ++ halfOf e.first ++ halfOf e.count ++ [0, 0] ++
      [if i.owner = .a then 0 else 1, i.rights.code, 0, 0, 0, 0, 0] := by
  show [byteOf n, 1, g, RecordBody.presence (.pending i e)] ++ nameField i.name ++ halfOf e.first ++ halfOf e.count ++
    halfOf 0 ++ [portCode i.owner, i.rights.code, 0] ++ be32 0 = _
  rw [RecordBody.presence_pending, halfOf_zero, be32_zero, portCode_eq]
  simp [nameField]

theorem Record.readBytes_retiring (n : Nat) (g : Byte) (i : Identity) :
    Record.readBytes n ⟨g, .retiring i⟩ = byteOf n :: 3 :: g :: 25 :: byteOf i.name.length :: i.name ++
      List.replicate (12 - i.name.length) 0 ++ [0, 0, 0, 0, 0, 0] ++
      [if i.owner = .a then 0 else 1, i.rights.code, 0, 0, 0, 0, 0] := by
  show [byteOf n, 3, g, RecordBody.presence (.retiring i)] ++ nameField i.name ++ halfOf 0 ++ halfOf 0 ++
    halfOf 0 ++ [portCode i.owner, i.rights.code, 0] ++ be32 0 = _
  rw [RecordBody.presence_retiring, halfOf_zero, be32_zero, portCode_eq]
  simp [nameField]

theorem Record.readBytes_active (n : Nat) (g : Byte) (r : Region) (w : Option Word)
    (hw : RecordBody.checkWord (.active r) = w) :
    Record.readBytes n ⟨g, .active r⟩ =
      byteOf n :: 2 :: g :: (27 + (if r.growth.isSome then 4 else 0) + (if w.isSome then 32 else 0)) ::
        byteOf r.ident.name.length :: r.ident.name ++ List.replicate (12 - r.ident.name.length) 0 ++
        halfOf r.extent.first ++ halfOf r.extent.count ++ halfOf (r.growth.getD 0) ++
        [if r.ident.owner = .a then 0 else 1, r.ident.rights.code, r.freeze.code] ++ be32 (w.getD 0) := by
  show [byteOf n, 2, g, RecordBody.presence (.active r)] ++ nameField r.ident.name ++ halfOf r.extent.first ++
    halfOf r.extent.count ++ halfOf (r.growth.getD 0) ++ [portCode r.ident.owner, r.ident.rights.code, r.freeze.code] ++
    be32 ((RecordBody.checkWord (.active r)).getD 0) = _
  rw [RecordBody.presence_active r, hw, portCode_eq]
  simp [nameField]

end

/-- Settles O15: the records one by one, and the name's one record. -/
theorem directoryQueriesAnswer : Obligations.DirectoryQueriesAnswer := by
  intro s p tag hl
  refine ⟨fun h => ?_, fun name h hv => ⟨fun n hn hname => ?_, fun hname => ?_⟩, fun n h hn g b x hrec hx => ?_⟩
  · have he : ((List.range s.dir.records.length).flatMap fun n => ((s.dir.record n).listEntry n).getD []) =
        (List.range s.dir.records.length).flatMap fun n => match (s.dir.record n).body.name with
          | some x => byteOf n :: (s.dir.record n).generation :: (s.dir.record n).body.code :: byteOf x.length :: x
          | none => [] := by
      refine List.flatMap_congr fun n _ => ?_
      unfold Record.listEntry
      cases (s.dir.record n).body.name <;> rfl
    rw [exec_list h hl, Directory.listEntries_length, Directory.listEntries_flatten, he] <;> rfl
  · exact exec_lookup h hl hv (lookupBlock_found hn hname)
  · exact exec_lookup h hl hv (lookupBlock_missing hname)
  · have hb : Record.readBytes n.toNat ⟨g, b⟩ = n :: x := by
      rcases hx with ⟨rfl, rfl⟩ | ⟨i, e, rfl, rfl⟩ | ⟨i, rfl, rfl⟩ | ⟨r, _, word, rfl, rfl, hw, rfl⟩
      · rw [Record.readBytes_free, byteOf_toNat]
      · rw [Record.readBytes_pending, byteOf_toNat]; rfl
      · rw [Record.readBytes_retiring, byteOf_toNat]; rfl
      · have hc : RecordBody.checkWord (.active r) = word := by
          rw [← hw]
          obtain ⟨i, e, growth, l⟩ := r
          cases l <;> rfl
        rw [Record.readBytes_active _ _ r word hc, byteOf_toNat]; rfl
    rw [exec_readRecord h hl hn, hrec, hb]

end Sys2Proof.Machine
end

section
/-! PROOFS. The checks of the owner-only region commands, the first that refuses giving the answer (R51). -/

set_option Elab.async false

namespace Sys2Proof.Machine

/-! ## Checks in order -/

/-- A command's checks as the model evaluates them agree with a list of what refuses it. -/
def ChecksAgree (c : Option Status) (m : List (Prop × Status)) : Prop :=
  ∃ l : List (Bool × Status), c = firstOf l ∧ List.Forall₂ (fun x y => (x.1 = true ↔ y.1) ∧ x.2 = y.2) l m

section
variable {c : Option Status} {m : List (Prop × Status)} {st : Status}

theorem firstOf_cons (b : Bool) (st : Status) (l : List (Bool × Status)) :
    firstOf ((b, st) :: l) = if b then some st else firstOf l := by
  unfold firstOf
  cases b <;> rfl

theorem ChecksAgree.none (h : ChecksAgree c m) (hm : ∀ y ∈ m, ¬ y.1) : c = none := by
  obtain ⟨l, rfl, hl⟩ := h
  induction hl with
  | nil => rfl
  | @cons x y l m hxy _ ih =>
    have hx : x.1 = false := eq_false_of_ne_true fun hx => hm y (by simp) (hxy.1.1 hx)
    rw [show x = (x.1, x.2) from rfl, firstOf_cons, hx]
    exact ih fun z hz => hm z (List.mem_cons_of_mem _ hz)

theorem firstRefusal_cons (P : Prop) (st' : Status) : FirstRefusal ((P, st') :: m) st ↔
    P ∧ st' = st ∨ ¬ P ∧ FirstRefusal m st := by
  constructor
  · rintro ⟨before, refuses, rest, he, hr, hb⟩
    cases before with
    | nil => cases he; exact .inl ⟨hr, rfl⟩
    | cons x before =>
      cases he
      exact .inr ⟨hb (P, st') (by simp), before, refuses, rest, rfl, hr, fun y hy => hb y (List.mem_cons_of_mem _ hy)⟩
  · rintro (⟨hP, rfl⟩ | ⟨hP, before, refuses, rest, rfl, hr, hb⟩)
    · exact ⟨[], P, m, rfl, hP, by simp⟩
    · exact ⟨(P, st') :: before, refuses, rest, rfl, hr, by simpa [hP] using hb⟩

theorem not_firstRefusal_nil : ¬ FirstRefusal [] st := by
  rintro ⟨before, refuses, rest, he, _⟩
  cases before <;> cases he

theorem ChecksAgree.some (h : ChecksAgree c m) (hm : FirstRefusal m st) : c = some st := by
  obtain ⟨l, rfl, hl⟩ := h
  induction hl with
  | nil => exact absurd hm not_firstRefusal_nil
  | @cons x y l m hxy _ ih =>
    rw [show x = (x.1, x.2) from rfl, firstOf_cons]
    rcases (firstRefusal_cons y.1 y.2).1 hm with ⟨hy, rfl⟩ | ⟨hy, hm⟩
    · rw [if_pos (hxy.1.2 hy), hxy.2]
    · rw [if_neg fun hx => hy (hxy.1.1 hx), ih hm]

/-- The first refusal of two lists of checks is the first of the one, or, where none of it refuses, of the other. -/
theorem firstRefusal_append (l : List (Prop × Status)) : FirstRefusal (l ++ m) st ↔
    FirstRefusal l st ∨ (∀ y ∈ l, ¬ y.1) ∧ FirstRefusal m st := by
  induction l with
  | nil => simp [not_firstRefusal_nil]
  | cons x l ih =>
    rw [List.cons_append, show x = (x.1, x.2) from rfl, firstRefusal_cons, firstRefusal_cons, ih]
    simp only [List.forall_mem_cons]
    tauto

end

/-! ## The slot check -/

theorem State.slotCheck_refuses {s : State} {p : Port} {st : Status} (h : FirstRefusal (s.slotChecks p) st) :
    s.slotCheck p = .error st := by
  unfold State.slotChecks at h
  rcases (firstRefusal_cons _ _).1 h with ⟨hf, rfl⟩ | ⟨hf, h⟩
  · exact State.slotCheck_full p hf
  · rcases (firstRefusal_cons _ _).1 h with ⟨hq, rfl⟩ | ⟨_, h⟩
    · simp only [not_forall, not_not] at hf
      obtain ⟨n, hn, hb⟩ := hf
      exact State.slotCheck_quota p ⟨n, hn, hb⟩ hq
    · exact absurd h not_firstRefusal_nil

/-! ## An owner-only command -/

/-- The request is taken as an owner-only command with these checks and this acceptance (R51). -/
inductive RunsOwner (i : Instr) (s : State) (p : Port) (tag : Byte) (cmd : Cmd) (ref : RegionRef)
    (checks : Region → Option Status) (accept : Region → Nat → State → State) : Prop
  | intro {α : Type} {args : Option α} {heldBack : α → Bool} {block : α → State → State × Option Reply} {x : α}
      (take : takeRequest i s = s.take i p cmd tag args heldBack block) (args_eq : args = some x)
      (runs : block x s = s.ownerCommand p ref checks accept) : RunsOwner i s p tag cmd ref checks accept

section
variable {s : State} {i : Instr} {p : Port} {tag : Byte} {cmd : Cmd} {params : List Byte} {ref : RegionRef}
  {checks : Region → Option Status} {accept : Region → Nat → State → State}

theorem RunsOwner.exec {t : State} {r : Reply} (h : RunsOwner i s p tag cmd ref checks accept)
    (hi : i.request = some (p, tag, cmd, params)) (hr : s.Receives p cmd tag) (hd : s.device.answer cmd = none)
    (hin : (s.port p).inhibit = false) (hk : s.ownerCommand p ref checks accept = (t, some r)) (hu : t.Decided p) :
    exec i s = .next (t.answered p cmd tag r.status r.result r.incompleteData) := by
  obtain ⟨take, args_eq, runs⟩ := h
  exact exec_decided hi hr take args_eq hd (by rw [hin, Bool.and_false]) (runs.trans hk) hu

theorem RunsOwner.refused {st : Status} (h : RunsOwner i s p tag cmd ref checks accept)
    (hi : i.request = some (p, tag, cmd, params)) (hr : s.Receives p cmd tag) (hd : s.device.answer cmd = none)
    (hin : (s.port p).inhibit = false) (hk : s.ownerCommand p ref checks accept = refuse st s) :
    Machine.exec i s = .next (s.answered p cmd tag st []) :=
  h.exec hi hr hd hin hk hr.decided

theorem State.ownerCommand_noRegion (h : s.dir.resolve ref = none) :
    s.ownerCommand p ref checks accept = refuse .noSuchRegion s := by
  unfold State.ownerCommand State.ownerHead
  rw [h]

theorem State.ownerCommand_notActive {b : RecordBody} (h : s.dir.resolve ref = some b) (hb : ∀ a, b ≠ .active a) :
    s.ownerCommand p ref checks accept = refuse .notActive s := by
  unfold State.ownerCommand State.ownerHead
  rw [h]
  cases b with
  | active a => exact absurd rfl (hb a)
  | _ => rfl

variable {a : Region} (ha : s.dir.resolve ref = some (.active a))
include ha

theorem State.ownerCommand_notOwner (h : a.ident.owner ≠ p) :
    s.ownerCommand p ref checks accept = refuse .notOwner s := by
  unfold State.ownerCommand State.ownerHead
  rw [ha]
  simp only [if_neg h]

variable (ho : a.ident.owner = p)
include ho

theorem State.ownerHead_eq : s.ownerHead p ref = .ok a := by
  unfold State.ownerHead
  rw [ha]
  exact if_pos ho

theorem State.ownerCommand_checked {st : Status} (h : checks a = some st) :
    s.ownerCommand p ref checks accept = refuse st s := by
  unfold State.ownerCommand
  rw [State.ownerHead_eq ha ho]
  simp only [h]

theorem State.ownerCommand_slot {st : Status} (h : checks a = none) (hs : s.slotCheck p = .error st) :
    s.ownerCommand p ref checks accept = refuse st s := by
  unfold State.ownerCommand
  rw [State.ownerHead_eq ha ho]
  simp only [h, hs]

theorem State.ownerCommand_accepts {n : Nat} (h : checks a = none) (hs : s.OffersSlot p n) :
    s.ownerCommand p ref checks accept = (accept a n s, some (.ok (s.ticketBytes n))) := by
  unfold State.ownerCommand
  rw [State.ownerHead_eq ha ho]
  simp only [h, hs.check]
  rfl

end

/-! ## The seven commands -/

section
variable {s : State} {p : Port} {tag r g : Byte}

theorem grow_runsOwner {n : Half} (h : Instr.InRange (.grow p tag r g n)) :
    RunsOwner (.grow p tag r g n) s p tag .grow ⟨r.toNat, g⟩ (growChecks s n.toNat)
      (State.acceptGrow p ⟨r.toNat, g⟩ n.toNat) :=
  ⟨rfl, growOperands_eq h.1 h.2.1 h.2.2, rfl⟩

theorem shrink_runsOwner {n : Half} {o : Byte} {v : Bool} (h : Instr.InRange (.shrink p tag r g n o))
    (ho : overrideOf o = some v) :
    RunsOwner (.shrink p tag r g n o) s p tag .shrink ⟨r.toNat, g⟩ (shrinkChecks s ⟨r.toNat, g⟩ n.toNat v)
      (State.acceptShrink p ⟨r.toNat, g⟩ n.toNat v) :=
  ⟨rfl, shrinkOperands_eq h.1 h.2.1 h.2.2.1 ho, rfl⟩

theorem retire_runsOwner {o : Byte} {v : Bool} (h : Instr.InRange (.retire p tag r g o)) (ho : overrideOf o = some v) :
    RunsOwner (.retire p tag r g o) s p tag .retire ⟨r.toNat, g⟩ (retireChecks s ⟨r.toNat, g⟩ v)
      (State.acceptRetire p ⟨r.toNat, g⟩ v) :=
  ⟨rfl, overrideOperands_eq h.1 ho, rfl⟩

theorem grant_runsOwner {c o : Byte} {w : Rights} {v : Bool} (h : Instr.InRange (.grant p tag r g c o))
    (hw : w.code = c) (ho : overrideOf o = some v) :
    RunsOwner (.grant p tag r g c o) s p tag .grant ⟨r.toNat, g⟩ (grantChecks s p ⟨r.toNat, g⟩ w v)
      (State.acceptGrant p ⟨r.toNat, g⟩ w v) :=
  ⟨rfl, grantOperands_eq h.1 hw ho, rfl⟩

theorem hold_runsOwner {o : Byte} {v : Bool} (h : Instr.InRange (.hold p tag r g o)) (ho : overrideOf o = some v) :
    RunsOwner (.hold p tag r g o) s p tag .hold ⟨r.toNat, g⟩ (holdChecks s ⟨r.toNat, g⟩ v)
      (State.acceptHold p ⟨r.toNat, g⟩ v) :=
  ⟨rfl, overrideOperands_eq h.1 ho, rfl⟩

/-- THAW's own checks (R75). -/
def thawChecks (a : Region) : Option Status := firstOf [(a.freeze.beyondHold, .frozen)]

theorem thaw_runsOwner (h : Instr.InRange (.thaw p tag r g)) :
    RunsOwner (.thaw p tag r g) s p tag .thaw ⟨r.toNat, g⟩ thawChecks (State.acceptThaw p ⟨r.toNat, g⟩) :=
  ⟨rfl, refOperand_eq h, rfl⟩

theorem fix_runsOwner (h : Instr.InRange (.fix p tag r g)) :
    RunsOwner (.fix p tag r g) s p tag .fix ⟨r.toNat, g⟩ fixChecks (State.acceptFix p ⟨r.toNat, g⟩) :=
  ⟨rfl, refOperand_eq h, rfl⟩

/-! ### Their checks -/

theorem State.anySlot_iff_someSlot {f : SlotBody → Bool} {P : SlotBody → Prop} (h : ∀ b, f b = true ↔ P b) :
    s.anySlot f = true ↔ s.SomeSlot P := by
  rw [State.anySlot_iff]
  simp only [h]
  rfl

theorem State.anyOpen_iff_someOpen {f : Port → HandleInfo → Bool} {P : Port → HandleInfo → Prop}
    (h : ∀ q i, f q i = true ↔ P q i) : s.anyOpen f = true ↔ s.SomeOpen P := by
  rw [State.anyOpen_iff]
  simp only [h]
  rfl

theorem SlotState.onArray_iff (st : SlotState) : st.onArray = true ↔ st.Working := by
  cases st <;> simp [SlotState.onArray, SlotState.Working]

theorem Freeze.beyondHold_iff (l : Freeze) : l.beyondHold = true ↔ l.Beyond := by
  cases l <;> simp [Freeze.beyondHold, Freeze.Beyond]

theorem SlotBody.touchesTail_iff (b : SlotBody) (ref : RegionRef) (k : Nat) :
    b.touchesTail ref k = true ↔ b.ReachesTail ref k := by
  unfold SlotBody.touchesTail SlotBody.ReachesTail SlotBody.ofRegion
  cases b.work <;> simp [Config.unitSize]

theorem Work.ofHandle_iff (w : Work) : w.ofHandle = true ↔ w.writes = true ∨ w = .verify := by
  cases w <;> simp [Work.ofHandle, Work.writes]

theorem Mode.writes_iff (m : Mode) : m.writes = true ↔ m ≠ .read := by cases m <;> simp [Mode.writes]

theorem overrideOf_zero {o : Byte} {v : Bool} (ho : overrideOf o = some v) : (!v) = true ↔ o = 0 := by
  unfold overrideOf at ho
  split at ho
  · next h => cases ho; simp [h]
  · next h =>
    split at ho
    · cases ho; exact ⟨nofun, fun he => absurd he h⟩
    · cases ho

theorem invalidatedBy_iff {c : Byte} {w : Rights} (hw : w.code = c) (q : Port) (i : HandleInfo) (ref : RegionRef) :
    invalidatedBy p ref w q i = true ↔ i.LostBy ref p q c := by
  unfold invalidatedBy HandleInfo.LostBy
  subst hw
  have hq : q = otherPort p ↔ q ≠ p := by cases p <;> cases q <;> decide
  have hm : w.allow i.mode = false ↔ (i.mode = .read ∧ w.code = 0) ∨ (i.mode ≠ .read ∧ w.code ≠ 2) := by
    cases w <;> cases i.mode <;> decide
  simp only [Bool.and_eq_true, beq_iff_eq, Bool.not_eq_true', hq, hm, and_assoc]

theorem State.issuedThrough_iff {f : Port → HandleInfo → Bool} {P : Port → HandleInfo → Prop}
    (h : ∀ q i, f q i = true ↔ P q i) (b : SlotBody) : s.issuedThrough f b = true ↔
      ∃ q k i, b.port = some q ∧ b.handle = some k ∧ s.handle q k = .opened i ∧ P q i := by
  unfold State.issuedThrough
  cases hq : b.port with
  | none => simp
  | some q =>
    cases hk : b.handle with
    | none => simp
    | some k =>
      cases hh : s.handle q k <;> simp [Handle.openWith, hh, h]

theorem growChecks_agree (a : Region) (n : Half) :
    ChecksAgree (growChecks s n.toNat a) (s.ownChecks a (.grow p tag r g n)) := by
  refine ⟨_, rfl, ?_⟩
  simp only [State.ownChecks, List.forall₂_cons, List.forall₂_nil_left_iff, and_true]
  exact ⟨by simp, by simp [Option.isSome_iff_ne_none], by simp [← State.fits_iff]⟩

theorem shrinkChecks_agree (a : Region) (n : Half) {o : Byte} {v : Bool} (ho : overrideOf o = some v) :
    ChecksAgree (shrinkChecks s ⟨r.toNat, g⟩ n.toNat v a) (s.ownChecks a (.shrink p tag r g n o)) := by
  refine ⟨_, rfl, ?_⟩
  simp only [State.ownChecks, List.forall₂_cons, List.forall₂_nil_left_iff, and_true]
  refine ⟨by simp, by simp, by simp [Option.isSome_iff_ne_none], ?_, ?_, by simp [Config.scrubDepth]⟩
  · exact State.anySlot_iff_someSlot fun b => by
      rw [Bool.and_eq_true, SlotBody.touchesTail_iff, SlotState.onArray_iff]
  · rw [Bool.and_eq_true, overrideOf_zero ho]
    exact and_congr_right fun _ => State.anySlot_iff_someSlot fun b => by
      rw [Bool.and_eq_true, SlotBody.touchesTail_iff, beq_iff_eq]

theorem retireChecks_agree (a : Region) {o : Byte} {v : Bool} (ho : overrideOf o = some v) :
    ChecksAgree (retireChecks s ⟨r.toNat, g⟩ v a) (s.ownChecks a (.retire p tag r g o)) := by
  refine ⟨_, rfl, ?_⟩
  simp only [State.ownChecks, List.forall₂_cons, List.forall₂_nil_left_iff, and_true]
  refine ⟨by simp, by simp [Option.isSome_iff_ne_none], ?_, ?_, by simp [Config.scrubDepth]⟩
  · exact State.anySlot_iff_someSlot fun b => by
      simp only [Bool.and_eq_true, SlotBody.ofRegion, beq_iff_eq, Work.ofHandle_iff, SlotState.onArray_iff, and_assoc]
  · rw [Bool.and_eq_true, overrideOf_zero ho]
    exact and_congr_right fun _ => State.anyOpen_iff_someOpen fun q i => by unfold onRegion; exact beq_iff_eq

theorem grantChecks_agree (a : Region) {c o : Byte} {w : Rights} {v : Bool} (hw : w.code = c)
    (ho : overrideOf o = some v) :
    ChecksAgree (grantChecks s p ⟨r.toNat, g⟩ w v a) (s.ownChecks a (.grant p tag r g c o)) := by
  refine ⟨_, rfl, ?_⟩
  simp only [State.ownChecks, List.forall₂_cons, List.forall₂_nil_left_iff, and_true]
  have hl := invalidatedBy_iff (p := p) hw
  refine ⟨?_, ?_⟩
  · exact State.anySlot_iff_someSlot fun b => by
      rw [Bool.and_eq_true, State.issuedThrough_iff fun q i => hl q i _, SlotState.onArray_iff, and_comm]
  · rw [Bool.and_eq_true, overrideOf_zero ho]
    exact and_congr_right fun _ => State.anyOpen_iff_someOpen fun q i => hl q i _

theorem holdChecks_agree (a : Region) {o : Byte} {v : Bool} (ho : overrideOf o = some v) :
    ChecksAgree (holdChecks s ⟨r.toNat, g⟩ v a) (s.ownChecks a (.hold p tag r g o)) := by
  refine ⟨_, rfl, ?_⟩
  simp only [State.ownChecks, List.forall₂_cons, List.forall₂_nil_left_iff, and_true]
  refine ⟨by simp, ?_, ?_⟩
  · exact State.anySlot_iff_someSlot fun b => by
      simp only [Bool.and_eq_true, SlotBody.ofRegion, beq_iff_eq, SlotState.onArray_iff, and_assoc]
  · rw [Bool.and_eq_true, overrideOf_zero ho, Bool.or_eq_true]
    refine and_congr_right fun _ => or_congr (State.anyOpen_iff_someOpen fun q i => ?_)
      (State.anySlot_iff_someSlot fun b => ?_)
    · unfold writersOf
      rw [Bool.and_eq_true, beq_iff_eq, Mode.writes_iff]
    · simp only [Bool.and_eq_true, SlotBody.ofRegion, beq_iff_eq, and_assoc]

theorem thawChecks_agree (a : Region) : ChecksAgree (thawChecks a) (s.ownChecks a (.thaw p tag r g)) := by
  refine ⟨_, rfl, ?_⟩
  simp only [State.ownChecks, List.forall₂_cons, List.forall₂_nil_left_iff, and_true]
  exact a.freeze.beyondHold_iff

theorem fixChecks_agree (a : Region) : ChecksAgree (fixChecks a) (s.ownChecks a (.fix p tag r g)) := by
  refine ⟨_, rfl, ?_⟩
  simp only [State.ownChecks, List.forall₂_cons, List.forall₂_nil_left_iff, and_true]
  exact ⟨a.freeze.beyondHold_iff, by simp, by simp [Option.isSome_iff_ne_none]⟩

/-- An owner-only command is run with checks that agree with its own (R51). -/
inductive OwnerRun (i : Instr) (s : State) (p : Port) (tag : Byte) (cmd : Cmd) (ref : RegionRef) : Prop
  | intro {checks : Region → Option Status} {accept : Region → Nat → State → State}
      (runs : RunsOwner i s p tag cmd ref checks accept) (agree : ∀ a, ChecksAgree (checks a) (s.ownChecks a i)) :
      OwnerRun i s p tag cmd ref

theorem Rights.exists_code {c : Byte} (h : c.toNat ≤ 2) : ∃ w : Rights, w.code = c :=
  let ⟨w, hw⟩ := Rights.ofCode_some h
  ⟨w, Rights.code_of_ofCode hw⟩

theorem Instr.ownerRun {i : Instr} {cmd : Cmd} {params : List Byte} (hi : i.request = some (p, tag, cmd, params))
    (hc : i.regionCommand = some (r, g)) (h : i.InRange) (s : State) : OwnerRun i s p tag cmd ⟨r.toNat, g⟩ := by
  cases i with
  | grow => cases hi; cases hc; exact ⟨grow_runsOwner h, fun a => growChecks_agree a _⟩
  | shrink =>
    cases hi; cases hc
    obtain ⟨v, ho⟩ := overrideOf_isSome h.2.2.2
    exact ⟨shrink_runsOwner h ho, fun a => shrinkChecks_agree a _ ho⟩
  | retire =>
    cases hi; cases hc
    obtain ⟨v, ho⟩ := overrideOf_isSome h.2
    exact ⟨retire_runsOwner h ho, fun a => retireChecks_agree a ho⟩
  | grant =>
    cases hi; cases hc
    obtain ⟨w, hw⟩ := Rights.exists_code h.2.1
    obtain ⟨v, ho⟩ := overrideOf_isSome h.2.2
    exact ⟨grant_runsOwner h hw ho, fun a => grantChecks_agree a hw ho⟩
  | hold =>
    cases hi; cases hc
    obtain ⟨v, ho⟩ := overrideOf_isSome h.2
    exact ⟨hold_runsOwner h ho, fun a => holdChecks_agree a ho⟩
  | thaw => cases hi; cases hc; exact ⟨thaw_runsOwner h, fun a => thawChecks_agree a⟩
  | fix => cases hi; cases hc; exact ⟨fix_runsOwner h, fun a => fixChecks_agree a⟩
  | _ => cases hc

/-- Every owner-only command but GRANT, and a SHRINK below the count, is refused FROZEN for a FIXED region (R86). -/
theorem State.frozen_first (s : State) {i : Instr} {a : Region} {w : Option Word} (hc : i.regionCommand = some (r, g))
    {cmd : Cmd} {params : List Byte} (hi : i.request = some (p, tag, cmd, params)) (hw : a.freeze = .fixed w)
    (hg : ∀ v o, i ≠ .grant p tag r g v o) (hs : ∀ n o, i = .shrink p tag r g n o → n.toNat < a.extent.count)
    (l : List (Prop × Status)) : FirstRefusal (s.ownChecks a i ++ l) .frozen := by
  have hf : a.freeze ≠ .openLevel := by rw [hw]; nofun
  have hb : a.freeze.Beyond := .inr ⟨w, hw⟩
  cases i with
  | grant => cases hi; cases hc; exact absurd rfl (hg _ _)
  | shrink =>
    cases hi; cases hc
    exact (firstRefusal_cons _ _).2 (.inr ⟨Nat.not_le.2 (hs _ _ rfl), (firstRefusal_cons _ _).2 (.inl ⟨hf, rfl⟩)⟩)
  | grow | retire | hold => exact (firstRefusal_cons _ _).2 (.inl ⟨hf, rfl⟩)
  | thaw | fix => exact (firstRefusal_cons _ _).2 (.inl ⟨hb, rfl⟩)
  | _ => cases hc

theorem Device.answer_control {d : Device} (hd : d = .ready) {cmd : Cmd} (h : cmd ≠ .format) : d.answer cmd = none := by
  subst hd
  exact if_neg h

theorem Instr.ne_format_of_regionCommand {i : Instr} {cmd : Cmd} {params : List Byte}
    (hc : i.regionCommand = some (r, g)) (hi : i.request = some (p, tag, cmd, params)) : cmd ≠ .format := by
  cases i <;> cases hc <;> cases hi <;> nofun

end

/-- Settles O18: the checks of the model agree with the list of what refuses, check by check. -/
theorem regionCommandHead : Obligations.RegionCommandHead := by
  intro i s p tag cmd params r g hi hc hr hd hin hrange
  obtain ⟨run, agree⟩ := Instr.ownerRun hi hc hrange s
  have ha : s.device.answer cmd = none := Device.answer_control hd (Instr.ne_format_of_regionCommand hc hi)
  refine ⟨fun hb => ?_, fun b hrec hb => ?_, fun a hrec => ⟨fun ho => ?_, fun ho => ?_⟩⟩
  · refine run.refused hi hr ha hin (State.ownerCommand_noRegion ?_)
    unfold Directory.resolve
    rcases hb with hb | hb
    · simp [hb]
    · simp [hb]
  · refine run.refused hi hr ha hin (State.ownerCommand_notActive (b := b) ?_ ?_)
    · unfold Directory.resolve
      rcases hb with ⟨d, e, rfl⟩ | ⟨d, rfl⟩ <;> simp [hrec]
    · rcases hb with ⟨d, e, rfl⟩ | ⟨d, rfl⟩ <;> nofun
  · exact run.refused hi hr ha hin (State.ownerCommand_notOwner (Directory.resolve_active hrec) ho)
  · have hfirst : ∀ st, FirstRefusal (s.ownChecks a i ++ s.slotChecks p) st →
        exec i s = .next (s.answered p cmd tag st []) := by
      intro st hst
      rcases (firstRefusal_append _).1 hst with hst | ⟨hown, hst⟩
      · exact run.refused hi hr ha hin
          (State.ownerCommand_checked (Directory.resolve_active hrec) ho ((agree a).some hst))
      · exact run.refused hi hr ha hin (State.ownerCommand_slot (Directory.resolve_active hrec) ho ((agree a).none hown)
          (State.slotCheck_refuses hst))
    exact ⟨hfirst, fun w hw hg hs => hfirst _ (s.frozen_first hc hi hw hg hs _)⟩

end Sys2Proof.Machine
end

section
/-! PROOFS. The control commands accepted: what each makes of its record, its slot and the scrub list (R53 to R77). -/

set_option Elab.async false

namespace Sys2Proof.Machine

/-! ## What the acceptances share -/

section
variable {s : State} {i : Instr} {p : Port} {tag : Byte} {cmd : Cmd} {params : List Byte} {r g : Byte}
  {checks : Region → Option Status} {accept : Region → Nat → State → State} {a : Region} {n : Nat} {t : State}

theorem RunsOwner.accepted (h : RunsOwner i s p tag cmd ⟨r.toNat, g⟩ checks accept)
    (hi : i.request = some (p, tag, cmd, params)) (hr : s.Receives p cmd tag) (hd : s.device = .ready)
    (hin : (s.port p).inhibit = false) (hrec : s.dir.record r.toNat = ⟨g, .active a⟩) (ho : a.ident.owner = p)
    (hc : checks a = none) (hs : s.OffersSlot p n) (he : accept a n s = t) (hu : t.Decided p)
    (hf : cmd ≠ .format := by decide) : Machine.exec i s = .next (t.answered p cmd tag .ok (s.ticketBytes n)) := by
  subst he
  exact h.exec hi hr (Device.answer_control hd hf) hin
    (State.ownerCommand_accepts (Directory.resolve_active hrec) ho hc hs) hu

theorem State.awaitsDirectory_decided {d : Directory} {w : Work} {ref : RegionRef} (h : t.Decided p) :
    (State.awaitsDirectory { t with dir := d } p w ref n).Decided p :=
  h.congr (by rw [State.awaitsDirectory_port]; cases p <;> rfl)

/-- The state an override leaves, whichever the override byte is (R57). -/
theorem override_state {o : Byte} {v : Bool} {s' : State} (ho : overrideOf o = some v) (h0 : o = 0 → t = s)
    (h1 : o = 1 → t = s') : t = if v then s' else s := by
  unfold overrideOf at ho
  split at ho
  · next h => cases ho; exact h0 h
  · split at ho
    · next h => cases ho; exact h1 h
    · cases ho

theorem State.slots_length_invalidateIf (v : Bool) (f : Port → HandleInfo → Bool) :
    (if v then s.invalidate f else s).slots.length = s.slots.length := by
  cases v
  · rfl
  · exact List.length_map _

theorem State.dir_invalidateIf (v : Bool) (f : Port → HandleInfo → Bool) :
    (if v then s.invalidate f else s).dir = s.dir := by
  cases v <;> rfl

/-- An acceptance that changes one ACTIVE record, after the effects of any override. -/
theorem State.waitDirectory_mapRegion {f : Region → Region} {w : Work} (hrec : s.dir.record r.toNat = ⟨g, .active a⟩)
    (hd : t.dir = s.dir) (hl : t.slots.length = s.slots.length) (hs : s.OffersSlot p n) :
    State.waitDirectory { t with dir := t.dir.mapRegion r.toNat f } p w ⟨r.toNat, g⟩ n =
      State.awaitsDirectory { t with dir := s.dir.setBody r.toNat (.active (f a)) } p w ⟨r.toNat, g⟩ n := by
  rw [State.waitDirectory_eq (hl ▸ hs.inTable), hd, Directory.mapRegion_eq (by rw [hrec])]

theorem Directory.setBody_active {d : Directory} (hrec : d.record r.toNat = ⟨g, .active a⟩) (b : RecordBody) :
    d.setBody r.toNat b = { d with records := d.records.set r.toNat ⟨g, b⟩ } := by
  rw [Directory.setBody_eq _ _ _ (Directory.lt_of_active hrec), hrec]

end

/-! ## GROW -/

/-- Settles O19: no check refuses, and the record keeps its extent. -/
theorem growMakesPendingGrowth : Obligations.GrowMakesPendingGrowth := by
  intro s p tag r g added a slot hr hd hin hrange hrec ho hopen hgrowth hfits hs
  have hc : growChecks s added.toNat a = none := (growChecks_agree (p := p) (tag := tag) (r := r) (g := g) a added).none
    (by simp [State.ownChecks, hopen, hgrowth, hfits])
  exact (grow_runsOwner hrange).accepted rfl hr hd hin hrec ho hc hs
    (State.waitDirectory_mapRegion hrec rfl rfl hs) (State.awaitsDirectory_decided hr.decided)

/-! ## SHRINK -/

section
variable {s : State} {r g : Byte} {k : Nat} {tail : SlotBody → Bool}

theorem tail_eq (h : ∀ b, tail b = true ↔ b.region = some ⟨r.toNat, g⟩ ∧
      ((∃ o d, b.work = .program o d ∧ k ≤ o / 8192) ∨ (∃ u c, b.work = .erase u c ∧ k < u + c) ∨
        b.work = .verify)) : tail = fun b => b.touchesTail ⟨r.toNat, g⟩ k :=
  funext fun b => Bool.eq_iff_iff.2 ((h b).trans (b.touchesTail_iff ⟨r.toNat, g⟩ k).symm)

/-- A slot of the work an override ends becomes CANCELLED where it is QUEUED (R59, R100). -/
def Slot.staled (f : SlotBody → Bool) (x : Slot) : Slot :=
  match x.body with
  | some b => if f b = true ∧ b.state = .queued then ⟨x.useCount, some { b with state := .cancelled .stale }⟩ else x
  | none => x

theorem Slot.staled_eq (f : SlotBody → Bool) (x : Slot) : x.staled f =
    if x.queuedWith f then { x with body := x.body.map fun b => { b with state := .cancelled .stale } } else x := by
  obtain ⟨c, b⟩ := x
  cases b with
  | none => rfl
  | some b =>
    unfold Slot.staled Slot.queuedWith
    by_cases h : f b = true ∧ b.state = .queued
    · simp [h]
    · have hq : (b.state == .queued && f b) = false := eq_false_of_ne_true fun hb =>
        h (by simpa [and_comm] using hb)
      simp [h, hq]

theorem State.cancelQueued_eq (s : State) (f : SlotBody → Bool) : s.cancelQueued f .stale =
    { s with
      slots := s.slots.map (Slot.staled f)
      sched := { s.sched with
        queue := s.sched.queue.filter fun n => !((s.slot n).body.any fun b => f b && b.state == .queued) } } := by
  unfold State.cancelQueued
  rw [show Slot.staled f = fun x => if x.queuedWith f
    then { x with body := x.body.map fun b => { b with state := .cancelled .stale } } else x from
    funext (Slot.staled_eq f)]
  have hq : (fun n => !(s.slot n).queuedWith f) =
      fun n => !((s.slot n).body.any fun b => f b && b.state == .queued) := funext fun n => by
    unfold Slot.queuedWith
    simp only [Bool.and_comm]
  rw [hq]

end

/-- Settles O20: the override cancels what the tail's QUEUED slots are, and the record and the scrub list share the
extent. -/
theorem shrinkScrubsTheTail : Obligations.ShrinkScrubsTheTail := by
  intro s p tag r g o count a slot tail slots queue hr hd hin hrange hrec ho hlt hopen hgrowth htail hwork h0 h1 hdepth hs
  obtain ⟨v, hv⟩ := overrideOf_isSome hrange.2.2.2
  have htail' := tail_eq htail
  have hreach : ∀ b, b.ReachesTail ⟨r.toNat, g⟩ count.toNat → tail b = true := fun b hb => (htail b).2 hb
  have hc : shrinkChecks s ⟨r.toNat, g⟩ count.toNat v a = none := by
    refine (shrinkChecks_agree (p := p) (tag := tag) a count hv).none ?_
    simp only [State.ownChecks, List.forall_mem_cons, List.not_mem_nil, false_imp_iff, implies_true, and_true]
    refine ⟨Nat.not_le.2 hlt, by simp [hopen], by simp [hgrowth], ?_, ?_, Nat.not_le.2 hdepth⟩
    · rintro ⟨n, b, hb, ht, hw | hw⟩
      · exact (hwork n b hb (hreach b ht)).1 hw
      · exact (hwork n b hb (hreach b ht)).2 hw
    · rintro ⟨hz, n, b, hb, ht, hq⟩
      exact (h0 hz).1 n b hb (hreach b ht) hq
  have ht : (if v then s.cancelQueued (fun b => b.touchesTail ⟨r.toNat, g⟩ count.toNat) .stale else s) =
      { s with slots := slots, sched := { s.sched with queue := queue } } := by
    refine (override_state hv (fun hz => ?_) fun hz => ?_).symm
    · rw [(h0 hz).2.1, (h0 hz).2.2]
    · rw [(h1 hz).1, (h1 hz).2, ← htail', State.cancelQueued_eq]
      rfl
  have hl : slots.length = s.slots.length := by
    have := congrArg (fun t : State => t.slots.length) ht
    refine this.symm.trans ?_
    cases v
    · rfl
    · exact List.length_map _
  refine (shrink_runsOwner hrange hv).accepted rfl hr hd hin hrec ho hc hs ?_ (State.awaitsDirectory_decided
    (t := { s with slots := slots, sched := { s.sched with queue := queue } })
    (State.Decided.congr (s := s) hr.decided (by cases p <;> rfl)))
  unfold State.acceptShrink
  simp only [ht]
  rw [State.waitDirectory_eq (hl ▸ hs.inTable)]
  unfold Directory.shrink
  rw [Directory.mapRegion_eq (by rw [hrec]), Directory.setBody_active hrec]
  rfl

/-! ## RETIRE -/

/-- Settles O21: the override's effects, then the record and the scrub list. -/
theorem retireScrubsTheRegion : Obligations.RetireScrubsTheRegion := by
  intro s t p tag r g o a slot hr hd hin hrange hrec ho hopen hgrowth hwork hhandles hdepth hs h0 h1
  obtain ⟨v, hv⟩ := overrideOf_isSome hrange.2
  have hc : retireChecks s ⟨r.toNat, g⟩ v a = none := by
    refine (retireChecks_agree (p := p) (tag := tag) a hv).none ?_
    simp only [State.ownChecks, List.forall_mem_cons, List.not_mem_nil, false_imp_iff, implies_true, and_true]
    refine ⟨by simp [hopen], by simp [hgrowth], ?_, ?_, Nat.not_le.2 hdepth⟩
    · rintro ⟨n, b, hb, href, hw, hst⟩
      have := hwork n b hb href hw
      rw [(SlotState.onArray_iff _).2 hst] at this
      cases this
    · rintro ⟨hz, q, k, i, hi, href⟩
      exact hhandles hz q k i hi href
  have ht : t = if v then s.invalidate (onRegion ⟨r.toNat, g⟩) else s := override_state hv h0 h1
  have hu : t.Decided p := ht ▸ State.Decided.invalidateIf hr.decided v _
  refine (retire_runsOwner hrange hv).accepted rfl hr hd hin hrec ho hc hs ?_ (State.awaitsDirectory_decided hu)
  have hl : t.slots.length = s.slots.length := ht ▸ State.slots_length_invalidateIf v _
  have hdir : t.dir = s.dir := ht ▸ State.dir_invalidateIf v _
  unfold State.acceptRetire
  simp only [← ht]
  rw [State.waitDirectory_eq (hl ▸ hs.inTable), hdir]
  unfold Directory.retire
  rw [Directory.setBody_active hrec]
  rfl

/-! ## GRANT -/

/-- Settles O22: the handles the new rights invalidate are the ones the override names. -/
theorem grantReplacesTheRights : Obligations.GrantReplacesTheRights := by
  intro s t p tag r g c o w a slot lost hr hd hin hrange hw hrec ho hlost hwork hhandles hs h0 h1
  obtain ⟨v, hv⟩ := overrideOf_isSome hrange.2.2
  have hiff : ∀ q i, lost q i = true ↔ i.LostBy ⟨r.toNat, g⟩ p q c := fun q i => by
    rw [hlost, HandleInfo.LostBy]
    subst hw
    cases w <;> simp [Rights.code]
  have hlost' : lost = invalidatedBy p ⟨r.toNat, g⟩ w :=
    funext fun q => funext fun i => Bool.eq_iff_iff.2 ((hiff q i).trans (invalidatedBy_iff hw q i _).symm)
  have hc : grantChecks s p ⟨r.toNat, g⟩ w v a = none := by
    refine (grantChecks_agree (tag := tag) a hw hv).none ?_
    simp only [State.ownChecks, List.forall_mem_cons, List.not_mem_nil, false_imp_iff, implies_true, and_true]
    refine ⟨?_, ?_⟩
    · rintro ⟨n, b, hb, hst, q, k, i, hq, hk, hi, hl⟩
      have := hwork n b q k i hb hq hk hi ((hiff q i).2 hl)
      rw [(SlotState.onArray_iff _).2 hst] at this
      cases this
    · rintro ⟨hz, q, k, i, hi, hl⟩
      have := hhandles hz q k i hi
      rw [(hiff q i).2 hl] at this
      cases this
  have ht : t = if v then s.invalidate (invalidatedBy p ⟨r.toNat, g⟩ w) else s :=
    override_state hv h0 (hlost' ▸ h1)
  have hu : t.Decided p := ht ▸ State.Decided.invalidateIf hr.decided v _
  refine (grant_runsOwner hrange hw hv).accepted rfl hr hd hin hrec ho hc hs ?_ (State.awaitsDirectory_decided hu)
  unfold State.acceptGrant
  simp only [← ht]
  exact State.waitDirectory_mapRegion hrec (ht ▸ State.dir_invalidateIf v _)
    (ht ▸ State.slots_length_invalidateIf v _) hs

/-! ## HOLD and THAW -/

/-- Settles O24: the level set, after the effects of any override. -/
theorem holdAndThawSetTheLevel : Obligations.HoldAndThawSetTheLevel := by
  refine ⟨fun s t p tag r g o a slot hr hd hin hrange hrec ho hopen hwork hhandles hs h0 h1 => ?_,
    fun s p tag r g a slot hr hd hin hrange hrec ho hlevel hs => ?_⟩
  · obtain ⟨v, hv⟩ := overrideOf_isSome hrange.2
    have hc : holdChecks s ⟨r.toNat, g⟩ v a = none := by
      refine (holdChecks_agree (p := p) (tag := tag) a hv).none ?_
      simp only [State.ownChecks, List.forall_mem_cons, List.not_mem_nil, false_imp_iff, implies_true, and_true]
      refine ⟨by simp [hopen], ?_, ?_⟩
      · rintro ⟨n, b, hb, href, hw, hst⟩
        have := (hwork n b hb href hw).1
        rw [(SlotState.onArray_iff _).2 hst] at this
        cases this
      · rintro ⟨hz, ⟨q, k, i, hi, href, hm⟩ | ⟨n, b, hb, href, hw, hq⟩⟩
        · exact hm (hhandles hz q k i hi href)
        · exact (hwork n b hb href hw).2 hz hq
    have hf : (fun (_ : Port) (i : HandleInfo) => i.region == ⟨r.toNat, g⟩ && i.mode != .read) =
        writersOf ⟨r.toNat, g⟩ := funext fun q => funext fun i => by
      unfold writersOf
      cases i.mode <;> rfl
    have ht : t = if v then s.invalidate (writersOf ⟨r.toNat, g⟩) else s := override_state hv h0 (hf ▸ h1)
    have hu : t.Decided p := ht ▸ State.Decided.invalidateIf hr.decided v _
    refine (hold_runsOwner hrange hv).accepted rfl hr hd hin hrec ho hc hs ?_ (State.awaitsDirectory_decided hu)
    unfold State.acceptHold State.setFreeze
    simp only [← ht]
    exact State.waitDirectory_mapRegion hrec (ht ▸ State.dir_invalidateIf v _)
      (ht ▸ State.slots_length_invalidateIf v _) hs
  · have hc : thawChecks a = none := by
      refine (thawChecks_agree (s := s) (p := p) (tag := tag) (r := r) (g := g) a).none ?_
      rcases hlevel with hl | hl <;> simp [State.ownChecks, hl, Freeze.Beyond]
    exact (thaw_runsOwner hrange).accepted rfl hr hd hin hrec ho hc hs (State.waitDirectory_mapRegion hrec rfl rfl hs)
      (State.awaitsDirectory_decided hr.decided)

/-! ## FIX -/

/-- Settles O25: the level set, the slot in the queue, the offer made. -/
theorem fixQueuesItsScan : Obligations.FixQueuesItsScan := by
  intro s p tag r g a slot hr hd hin hrange hrec ho hheld hgrowth hs
  have hc : fixChecks a = none := by
    refine (fixChecks_agree (s := s) (p := p) (tag := tag) (r := r) (g := g) a).none ?_
    simp [State.ownChecks, hheld, hgrowth, Freeze.Beyond]
  refine (fix_runsOwner hrange).accepted rfl hr hd hin hrec ho hc hs ?_ ?_
  · unfold State.acceptFix State.setFreeze
    rw [Directory.mapRegion_eq (r := a) (by rw [hrec])]
    exact congrArg State.offer (State.enqueue_eq hs.inTable)
  · exact State.Decided.offer (State.Decided.congr (s := s) hr.decided (by cases p <;> rfl))

/-! ## CREATE -/

section
variable {s : State} {p : Port} {tag rights placement : Byte} {first count : Half} {name : List Byte} {v : Rights}
  {a : CreateArgs} {record run n : Nat}

/-- The operands of a CREATE in range (R52). -/
theorem createOperands_of (h : Instr.InRange (.create p tag rights placement first count name)) (hv : v.code = rights) :
    ∃ place, createOperands rights placement first count name = some ⟨name, v, place, count.toNat⟩ ∧
      (placement = 0 ∧ place = .lowest ∨ placement = 1 ∧ place = .at first.toNat) := by
  rcases createOperands_eq h hv with ⟨hp, he⟩ | ⟨hp, he⟩
  · exact ⟨_, he, .inl ⟨hp, rfl⟩⟩
  · exact ⟨_, he, .inr ⟨hp, rfl⟩⟩

theorem exec_create {t : State} {r : Reply} (hr : s.Receives p .create tag) (hd : s.device = .ready)
    (hin : (s.port p).inhibit = false) (ha : createOperands rights placement first count name = some a)
    (hk : createBlock p a s = (t, some r)) (hu : t.Decided p) :
    exec (.create p tag rights placement first count name) s =
      .next (t.answered p .create tag r.status r.result r.incompleteData) :=
  exec_decided (i := .create p tag rights placement first count name) (heldBack := fun _ => true) rfl hr rfl ha
    (Device.answer_control hd (by decide)) (by rw [hin, Bool.and_false]) hk hu

/-- Where the placement looks for the run (R49). -/
def Placement.Allows (x : Placement) (f : Nat) : Prop := x = .lowest ∨ x = .at f

theorem allocate_none {ok : Nat → Bool} {x : Placement} {k : Nat} (h : ∀ f, x.Allows f → runFits ok f k = false) :
    allocate ok x k = none := by
  cases x
  next => exact lowestRun_none fun f => h f (.inl rfl)
  next f =>
    have := h f (.inr rfl)
    simp [allocate, this]

theorem allocate_some {ok : Nat → Bool} {x : Placement} {k f : Nat} (hk : 1 ≤ k) (ha : x.Allows f)
    (hf : runFits ok f k = true) : ∃ g, allocate ok x k = some g := by
  cases x
  next => exact lowestRun_some hk hf
  next g =>
    rcases ha with ha | ha <;> cases ha
    exact ⟨f, if_pos hf⟩

theorem createBlock_nameTaken (h : ∃ n, (s.dir.record n).body.name = some a.name) :
    createBlock p a s = refuse .nameTaken s := by
  unfold createBlock
  rw [if_pos (Directory.findName_isSome h)]

variable (hname : ∀ n, (s.dir.record n).body.name ≠ some a.name)
include hname

theorem createBlock_dirFull (h : ∀ n, n < s.dir.records.length → (s.dir.record n).body ≠ .free) :
    createBlock p a s = refuse .dirFull s := by
  unfold createBlock
  rw [Directory.findName_none hname, Directory.lowestFree_none h]
  rfl

variable (hrec : s.dir.lowestFree = some record)
include hrec

theorem createBlock_spacePending (h : allocate s.available a.placement a.count = none) {f : Nat}
    (hf : allocate s.hoped a.placement a.count = some f) : createBlock p a s = refuse .spacePending s := by
  unfold createBlock
  rw [Directory.findName_none hname, hrec]
  simp only [h, hf]
  rfl

theorem createBlock_noSpace (h : allocate s.available a.placement a.count = none)
    (hf : allocate s.hoped a.placement a.count = none) : createBlock p a s = refuse .noSpace s := by
  unfold createBlock
  rw [Directory.findName_none hname, hrec]
  simp only [h, hf]
  rfl

variable (hrun : allocate s.available a.placement a.count = some run)
include hrun

theorem createBlock_slot {st : Status} (h : s.slotCheck p = .error st) : createBlock p a s = refuse st s := by
  unfold createBlock
  rw [Directory.findName_none hname, hrec]
  simp only [hrun, h]
  rfl

theorem createBlock_accepts (h : s.OffersSlot p n) : createBlock p a s =
    (s.acceptCreate p a record run n, some (.ok (s.createResult n record))) := by
  unfold createBlock
  rw [Directory.findName_none hname, hrec]
  simp only [hrun, h.check]
  rfl

end

/-- Settles O16: no check refuses, and the placement gives the run. -/
theorem createMakesAPendingRegion : Obligations.CreateMakesAPendingRegion := by
  intro s p tag rights placement first count name v record run slot hr hd hin hrange hv hname hlt hfree hlow hfits hlowest
    hat hs
  obtain ⟨place, hargs, hplace⟩ := createOperands_of hrange hv
  have hrec : s.dir.lowestFree = some record := Directory.lowestFree_eq hlt hfree hlow
  have hrun : allocate s.available place count.toNat = some run := by
    rcases hplace with ⟨h0, rfl⟩ | ⟨h1, rfl⟩
    · exact lowestRun_eq hrange.2.2.1 (State.fits_iff.2 hfits) fun f hf =>
        eq_false_of_ne_true fun hc => hlowest h0 f hf (State.fits_iff.1 hc)
    · cases hat h1
      exact if_pos (State.fits_iff.2 hfits)
  have hacc : s.acceptCreate p ⟨name, v, place, count.toNat⟩ record run slot = State.awaitsDirectory
      { s with dir := s.dir.setBody record (.pending ⟨name, p, v⟩ ⟨run, count.toNat⟩) } p .create
        ⟨record, (s.dir.record record).generation⟩ slot := State.waitDirectory_eq hs.inTable
  refine (exec_create hr hd hin hargs (createBlock_accepts hname hrec hrun hs) ?_).trans ?_
  · rw [hacc]
    exact State.awaitsDirectory_decided hr.decided
  · rw [hacc]
    rfl

/-- Settles O17: check by check. -/
theorem createRefusalsInOrder : Obligations.CreateRefusalsInOrder := by
  intro s p tag rights placement first count name hr hd hin hrange i ok hi hok
  subst hi
  obtain ⟨v, hv⟩ := Rights.exists_code hrange.2.1
  obtain ⟨place, hargs, hplace⟩ := createOperands_of hrange hv
  have hallow : ∀ f, place.Allows f ↔ ok f := fun f => by
    rw [hok]
    rcases hplace with ⟨h0, rfl⟩ | ⟨h1, rfl⟩
    · simp [Placement.Allows, h0]
    · subst h1
      simp [Placement.Allows, eq_comm]
  have hexec : ∀ {st}, createBlock p ⟨name, v, place, count.toNat⟩ s = refuse st s →
      exec (.create p tag rights placement first count name) s = .next (s.answered p .create tag st []) :=
    fun hk => exec_create hr hd hin hargs hk hr.decided
  refine ⟨fun h => hexec (createBlock_nameTaken h), fun hname => ⟨fun h => hexec (createBlock_dirFull hname h),
    fun record hlt hfree => ?_⟩⟩
  obtain ⟨low, hlow⟩ := Directory.lowestFree_some ⟨record, hlt, hfree⟩
  refine ⟨fun hfit => ?_, fun ⟨f, hf, hfit⟩ => ?_⟩
  · have hnone : allocate s.available place count.toNat = none := allocate_none fun f hf =>
      eq_false_of_ne_true fun hc => hfit f ((hallow f).1 hf) (State.fits_iff.1 hc)
    refine ⟨fun ⟨f, hf, hlater⟩ => ?_, fun hlater => ?_⟩
    · obtain ⟨g, hg⟩ := allocate_some hrange.2.2.1 ((hallow f).2 hf) (State.fitsLater_iff.2 hlater)
      exact hexec (createBlock_spacePending hname hlow hnone hg)
    · exact hexec (createBlock_noSpace hname hlow hnone (allocate_none fun f hf =>
        eq_false_of_ne_true fun hc => hlater f ((hallow f).1 hf) (State.fitsLater_iff.1 hc)))
  · obtain ⟨g, hg⟩ := allocate_some hrange.2.2.1 ((hallow f).2 hf) (State.fits_iff.2 hfit)
    exact ⟨fun hfull => hexec (createBlock_slot hname hlow hg (State.slotCheck_full p hfull)),
      fun hfree hq => hexec (createBlock_slot hname hlow hg (State.slotCheck_quota p hfree hq))⟩

end Sys2Proof.Machine
end

section
/-! PROOFS. The effects of an override on handles, notices, slots and the queue (R100, R101, R153). -/

set_option Elab.async false

namespace Sys2Proof.Machine

section
variable (s : State) (f : Port → HandleInfo → Bool)

theorem State.invalidate_port (p : Port) : (s.invalidate f).port p = (s.port p).makeStale (f p) := by
  cases p <;> rfl

/-- A handle after an override. -/
def Handle.staled (f : HandleInfo → Bool) (h : Handle) : Handle :=
  match h with
  | .opened i => if f i then .stale i else .opened i
  | x => x

theorem PortState.makeStale_handles (f : HandleInfo → Bool) (q : PortState) :
    (q.makeStale f).handles = q.handles.map (Handle.staled f) := by
  unfold PortState.makeStale
  refine congrArg (fun g => q.handles.map g) (funext fun h => ?_)
  cases h <;> rfl

theorem State.invalidate_handle (p : Port) (k : Nat) :
    (s.invalidate f).handle p k = (s.handle p k).staled (f p) := by
  unfold State.handle
  rw [State.invalidate_port, PortState.makeStale_handles]
  by_cases h : k < (s.port p).handles.length
  · simp [h]
  · simp [h, Handle.staled]

theorem State.any_openWith (p : Port) (g : HandleInfo → Bool) :
    (s.port p).handles.any (Handle.openWith g) = true ↔ ∃ h i, s.handle p h = .opened i ∧ g i = true := by
  rw [List.any_eq_true]
  constructor
  · rintro ⟨x, hx, ho⟩
    obtain ⟨h, hh, rfl⟩ := List.getElem_of_mem hx
    cases hx : (s.port p).handles[h] with
    | opened i =>
      rw [hx] at ho
      exact ⟨h, i, by simp [State.handle, hh, hx], ho⟩
    | _ => rw [hx] at ho; cases ho
  · rintro ⟨h, i, hi, ho⟩
    obtain ⟨hh, hx⟩ := State.handle_eq hi (by nofun)
    exact ⟨_, List.getElem_mem hh, by rw [hx]; exact ho⟩

theorem State.invalidate_slots : (s.invalidate f).slots = s.slots.map (Slot.staled (s.issuedThrough f)) := by
  unfold State.invalidate
  rw [State.cancelQueued_eq]
  rfl

theorem State.invalidate_slot (n : Nat) : (s.invalidate f).slot n = (s.slot n).staled (s.issuedThrough f) :=
  State.slot_map (s.invalidate_slots f) rfl n

/-- An override changes exactly the slots that leave the queue (R100). -/
theorem Slot.staled_eq_iff (g : SlotBody → Bool) (x : Slot) :
    x.staled g = x ↔ (x.body.any fun b => g b && b.state == .queued) = false := by
  obtain ⟨c, b⟩ := x
  cases b with
  | none => exact iff_of_true rfl rfl
  | some b =>
    by_cases h : g b = true ∧ b.state = .queued
    · refine iff_of_false (fun he => ?_) (by simp [h])
      have hst : (Slot.staled g ⟨c, some b⟩) = ⟨c, some { b with state := .cancelled .stale }⟩ := if_pos h
      rw [hst] at he
      have := congrArg SlotBody.state (Option.some.inj (congrArg Slot.body he))
      rw [h.2] at this
      cases this
    · exact iff_of_true (if_neg h) (by simpa using h)

theorem State.invalidate_sched : (s.invalidate f).sched = { s.sched with
    queue := s.sched.queue.filter fun n => decide ((s.invalidate f).slot n = s.slot n) } := by
  have hq : (fun n => decide ((s.invalidate f).slot n = s.slot n)) =
      fun n => !((s.slot n).body.any fun b => s.issuedThrough f b && b.state == .queued) := funext fun n => by
    rw [State.invalidate_slot, Bool.eq_iff_iff, decide_eq_true_iff, Slot.staled_eq_iff, Bool.not_eq_true']
  rw [hq]
  unfold State.invalidate
  rw [State.cancelQueued_eq]
  rfl

theorem State.attention_iff (p : Port) : s.attention p = true ↔ (s.port p).staleNotice = true ∨
    ∃ n b, (s.slot n).body = some b ∧ b.port = some p ∧ b.state.finished = true := by
  unfold State.attention
  rw [Bool.or_eq_true, List.any_eq_true]
  refine or_congr_right ⟨?_, ?_⟩
  · rintro ⟨x, hx, hf⟩
    obtain ⟨n, hn, rfl⟩ := List.getElem_of_mem hx
    unfold Slot.finishedOf at hf
    cases hb : (s.slots[n]).body with
    | none => rw [hb] at hf; cases hf
    | some b =>
      rw [hb] at hf
      exact ⟨n, b, by rw [State.slot_eq hn, hb], by simpa using hf⟩
  · rintro ⟨n, b, hb, hp, hf⟩
    have hn := State.lt_of_body hb
    refine ⟨_, List.getElem_mem hn, ?_⟩
    unfold Slot.finishedOf
    rw [← State.slot_eq hn, hb]
    simp [hp, hf]

/-- A slot after an override, told by the handle it was issued through (R100). -/
theorem Slot.staled_issued (x : Slot) : x.staled (s.issuedThrough f) = match x.body with
    | some b =>
      match b.port, b.handle with
      | some p, some h =>
        match s.handle p h with
        | .opened i =>
          if f p i ∧ b.state = .queued then ⟨x.useCount, some { b with state := .cancelled .stale }⟩ else x
        | _ => x
      | _, _ => x
    | none => x := by
  obtain ⟨c, b⟩ := x
  cases b with
  | none => rfl
  | some b =>
    unfold Slot.staled State.issuedThrough
    cases hp : b.port with
    | none => simp [hp]
    | some p =>
      cases hk : b.handle with
      | none => simp [hp, hk]
      | some k => cases hh : s.handle p k <;> simp [hp, hk, hh, Handle.openWith]

end

/-- Settles O23: each part of the state after the override. -/
theorem overridesInvalidateHandles : Obligations.OverridesInvalidateHandles := by
  intro s lost t ht
  subst ht
  refine ⟨fun p h => ?_, fun p => ?_, fun p => ?_, fun n => ?_, s.invalidate_sched lost, ?_, fun p =>
    (s.invalidate lost).attention_iff p⟩
  · rw [State.invalidate_handle]
    cases s.handle p h <;> rfl
  · rw [State.invalidate_port, ← State.any_openWith]
    exact iff_of_eq (Bool.or_eq_true _ _)
  · rw [State.invalidate_port]
    refine ⟨rfl, ?_⟩
    rw [PortState.makeStale_handles]
    exact List.length_map _
  · refine (s.invalidate_slot lost n).trans ((Slot.staled_issued s lost _).trans ?_)
    rfl
  · rfl

end Sys2Proof.Machine
end

section
/-! PROOFS. The FORMAT pass (R170 to R172): the units it passes over, the unit it erases next, and what it hands to the
writer. -/

set_option Elab.async false

namespace Sys2Proof.Machine

/-! ## Sets of units -/

theorem unitInsert_last {u : Nat} {l : List Nat} (h : ∀ v ∈ l, v < u) : unitInsert u l = l ++ [u] := by
  induction l with
  | nil => rfl
  | cons w l ih =>
    have hw : w < u := h w (by simp)
    unfold unitInsert
    rw [if_neg (Nat.lt_asymm hw), if_neg hw.ne', ih fun v hv => h v (List.mem_cons_of_mem _ hv)]
    rfl

/-- The units from `first` to before `u`, added to a set one by one. -/
def withdrawRange (first u : Nat) (l : List Nat) : List Nat :=
  (List.range' first (u - first)).foldl (fun l v => unitInsert v l) l

theorem withdrawRange_self (u : Nat) (l : List Nat) : withdrawRange u u l = l := by
  unfold withdrawRange
  rw [Nat.sub_self]
  rfl

theorem withdrawRange_step {first u : Nat} (h : first < u) (l : List Nat) :
    withdrawRange first u l = withdrawRange (first + 1) u (unitInsert first l) := by
  unfold withdrawRange
  rw [show u - first = (u - (first + 1)) + 1 by omega, List.range'_succ]
  rfl

theorem withdrawRange_zero (u : Nat) : withdrawRange 0 u [] = List.range u := by
  suffices h : ∀ n, (List.range' 0 n).foldl (fun l v => unitInsert v l) [] = List.range n from h (u - 0)
  intro n
  induction n with
  | zero => rfl
  | succ n ih =>
    rw [List.range'_1_concat, List.foldl_append, ih, List.range_succ, Nat.zero_add]
    exact unitInsert_last fun v hv => List.mem_range.1 hv

/-! ## The pass -/

section
variable {s : State} {n u : Nat} {b : SlotBody}

/-- The map has the FORMAT pass withdraw the unit unerased (R171). -/
def ArrayState.unfit (a : ArrayState) (u : Nat) : Prop :=
  (a.facts u).fixedMark = true ∨ 60000 ≤ (a.facts u).eraseCount

theorem ArrayState.unfit_iff (a : ArrayState) (u : Nat) :
    ((a.facts u).fixedMark || a.atLimit u) = true ↔ a.unfit u := by
  unfold ArrayState.unfit ArrayState.atLimit
  rw [Bool.or_eq_true, decide_eq_true_iff]

/-- The FORMAT pass after the units from `first` to before `u` were withdrawn unerased (R171). -/
def State.formatSkipped (s : State) (n : Nat) (b : SlotBody) (first u : Nat) : State :=
  { s with
    formatWithdrawn := withdrawRange first u s.formatWithdrawn
    slots := s.slots.set n ⟨(s.slot n).useCount, some { b with progress := b.progress + (u - first) }⟩ }

theorem State.formatSkipped_self (hb : (s.slot n).body = some b) (u : Nat) : s.formatSkipped n b u u = s := by
  have hn := State.lt_of_body hb
  unfold State.formatSkipped
  rw [withdrawRange_self, Nat.sub_self, Nat.add_zero]
  have hx : (⟨(s.slot n).useCount, some b⟩ : Slot) = s.slots[n] := by
    rw [← hb, ← State.slot_eq hn]
  rw [hx, List.set_getElem_self]

/-- One unit withdrawn unerased, and its progress counted (R171). -/
def State.formatSkip (s : State) (n u : Nat) : State :=
  (s.formatWithdraw u).mapSlot n fun b => { b with progress := b.progress + 1 }

theorem State.formatSkip_slot (hb : (s.slot n).body = some b) :
    (s.formatSkip n u).slot n = ⟨(s.slot n).useCount, some { b with progress := b.progress + 1 }⟩ := by
  refine ((State.slot_modify (s := s) rfl (State.lt_of_body hb) n).trans (if_pos rfl)).trans ?_
  rw [hb]
  rfl

theorem State.formatSkip_slots (hb : (s.slot n).body = some b) : (s.formatSkip n u).slots =
    s.slots.set n ⟨(s.slot n).useCount, some { b with progress := b.progress + 1 }⟩ :=
  congrArg State.slots (State.mapSlot_eq (s.formatWithdraw u) n _ hb)

theorem State.formatSkipped_step (hb : (s.slot n).body = some b) {first : Nat} (h : first < u) :
    (s.formatSkip n first).formatSkipped n { b with progress := b.progress + 1 } (first + 1) u =
      s.formatSkipped n b first u := by
  unfold State.formatSkipped
  rw [withdrawRange_step h, State.formatSkip_slot hb, State.formatSkip_slots hb, List.set_set,
    show b.progress + 1 + (u - (first + 1)) = b.progress + (u - first) by omega]
  rfl

theorem State.formatPass_skips {left : Nat} (h : s.array.unfit (Config.unitCount - (left + 1))) :
    State.formatPass n (left + 1) s = State.formatPass n left (s.formatSkip n (Config.unitCount - (left + 1))) :=
  if_pos ((ArrayState.unfit_iff _ _).2 h)

theorem State.formatPass_erases {left : Nat} (h : ¬ s.array.unfit (Config.unitCount - (left + 1))) :
    State.formatPass n (left + 1) s = s.startErase (.format n) (Config.unitCount - (left + 1)) :=
  if_neg fun hc => h ((ArrayState.unfit_iff _ _).1 hc)

/-- The pass withdraws the units that cannot be erased, and starts the erase of the first that can (R171). -/
theorem State.formatPass_eq_erase : ∀ {left : Nat} {s : State} {b : SlotBody}, (s.slot n).body = some b →
    left ≤ 1024 → 1024 - left ≤ u → u < 1024 → (∀ v, 1024 - left ≤ v → v < u → s.array.unfit v) → ¬ s.array.unfit u →
    State.formatPass n left s = (s.formatSkipped n b (1024 - left) u).startErase (.format n) u
  | 0, _, _, _, _, hl, hu, _, _ => by omega
  | left + 1, s, b, hb, hle, hl, hu, hskip, hfit => by
    by_cases he : 1024 - (left + 1) = u
    · subst he
      rw [State.formatPass_erases hfit, State.formatSkipped_self hb]
    · have hlt : 1024 - (left + 1) < u := lt_of_le_of_ne hl he
      have hnext : 1024 - left = 1024 - (left + 1) + 1 := by omega
      rw [State.formatPass_skips (hskip _ le_rfl hlt),
        State.formatPass_eq_erase (congrArg Slot.body (State.formatSkip_slot hb)) (by omega) (by omega) hu
          (fun v hv => hskip v (by omega)) hfit, hnext]
      exact congrArg (State.startErase · (.format n) u) (State.formatSkipped_step hb hlt)

/-- Where no unit is left that can be erased, the pass withdraws them all and ends (R172). -/
theorem State.formatPass_eq_write : ∀ {left : Nat} {s : State} {b : SlotBody}, (s.slot n).body = some b →
    left ≤ 1024 → (∀ v, 1024 - left ≤ v → v < 1024 → s.array.unfit v) →
    State.formatPass n left s = (s.formatSkipped n b (1024 - left) 1024).formatWrite
  | 0, s, b, hb, _, _ => by
    rw [State.formatSkipped_self hb]
    rfl
  | left + 1, s, b, hb, hle, hskip => by
    have hnext : 1024 - left = 1024 - (left + 1) + 1 := by omega
    rw [State.formatPass_skips (hskip _ le_rfl (Nat.sub_lt (by decide) (Nat.succ_pos _))),
      State.formatPass_eq_write (congrArg Slot.body (State.formatSkip_slot hb)) (by omega)
        (fun v hv => hskip v (by omega)), hnext]
    exact congrArg State.formatWrite (State.formatSkipped_step hb (Nat.sub_lt (by decide) (Nat.succ_pos _)))

/-! ## Its end -/

theorem State.formatWrite_fault (h : s.store.highest = some 0xFFFFFFFF) :
    s.formatWrite = (s.setActivity .idle).writerFault := if_pos h

/-- The new image is numbered one above the highest field, or 1 where no field was read (R172). -/
theorem State.formatWrite_image {q : Word} (h0 : s.store.highest = none → q = 1)
    (h1 : ∀ h, s.store.highest = some h → q = h + 1) (h : s.store.highest ≠ some 0xFFFFFFFF) :
    s.formatWrite = { s.setActivity .idle with store := { s.store with
      writer := .writing ⟨Image.sealed ⟨q, List.replicate 32 ⟨0, none⟩, [], s.formatWithdrawn, 0⟩, .copy0, 1,
        s.dir.records, true⟩ } } := by
  unfold State.formatWrite
  rw [if_neg h]
  cases hh : s.store.highest with
  | none => rw [h0 hh]; rfl
  | some x => rw [h1 x hh]; rfl

/-! ## FORMAT -/

theorem formatBlock_accepts {p : Port} (hw : s.store.writer ≠ .fault) (hs : s.OffersSlot p n) :
    formatBlock p s = (s.acceptFormat p n, some (.ok (s.ticketBytes n))) := by
  unfold formatBlock
  rw [if_neg hw, hs.check]
  rfl

theorem exec_format {p : Port} {tag : Byte} {t : State} (hr : s.Receives p .format tag) (hd : s.device = .recovery)
    (hin : (s.port p).inhibit = false) (hw : s.store.writer ≠ .fault) (hs : s.OffersSlot p n)
    (ht : s.acceptFormat p n = t) (hu : t.Decided p) :
    exec (.format p tag) s = .next (t.answered p .format tag .ok (s.ticketBytes n)) := by
  subst ht
  have ha : s.device.answer .format = none := by rw [hd]; decide
  exact exec_decided (i := .format p tag) (args := some ()) (heldBack := fun _ => true) (block := fun _ => formatBlock p)
    (r := .ok (s.ticketBytes n)) rfl hr rfl rfl ha (by rw [hin]; rfl) (formatBlock_accepts hw hs) hu

/-- The part at the start of a FORMAT pass (R170). -/
def State.formatting (s : State) (p : Port) (n : Nat) : State :=
  { s with
    device := .formatting
    formatWithdrawn := []
    slots := s.slots.set n ⟨(s.slot n).useCount, some ⟨.running, some p, .format, none, none, none, 0, 0, none, none⟩⟩ }

theorem State.acceptFormat_eq (p : Port) (hn : n < s.slots.length) :
    s.acceptFormat p n = State.formatPass n 1024 (s.formatting p n) := by
  unfold State.acceptFormat
  refine congrArg (State.formatPass n 1024) ?_
  exact State.fillSlot_eq { s with device := .formatting, formatWithdrawn := [] } n _ hn

theorem State.formatting_slot (p : Port) (hn : n < s.slots.length) : (s.formatting p n).slot n =
    ⟨(s.slot n).useCount, some ⟨.running, some p, .format, none, none, none, 0, 0, none, none⟩⟩ :=
  State.slot_written hn rfl

theorem State.formatting_skipped (p : Port) (hn : n < s.slots.length) (u : Nat) :
    (s.formatting p n).formatSkipped n ⟨.running, some p, .format, none, none, none, 0, 0, none, none⟩ 0 u =
    { s with
      device := .formatting
      formatWithdrawn := List.range u
      slots := s.slots.set n ⟨(s.slot n).useCount,
        some ⟨.running, some p, .format, none, none, none, u, 0, none, none⟩⟩ } := by
  unfold State.formatSkipped
  rw [State.formatting_slot p hn]
  unfold State.formatting
  simp only [List.set_set, withdrawRange_zero, Nat.zero_add, Nat.sub_zero]

end

/-- Settles O26: the pass from unit 0, by the first unit that can be erased. -/
theorem formatStartsItsPass : Obligations.FormatStartsItsPass := by
  intro s p tag slot hr hd hin hw hs
  have hn := hs.inTable
  have hb : ((s.formatting p slot).slot slot).body =
      some ⟨.running, some p, .format, none, none, none, 0, 0, none, none⟩ :=
    congrArg Slot.body (State.formatting_slot p hn)
  have hu : ∀ t : State, t.portA = s.portA → t.portB = s.portB → t.Decided p := fun t ha hb =>
    State.Decided.congr (s := s) hr.decided (by cases p <;> assumption)
  refine ⟨fun u hu' hmark hcount hskip => ?_, fun hskip t ht => ⟨fun q h0 h1 hlast => ?_, fun hlast => ?_⟩⟩
  · refine exec_format hr hd hin hw hs ?_ (hu _ rfl rfl)
    rw [State.acceptFormat_eq p hn, State.formatPass_eq_erase hb le_rfl (Nat.zero_le _) hu' (fun v _ hv => hskip v hv) ?_,
      Nat.sub_self, State.formatting_skipped p hn]
    · rfl
    · rintro (h | h)
      · exact absurd (h.symm.trans hmark) (by decide)
      · exact absurd h (Nat.not_le.2 hcount)
  all_goals
    have hpass : s.acceptFormat p slot = State.formatWrite { s with
        device := .formatting
        formatWithdrawn := List.range 1024
        slots := s.slots.set slot ⟨(s.slot slot).useCount,
          some ⟨.running, some p, .format, none, none, none, 1024, 0, none, none⟩⟩ } := by
      rw [State.acceptFormat_eq p hn, State.formatPass_eq_write hb le_rfl (fun v _ hv => hskip v hv), Nat.sub_self,
        State.formatting_skipped p hn]
    subst ht
    generalize List.range 1024 = l at hpass ⊢
  · refine exec_format hr hd hin hw hs ?_ (hu _ rfl rfl)
    rw [hpass, State.formatWrite_image (q := q)]
    · rfl
    all_goals assumption
  · refine exec_format hr hd hin hw hs ?_ (hu _ rfl rfl)
    rw [hpass, State.formatWrite_fault]
    · rfl
    · assumption

end Sys2Proof.Machine
end

section
/-! PROOFS. OPEN and CLOSE, the commands that name a handle, and the data work that joins the queue (R83, R87 to R98,
R105, R106). -/

set_option Elab.async false

namespace Sys2Proof.Machine

/-! ## What an OPEN names -/

section
variable {s : State} {sel : Selector} {ref : RegionRef} {t : Target}

theorem Directory.name_of_findName {d : Directory} {x : List Byte} {n : Nat} (h : d.findName x = some n) :
    (d.record n).body.name = some x := by
  obtain ⟨hn, hx, _⟩ := List.findIdx?_eq_some_iff_getElem.1 h
  rw [Directory.record_eq hn]
  exact beq_iff_eq.1 hx

theorem Directory.ne_free_of_name {d : Directory} {x : List Byte} {n : Nat} (h : (d.record n).body.name = some x) :
    (d.record n).body ≠ .free := fun hf => by rw [hf] at h; cases h

theorem Directory.resolve_eq {d : Directory} (hg : (d.record ref.number).generation = ref.generation)
    (hb : (d.record ref.number).body ≠ .free) : d.resolve ref = some (d.record ref.number).body := by
  unfold Directory.resolve
  simp only [if_neg hb, if_pos hg]

theorem target_of_byName {name : List Byte} (h : selectorOperand (.byName name) = some t) : t = .name name := by
  unfold selectorOperand nameOperand at h
  simp only at h
  split at h
  · cases h; rfl
  · cases h

theorem target_of_byReference {r g : Byte} (h : selectorOperand (.byReference r g) = some t) :
    t = .reference ⟨r.toNat, g⟩ := by
  unfold selectorOperand refOperand regionOperand at h
  simp only at h
  split at h
  · cases h; rfl
  · cases h

/-- What an OPEN's selector names is the reference its target resolves to (R25, R89). -/
theorem State.openTarget_of_selects (hn : s.NameLaw) (ht : selectorOperand sel = some t) (h : s.Selects sel ref) :
    s.dir.openTarget t = some ref := by
  obtain ⟨hg, hb, ⟨r, rfl, hr⟩ | ⟨name, rfl, hname⟩⟩ := h
  · obtain rfl := target_of_byReference ht
    have he : (⟨r.toNat, ref.generation⟩ : RegionRef) = ref := by rw [← hr]
    rw [he]
    show (s.dir.resolve ref).map _ = _
    rw [Directory.resolve_eq hg hb]
    rfl
  · obtain rfl := target_of_byName ht
    show (s.dir.findName name).map _ = _
    rw [Directory.findName_eq hname fun m hm => hn.working m _ name hm hname, Option.map_some, hg]

theorem State.selects_of_openTarget (ht : selectorOperand sel = some t) (h : s.dir.openTarget t = some ref) :
    s.Selects sel ref := by
  cases sel with
  | byName name =>
    obtain rfl := target_of_byName ht
    obtain ⟨n, hn, rfl⟩ := Option.map_eq_some_iff.1 h
    have hname := Directory.name_of_findName hn
    exact ⟨rfl, Directory.ne_free_of_name hname, .inr ⟨name, rfl, hname⟩⟩
  | byReference r g =>
    obtain rfl := target_of_byReference ht
    obtain ⟨b, hb, rfl⟩ := Option.map_eq_some_iff.1 h
    refine ⟨congrArg Record.generation (Directory.resolve_some hb), fun hf => ?_, .inl ⟨r, rfl, rfl⟩⟩
    unfold Directory.resolve at hb
    simp only [hf] at hb
    cases hb
  | other _ _ => cases ht

end

/-! ## OPEN -/

section
variable {s : State} {p : Port} {tag mode : Byte} {sel : Selector} {m : Mode} {t : Target} {ref : RegionRef} {a : Region}

/-- An OPEN in range names a mode and a target. -/
theorem selectorOperand_some (h : Instr.InRange (.openHandle p tag mode sel)) : ∃ t, selectorOperand sel = some t := by
  cases sel with
  | byName name => exact ⟨_, selectorOperand_name h.2⟩
  | byReference r g => exact ⟨_, selectorOperand_reference h.2⟩
  | other _ _ => exact h.elim

theorem exec_open {x : State} {r : Reply} (hr : s.Receives p .openHandle tag) (hl : s.loaded = true)
    (hm : m.code = mode) (ht : selectorOperand sel = some t) (hin : m ≠ .read → (s.port p).inhibit = false)
    (hk : openBlock p (m, t) s = (x, some r)) (hu : x.Decided p) : exec (.openHandle p tag mode sel) s =
      .next (x.answered p .openHandle tag r.status r.result r.incompleteData) := by
  have hb : (m.writes && (s.port p).inhibit) = false := by
    cases m
    case read => rfl
    all_goals rw [hin nofun, Bool.and_false]
  obtain ⟨params, hi⟩ : ∃ params, (Instr.openHandle p tag mode sel).request = some (p, tag, .openHandle, params) := by
    cases sel <;> exact ⟨_, rfl⟩
  exact exec_decided (heldBack := fun a => a.1.writes) (block := openBlock p) hi hr rfl (openOperands_eq hm ht)
    (Device.answer_none_of_loaded hl (by decide) (by decide)) hb hk hu

theorem openBlock_noRegion (h : s.dir.openTarget t = none) : openBlock p (m, t) s = refuse .noSuchRegion s := by
  unfold openBlock
  rw [h]

theorem openBlock_notActive (h : s.dir.openTarget t = some ref)
    (hb : ∀ a, (s.dir.record ref.number).body ≠ .active a) : openBlock p (m, t) s = refuse .notActive s := by
  unfold openBlock
  rw [h]
  cases hr : (s.dir.record ref.number).body with
  | active r => exact absurd hr (hb r)
  | _ => simp only [hr]

section
variable (h : s.dir.openTarget t = some ref) (hb : (s.dir.record ref.number).body = .active a)
include h hb

theorem openBlock_checked {st : Status} (hc : openChecks s p m ref a = some st) :
    openBlock p (m, t) s = refuse st s := by
  unfold openBlock
  rw [h]
  simp only [hb, hc]

theorem openBlock_handlesFull (hc : openChecks s p m ref a = none) (hf : s.lowestClosed p = none) :
    openBlock p (m, t) s = refuse .handlesFull s := by
  unfold openBlock
  rw [h]
  simp only [hb, hc, hf]

theorem openBlock_accepts {k : Nat} (hc : openChecks s p m ref a = none) (hf : s.lowestClosed p = some k) :
    openBlock p (m, t) s = (s.setHandle p k (.opened ⟨ref, m⟩), some (.ok (openResult k ref m a))) := by
  unfold openBlock
  rw [h]
  simp only [hb, hc, hf]

end

/-! ### Its checks -/

theorem Mode.conflicts_iff (m n : Mode) : m.conflicts n = true ↔
    m = .exclusive ∨ n = .exclusive ∨ (m = .write ∧ n = .write) := by cases m <;> cases n <;> decide

theorem Rights.allow_eq_false (v : Rights) (m : Mode) : v.allow m = false ↔
    v = .none ∨ (m ≠ .read ∧ v = .read) := by cases v <;> cases m <;> decide

/-- An OPEN handle on the region conflicts with a mode (R92). -/
def State.Conflicts (s : State) (m : Mode) (ref : RegionRef) : Prop :=
  ∃ q k j, s.handle q k = .opened j ∧ j.region = ref ∧
    (m = .exclusive ∨ j.mode = .exclusive ∨ (m = .write ∧ j.mode = .write))

theorem openChecks_agree : ChecksAgree (openChecks s p m ref a)
    [(a.ident.owner ≠ p ∧ (a.ident.rights = .none ∨ (m ≠ .read ∧ a.ident.rights = .read)), .noRight),
      (m ≠ .read ∧ a.freeze ≠ .openLevel, .frozen), (s.Conflicts m ref, .conflict)] := by
  refine ⟨_, rfl, ?_⟩
  simp only [List.forall₂_cons, List.forall₂_nil_left_iff, and_true]
  refine ⟨?_, ?_, ?_⟩
  · rw [Bool.and_eq_true, bne_iff_ne, Bool.not_eq_true', Rights.allow_eq_false, ne_comm]
  · rw [Bool.and_eq_true, Mode.writes_iff, bne_iff_ne]
  · rw [State.anyOpen_iff]
    simp only [Bool.and_eq_true, beq_iff_eq, Mode.conflicts_iff]
    rfl

/-- The rights and the owner allow the mode (R68). -/
theorem not_noRight (h : a.ident.owner = p ∨ (m = .read ∧ a.ident.rights ≠ .none) ∨ a.ident.rights = .readWrite) :
    ¬ (a.ident.owner ≠ p ∧ (a.ident.rights = .none ∨ (m ≠ .read ∧ a.ident.rights = .read))) := by
  rintro ⟨ho, hr⟩
  rcases h with h | ⟨h, hn⟩ | h
  · exact ho h
  · exact hr.elim hn fun hr => hr.1 h
  · rw [h] at hr
    rcases hr with hr | hr
    · cases hr
    · cases hr.2

theorem not_conflicts (h : ∀ q k j, s.handle q k = .opened j → j.region = ref →
    (m = .read ∧ j.mode ≠ .exclusive) ∨ (m = .write ∧ j.mode = .read)) : ¬ s.Conflicts m ref := by
  rintro ⟨q, k, j, hj, href, hc⟩
  rcases h q k j hj href with ⟨rfl, hm⟩ | ⟨rfl, hm⟩
  · rcases hc with hc | hc | hc
    · cases hc
    · exact hm hc
    · cases hc.1
  · rcases hc with hc | hc | hc
    · cases hc
    · rw [hm] at hc; cases hc
    · rw [hm] at hc; cases hc.2

theorem State.lowestClosed_eq {k : Nat} (hk : k < (s.port p).handles.length) (hc : s.handle p k = .closed)
    (hl : ∀ j, j < k → s.handle p j ≠ .closed) : s.lowestClosed p = some k :=
  findIdx?_eq_some_of Handle.closed hk (beq_iff_eq.2 hc) fun j hj => beq_eq_false_iff_ne.2 (hl j hj)

theorem State.lowestClosed_none (h : ∀ k, k < (s.port p).handles.length → s.handle p k ≠ .closed) :
    s.lowestClosed p = none := by
  refine List.findIdx?_eq_none_iff.2 fun x hx => ?_
  obtain ⟨k, hk, rfl⟩ := List.getElem_of_mem hx
  have := h k hk
  unfold State.handle at this
  rw [List.getD_eq_getElem _ _ hk] at this
  exact beq_eq_false_iff_ne.2 this

theorem State.setHandle_decided {q : Port} {k : Nat} {x : Handle} (h : s.Decided p) :
    (s.setHandle q k x).Decided p := by
  unfold State.Decided State.setHandle
  cases q <;> cases p <;> exact h

end

/-- Settles O27: no check refuses, and the lowest CLOSED entry is taken. -/
theorem openTakesTheLowestEntry : Obligations.OpenTakesTheLowestEntry := by
  intro s p tag mode sel m ref a h hr hl hrange hm hin hn hsel hb hrights hlevel hconf hk hc hlow
  obtain ⟨t, ht⟩ := selectorOperand_some hrange
  have htarget := State.openTarget_of_selects hn ht hsel
  have hcheck : openChecks s p m ref a = none := openChecks_agree.none (by
    simp only [List.forall_mem_cons, List.not_mem_nil, false_imp_iff, implies_true, and_true]
    exact ⟨not_noRight hrights, fun ⟨hm, hf⟩ => hf (hlevel hm), not_conflicts hconf⟩)
  refine (exec_open hr hl hm ht hin (openBlock_accepts htarget hb hcheck (State.lowestClosed_eq hk hc hlow)) ?_).trans ?_
  · exact State.setHandle_decided hr.decided
  · rw [← hm]
    rfl

/-- Settles O28: the first of the checks that refuses. -/
theorem openRefusalsInOrder : Obligations.OpenRefusalsInOrder := by
  intro s p tag mode sel m i hr hl hi hrange hn hm hin
  subst hi
  obtain ⟨t, ht⟩ := selectorOperand_some hrange
  have hexec : ∀ {st}, openBlock p (m, t) s = refuse st s →
      exec (.openHandle p tag mode sel) s = .next (s.answered p .openHandle tag st []) :=
    fun hk => exec_open hr hl hm ht hin hk hr.decided
  refine ⟨fun hno => hexec (openBlock_noRegion ?_), fun ref b hsel hb => ⟨fun hact => ?_, fun a ha => ?_⟩⟩
  · cases ho : s.dir.openTarget t with
    | none => rfl
    | some ref => exact absurd (State.selects_of_openTarget ht ho) (hno ref)
  · subst hb
    exact hexec (openBlock_notActive (State.openTarget_of_selects hn ht hsel) hact)
  · have htarget := State.openTarget_of_selects hn ht hsel
    rw [ha] at hb
    refine ⟨fun hno => ?_, fun hrights => ⟨fun hfrozen => ?_, fun hopen => ⟨fun hconf => ?_, fun hconf hfull => ?_⟩⟩⟩
    · exact hexec (openBlock_checked htarget hb (openChecks_agree.some ((firstRefusal_cons _ _).2 (.inl ⟨hno, rfl⟩))))
    all_goals have hright := not_noRight hrights
    · exact hexec (openBlock_checked htarget hb (openChecks_agree.some ((firstRefusal_cons _ _).2 (.inr ⟨hright,
        (firstRefusal_cons _ _).2 (.inl ⟨hfrozen, rfl⟩)⟩))))
    all_goals
      have hlevel : ¬ (m ≠ .read ∧ a.freeze ≠ .openLevel) := fun ⟨h1, h2⟩ => hopen.elim h1 h2
    · exact hexec (openBlock_checked htarget hb (openChecks_agree.some ((firstRefusal_cons _ _).2 (.inr ⟨hright,
        (firstRefusal_cons _ _).2 (.inr ⟨hlevel, (firstRefusal_cons _ _).2 (.inl ⟨hconf, rfl⟩)⟩)⟩))))
    · refine hexec (openBlock_handlesFull htarget hb (openChecks_agree.none ?_) (State.lowestClosed_none hfull))
      simp only [List.forall_mem_cons, List.not_mem_nil, false_imp_iff, implies_true, and_true]
      exact ⟨hright, hlevel, not_conflicts hconf⟩

end Sys2Proof.Machine
end

section
/-! PROOFS. CLOSE, what a handle or a ticket that names nothing is answered, and data work accepted (R83, R95, R98, R105,
R106, R125). -/

set_option Elab.async false

namespace Sys2Proof.Machine

/-! ## CLOSE -/

section
variable {s : State} {p : Port} {tag h : Byte} {k : Nat}

theorem exec_close {t : State} {r : Reply} (hr : s.Receives p .close tag) (hl : s.loaded = true) (hh : h.toNat ≤ 7)
    (hk : closeBlock p h.toNat s = (t, some r)) (hu : t.Decided p) :
    exec (.close p tag h) s = .next (t.answered p .close tag r.status r.result r.incompleteData) :=
  exec_decided (i := .close p tag h) (heldBack := fun _ => false) (block := closeBlock p) rfl hr rfl
    (handleOperand_eq hh) (Device.answer_none_of_loaded hl (by decide) (by decide)) rfl hk hu

theorem closeBlock_closed (h : s.handle p k = .closed) : closeBlock p k s = refuse .badHandle s := if_pos h

/-- A slot issued through the entry is unfinished (R98). -/
def SlotBody.busies (b : SlotBody) (p : Port) (k : Nat) : Bool :=
  b.port == some p && b.handle == some k && b.state.live

theorem SlotBody.busies_iff (b : SlotBody) : b.busies p k = true ↔
    b.port = some p ∧ b.handle = some k ∧ b.state.finished = false := by
  unfold SlotBody.busies SlotState.live
  simp only [Bool.and_eq_true, beq_iff_eq, Bool.not_eq_true', and_assoc]

theorem closeBlock_busy (h : s.handle p k ≠ .closed) (hb : s.anySlot (fun b => b.busies p k) = true) :
    closeBlock p k s = refuse .handleBusy s := (if_neg h).trans (if_pos hb)

theorem closeBlock_closes (h : s.handle p k ≠ .closed) (hb : s.anySlot (fun b => b.busies p k) = false) :
    closeBlock p k s = (s.setHandle p k .closed, some (.ok [])) :=
  (if_neg h).trans (if_neg fun hc => absurd (hb.symm.trans hc) (by decide))

end

/-- Settles O29: by the entry and the slots issued through it. -/
theorem closeFreesTheEntry : Obligations.CloseFreesTheEntry := by
  intro s p tag h hr hl hh
  refine ⟨fun hc => exec_close hr hl hh (closeBlock_closed hc) hr.decided, fun hc => ⟨?_, fun hfin => ?_⟩⟩
  · rintro ⟨n, b, hb, hp, hk, hf⟩
    exact exec_close hr hl hh (closeBlock_busy hc ((State.anySlot_iff _).2 ⟨n, b, hb, b.busies_iff.2 ⟨hp, hk, hf⟩⟩))
      hr.decided
  · have hnone : s.anySlot (fun b => b.busies p h.toNat) = false := (State.anySlot_false _).2 fun n b hb =>
      eq_false_of_ne_true fun hc => by
        obtain ⟨hp, hk, hf⟩ := b.busies_iff.1 hc
        rw [hfin n b hb hp hk] at hf
        cases hf
    exact exec_close hr hl hh (closeBlock_closes hc hnone) (State.setHandle_decided hr.decided)

/-! ## Commands that name a handle -/

section
variable {s : State} {p : Port} {tag h : Byte} {x : HandleInfo}

theorem State.useHandle_closed {k : Nat} (h : s.handle p k = .closed) : s.useHandle p k = .error .badHandle := by
  unfold State.useHandle
  rw [h]

theorem State.useHandle_stale {k : Nat} (h : s.handle p k = .stale x) : s.useHandle p k = .error .stale := by
  unfold State.useHandle
  rw [h]

/-- The request is taken by a block that first looks at the handle it names (R95, R105). -/
inductive UsesHandle (i : Instr) (s : State) (p : Port) (tag : Byte) (cmd : Cmd) (k : Nat) : Prop
  | intro {α : Type} {args : Option α} {heldBack : α → Bool} {block : α → State → State × Option Reply} {x : α}
      (take : takeRequest i s = s.take i p cmd tag args heldBack block) (args_eq : args = some x)
      (held : heldBack x = true → cmd = .program ∨ cmd = .erase)
      (refused : ∀ st, s.useHandle p k = .error st → block x s = refuse st s)
      (writes : cmd = .program ∨ cmd = .erase → ∀ j, s.useHandle p k = .ok j → j.mode = .read →
        block x s = refuse .noRight s) : UsesHandle i s p tag cmd k

theorem readBlock_refused {a : ReadArgs} {st : Status} (h : s.useHandle p a.handle = .error st) :
    readBlock p tag a s = refuse st s := by unfold readBlock; rw [h]

theorem verifyBlock_refused {k : Nat} {st : Status} (h : s.useHandle p k = .error st) :
    verifyBlock p k s = refuse st s := by unfold verifyBlock; rw [h]

section
variable {k : Nat} {f : Extent → Bool} {w : Work}

theorem writeBlock_refused {st : Status} (h : s.useHandle p k = .error st) : writeBlock p k f w s = refuse st s := by
  unfold writeBlock; rw [h]

theorem writeBlock_noRight (h : s.useHandle p k = .ok x) (hm : x.mode = .read) :
    writeBlock p k f w s = refuse .noRight s := by
  unfold writeBlock
  rw [h]
  simp only [hm]
  rfl

theorem writeBlock_range (h : s.useHandle p k = .ok x) (hm : x.mode ≠ .read)
    (hf : f (s.dir.extentOf x.region.number) = false) : writeBlock p k f w s = refuse .range s := by
  unfold writeBlock
  rw [h]
  simp only [(Mode.writes_iff _).2 hm, hf]
  rfl

theorem writeBlock_accepts {n : Nat} (h : s.useHandle p k = .ok x) (hm : x.mode ≠ .read)
    (hf : f (s.dir.extentOf x.region.number) = true) (hs : s.OffersSlot p n) :
    writeBlock p k f w s = ((s.joinsQueue p w (some k) x.region n).offer, some (.ok (s.ticketBytes n))) := by
  unfold writeBlock
  rw [h]
  simp only [(Mode.writes_iff _).2 hm, hf, hs.check]
  unfold State.queueWork
  rw [State.enqueue_eq hs.inTable]
  rfl

theorem verifyBlock_accepts {n : Nat} (h : s.useHandle p k = .ok x) (hs : s.OffersSlot p n) :
    verifyBlock p k s = ((s.joinsQueue p .verify (some k) x.region n).offer, some (.ok (s.ticketBytes n))) := by
  unfold verifyBlock
  rw [h]
  simp only [hs.check]
  unfold State.queueWork
  rw [State.enqueue_eq hs.inTable]
  rfl

end

theorem Instr.usesHandle {i : Instr} {cmd : Cmd} {params : List Byte} (hi : i.request = some (p, tag, cmd, params))
    (hh : i.handleUsed = some h) (hr : i.InRange) : UsesHandle i s p tag cmd h.toNat := by
  cases i with
  | verify =>
    cases hi; cases hh
    exact ⟨rfl, handleOperand_eq hr, nofun, fun st => verifyBlock_refused, nofun⟩
  | read =>
    cases hi; cases hh
    exact ⟨rfl, readOperands_eq hr.1 hr.2.1 hr.2.2, nofun, fun st h => readBlock_refused h, nofun⟩
  | program =>
    cases hi; cases hh
    exact ⟨rfl, programOperands_eq hr.1 hr.2.1 hr.2.2, fun _ => .inl rfl, fun st => writeBlock_refused,
      fun _ j => writeBlock_noRight⟩
  | erase =>
    cases hi; cases hh
    exact ⟨rfl, eraseOperands_eq hr.1 hr.2.1 hr.2.2.1 hr.2.2.2, fun _ => .inr rfl, fun st => writeBlock_refused,
      fun _ j => writeBlock_noRight⟩
  | _ => cases hh

theorem Instr.handleUsed_cmd {i : Instr} {cmd : Cmd} {params : List Byte} (hi : i.request = some (p, tag, cmd, params))
    (hh : i.handleUsed = some h) : cmd ≠ .format ∧ isControl cmd = false := by
  cases i <;> cases hh <;> cases hi <;> exact ⟨nofun, rfl⟩

end

/-! ## Commands that name a ticket -/

section
variable {s : State} {p : Port} {tag n u : Byte}

/-- The request is taken by a block that first resolves the ticket it names (R125). -/
inductive UsesTicket (i : Instr) (s : State) (p : Port) (tag : Byte) (cmd : Cmd) (k : Ticket) : Prop
  | intro {α : Type} {args : Option α} {block : α → State → State × Option Reply} {x : α}
      (take : takeRequest i s = s.take i p cmd tag args (fun _ => false) block) (args_eq : args = some x)
      (refused : s.resolveTicket p k = none → block x s = refuse .noSuchTicket s) : UsesTicket i s p tag cmd k

theorem queryBlock_none {k : Ticket} (h : s.resolveTicket p k = none) : queryBlock p k s = refuse .noSuchTicket s := by
  unfold queryBlock; rw [h]

theorem collectBlock_none {k : Ticket} (h : s.resolveTicket p k = none) :
    collectBlock p k s = refuse .noSuchTicket s := by unfold collectBlock; rw [h]

theorem Instr.usesTicket {i : Instr} {cmd : Cmd} {params : List Byte} (hi : i.request = some (p, tag, cmd, params))
    (ht : i.ticketUsed = some (n, u)) (hr : i.InRange) : UsesTicket i s p tag cmd ⟨n.toNat, u.setWidth 4⟩ := by
  cases i with
  | query => cases hi; cases ht; exact ⟨rfl, ticketOperand_eq hr.1 hr.2, queryBlock_none⟩
  | cancel => cases hi; cases ht; exact ⟨rfl, ticketOperand_eq hr.1 hr.2, cancelBlock_none⟩
  | collect => cases hi; cases ht; exact ⟨rfl, ticketOperand_eq hr.1 hr.2, collectBlock_none⟩
  | _ => cases ht

theorem Device.answer_of_working {d : Device} (h1 : d ≠ .starting) (h2 : d ≠ .inReset) {c : Cmd}
    (hc : c ∈ [Cmd.identify, .status, .unitInfo, .portReset, .query, .collect]) : d.answer c = none := by
  cases d
  case inReset => exact absurd rfl h2
  case starting => exact absurd rfl h1
  all_goals simp only [List.mem_cons, List.not_mem_nil, or_false] at hc
  all_goals rcases hc with rfl | rfl | rfl | rfl | rfl | rfl <;> decide

theorem Instr.ticketUsed_answer {i : Instr} {cmd : Cmd} {params : List Byte}
    (hi : i.request = some (p, tag, cmd, params)) (ht : i.ticketUsed = some (n, u)) (h1 : s.device ≠ .starting)
    (h2 : s.device ≠ .inReset) (hl : cmd = .cancel → s.loaded = true) : s.device.answer cmd = none := by
  cases i with
  | query | collect => cases hi; exact Device.answer_of_working h1 h2 (by decide)
  | cancel => cases hi; exact Device.answer_none_of_loaded (hl rfl) (by decide) (by decide)
  | _ => cases ht

theorem State.resolveTicket_none {k : Ticket} (h : (s.slot k.slot).body = none ∨ (s.slot k.slot).useCount ≠ k.useCount ∨
    ∃ b, (s.slot k.slot).body = some b ∧ b.port ≠ some p) : s.resolveTicket p k = none := by
  unfold State.resolveTicket
  rcases h with h | h | ⟨b, h, hp⟩
  · rw [h]
  · cases hb : (s.slot k.slot).body with
    | none => rfl
    | some b => simp [h]
  · rw [h]
    simp [hp]

end

/-- Settles O30: every such request looks at its handle, or its ticket, before anything else of its block. -/
theorem handleAndTicketRefusals : Obligations.HandleAndTicketRefusals := by
  refine ⟨fun i s p tag h cmd params hi hh hr hl hin hrange => ?_,
    fun i s p tag n u cmd params hi ht hr hrange h1 hl hnone => ?_⟩
  · obtain ⟨take, args_eq, held, refused, writes⟩ := Instr.usesHandle (s := s) hi hh hrange
    obtain ⟨hf, hc⟩ := Instr.handleUsed_cmd hi hh
    have hd : s.device.answer cmd = none := Device.answer_none_of_loaded hl hf hc
    have hb := fun he => hin (held he)
    refine ⟨fun he => ?_, fun x he => ?_, fun x he hm hw => ?_⟩
    · exact exec_decided hi hr take args_eq hd (by
        rw [Bool.and_eq_false_iff]; exact or_iff_not_imp_left.2 fun h => hb (by simpa using h))
        (refused _ (State.useHandle_closed he)) hr.decided
    · exact exec_decided hi hr take args_eq hd (by
        rw [Bool.and_eq_false_iff]; exact or_iff_not_imp_left.2 fun h => hb (by simpa using h))
        (refused _ (State.useHandle_stale he)) hr.decided
    · exact exec_decided hi hr take args_eq hd (by rw [hin hw, Bool.and_false])
        (writes hw x (State.useHandle_opened he) hm) hr.decided
  · obtain ⟨take, args_eq, refused⟩ := Instr.usesTicket (s := s) hi ht hrange
    exact exec_decided hi hr take args_eq (Instr.ticketUsed_answer hi ht h1 hr.alive hl) rfl
      (refused (State.resolveTicket_none hnone)) hr.decided

/-! ## Data work -/

section
variable {s : State} {p : Port} {tag h : Byte}

theorem State.joinsQueue_decided {w : Work} {k : Option Nat} {ref : RegionRef} {n : Nat} (h : s.Decided p) :
    ((s.joinsQueue p w k ref n).offer).Decided p :=
  State.Decided.offer (h.congr (by cases p <;> rfl))

theorem exec_verify {t : State} {r : Reply} (hr : s.Receives p .verify tag) (hl : s.loaded = true) (hh : h.toNat ≤ 7)
    (hk : verifyBlock p h.toNat s = (t, some r)) (hu : t.Decided p) :
    exec (.verify p tag h) s = .next (t.answered p .verify tag r.status r.result r.incompleteData) :=
  exec_decided (i := .verify p tag h) (heldBack := fun _ => false) (block := verifyBlock p) rfl hr rfl
    (handleOperand_eq hh) (Device.answer_none_of_loaded hl (by decide) (by decide)) rfl hk hu

theorem exec_program {t : State} {r : Reply} {o : Word} {d : List Byte} (hr : s.Receives p .program tag)
    (hl : s.loaded = true) (hin : (s.port p).inhibit = false) (hh : h.toNat ≤ 7) (h1 : 1 ≤ d.length)
    (h2 : d.length ≤ 512)
    (hk : writeBlock p h.toNat (fun e => programInRange e o.toNat d.length) (.program o.toNat d) s = (t, some r))
    (hu : t.Decided p) :
    exec (.program p tag h o d) s = .next (t.answered p .program tag r.status r.result r.incompleteData) :=
  exec_decided (i := .program p tag h o d) (heldBack := fun _ => true)
    (block := fun a => writeBlock p a.handle (fun e => programInRange e a.offset a.data.length) (.program a.offset a.data))
    rfl hr rfl (programOperands_eq hh h1 h2) (Device.answer_none_of_loaded hl (by decide) (by decide))
    (by rw [hin]; rfl) hk hu

theorem exec_erase {t : State} {r : Reply} {u n : Half} (hr : s.Receives p .erase tag)
    (hl : s.loaded = true) (hin : (s.port p).inhibit = false) (hh : h.toNat ≤ 7) (h1 : u.toNat ≤ 1023)
    (h2 : 1 ≤ n.toNat) (h3 : n.toNat ≤ 1024)
    (hk : writeBlock p h.toNat (fun e => eraseInRange e u.toNat n.toNat) (.erase u.toNat n.toNat) s = (t, some r))
    (hu : t.Decided p) :
    exec (.erase p tag h u n) s = .next (t.answered p .erase tag r.status r.result r.incompleteData) :=
  exec_decided (i := .erase p tag h u n) (heldBack := fun _ => true)
    (block := fun a => writeBlock p a.handle (fun e => eraseInRange e a.unitOffset a.count) (.erase a.unitOffset a.count))
    rfl hr rfl (eraseOperands_eq hh h1 h2 h3) (Device.answer_none_of_loaded hl (by decide) (by decide))
    (by rw [hin]; rfl) hk hu

theorem programInRange_iff (e : Extent) (o l : Nat) : programInRange e o l = true ↔
    o + l ≤ e.count * 8192 ∧ o / 512 = (o + l - 1) / 512 := by
  unfold programInRange
  rw [Bool.and_eq_true, decide_eq_true_iff, decide_eq_true_iff]

end

/-- Settles O31: the range decides, and the slot joins the queue before the offer. -/
theorem dataWorkJoinsTheQueue : Obligations.DataWorkJoinsTheQueue := by
  intro s p tag h x e hl hopen hh he
  subst he
  have huse := State.useHandle_opened hopen
  refine ⟨fun slot hr hs => ?_, fun o d hr hin hm h1 h2 => ⟨fun slot hend hpage hs => ?_, fun hout => ?_⟩,
    fun u n hr hin hm h1 h2 h3 => ⟨fun slot hend hs => ?_, fun hout => ?_⟩⟩
  · exact exec_verify hr hl hh (verifyBlock_accepts huse hs) (State.joinsQueue_decided hr.decided)
  · exact exec_program hr hl hin hh h1 h2 (writeBlock_accepts huse hm ((programInRange_iff _ _ _).2 ⟨hend, hpage⟩) hs)
      (State.joinsQueue_decided hr.decided)
  · refine exec_program hr hl hin hh h1 h2 (writeBlock_range huse hm (eq_false_of_ne_true fun hc => ?_)) hr.decided
    obtain ⟨hend, hpage⟩ := (programInRange_iff _ _ _).1 hc
    exact hout.elim (Nat.not_lt.2 hend) fun hp => hp hpage
  · exact exec_erase hr hl hin hh h1 h2 h3 (writeBlock_accepts huse hm (decide_eq_true hend) hs)
      (State.joinsQueue_decided hr.decided)
  · exact exec_erase hr hl hin hh h1 h2 h3 (writeBlock_range huse hm (decide_eq_false (Nat.not_le.2 hout))) hr.decided

end Sys2Proof.Machine
end

section
/-! PROOFS. QUERY, COLLECT and CANCEL of a slot that the ticket resolves to (R121, R130 to R133). -/

set_option Elab.async false

namespace Sys2Proof.Machine

section
variable {s : State} {p : Port} {tag n u : Byte} {b : SlotBody}

theorem State.resolveTicket_eq (hb : (s.slot n.toNat).body = some b) (hu : (s.slot n.toNat).useCount = u.setWidth 4)
    (hp : b.port = some p) : s.resolveTicket p ⟨n.toNat, u.setWidth 4⟩ = some b := by
  unfold State.resolveTicket
  rw [hb]
  exact if_pos ⟨hu, hp⟩

/-! ## QUERY and COLLECT -/

theorem exec_query {r : Reply} (hr : s.Receives p .query tag) (hd : s.device.answer .query = none) (hn : n.toNat ≤ 11)
    (hu : u.toNat ≤ 15) (hk : queryBlock p ⟨n.toNat, u.setWidth 4⟩ s = (s, some r)) :
    exec (.query p tag n u) s = .next (s.answered p .query tag r.status r.result r.incompleteData) :=
  exec_reads (i := .query p tag n u) (heldBack := fun _ => false) (block := queryBlock p) rfl hr rfl
    (ticketOperand_eq hn hu) hd rfl hk

theorem exec_collect {t : State} {r : Reply} (hr : s.Receives p .collect tag) (hd : s.device.answer .collect = none)
    (hn : n.toNat ≤ 11) (hu : u.toNat ≤ 15) (hk : collectBlock p ⟨n.toNat, u.setWidth 4⟩ s = (t, some r))
    (ht : t.Decided p) :
    exec (.collect p tag n u) s = .next (t.answered p .collect tag r.status r.result r.incompleteData) :=
  exec_decided (i := .collect p tag n u) (heldBack := fun _ => false) (block := collectBlock p) rfl hr rfl
    (ticketOperand_eq hn hu) hd rfl hk ht

theorem queryBlock_some {k : Ticket} (h : s.resolveTicket p k = some b) :
    queryBlock p k s = (s, some (.ok b.queryBytes)) := by unfold queryBlock; rw [h]

theorem collectBlock_finished {k : Ticket} (h : s.resolveTicket p k = some b) (hf : b.state.finished = true) :
    collectBlock p k s = (s.freeSlot k.slot, some (.ok b.collectBytes)) := by
  unfold collectBlock
  rw [h]
  exact if_pos hf

theorem collectBlock_live {k : Ticket} (h : s.resolveTicket p k = some b) (hf : b.state.finished = false) :
    collectBlock p k s = tooLate b.state s := by
  unfold collectBlock
  rw [h]
  exact if_neg (by rw [hf]; nofun)

end

/-- The 19 bytes of QUERY, field by field (R130, R159). -/
theorem SlotBody.queryBytes_eq {b : SlotBody} {ref : List Byte} {x c y : Byte} (hr : ref = b.refBytes)
    (hx : x = b.suspensionByte) (hc : c = b.resultByte) (hy : y = b.comparisonByte) :
    b.queryBytes = [b.state.code, b.work.code, b.presence] ++ ref ++ [byteOf (b.handle.getD 0)] ++
      be32 (b.arrival.getD 0) ++ halfOf b.progress ++ [x, c] ++ be32 (b.value.getD 0) ++ [y] := by
  subst hr hx hc hy
  rfl

/-- The 12 bytes of COLLECT, field by field (R133, R159). -/
theorem SlotBody.collectBytes_eq {b : SlotBody} {ref : List Byte} {c y : Byte} (hr : ref = b.refBytes)
    (hc : c = b.resultByte) (hy : y = b.comparisonByte) :
    b.collectBytes = [b.work.code, b.collectPresence] ++ ref ++ halfOf b.progress ++ [c] ++ be32 (b.value.getD 0) ++
      [y] := by
  subst hr hc hy
  rfl

/-- Settles O33: the ticket resolves, and the fields are the slot's. -/
theorem queryAndCollectAnswer : Obligations.QueryAndCollectAnswer := by
  intro s p tag n u b ref code hn hu hd hb huse hp href hcode
  have hres : s.resolveTicket p ⟨n.toNat, u.setWidth 4⟩ = some b := State.resolveTicket_eq hb huse hp
  have hlt := State.lt_of_body hb
  have href : ref = b.refBytes := by
    unfold SlotBody.refBytes
    cases hr : b.region <;> (rw [hr] at href; exact href)
  have hcode : code = b.resultByte := by
    unfold SlotBody.resultByte
    cases hs : b.state <;> (rw [hs] at hcode; exact hcode)
  have hcmp : (match b.comparison with
      | some .isMismatch => (1 : Byte) | some .noReference => 2 | _ => 0) = b.comparisonByte := by
    unfold SlotBody.comparisonByte
    cases b.comparison with
    | none => rfl
    | some c => cases c <;> rfl
  have hsus : (match b.work with | .erase _ _ => byteOf b.suspensions | _ => 0) = b.suspensionByte := by
    unfold SlotBody.suspensionByte
    cases b.work <;> rfl
  refine ⟨fun hr => ?_, fun hr => ⟨fun hf => ?_, fun hf => ?_⟩⟩
  · exact (exec_query hr (Device.answer_of_working hd hr.alive (by decide)) hn hu (queryBlock_some hres)).trans
      (congrArg (fun l => Host.Outcome.next (s.answered p .query tag .ok l)) (SlotBody.queryBytes_eq href hsus hcode hcmp))
  · refine (exec_collect hr (Device.answer_of_working hd hr.alive (by decide)) hn hu (collectBlock_finished hres hf)
      (State.Decided.congr (s := s) hr.decided (by cases p <;> rfl))).trans ?_
    rw [State.freeSlot_eq _ _ hlt]
    exact congrArg (fun l => Host.Outcome.next (State.answered _ p .collect tag .ok l))
      (SlotBody.collectBytes_eq href hcode hcmp)
  · exact exec_collect hr (Device.answer_of_working hd hr.alive (by decide)) hn hu (collectBlock_live hres hf) hr.decided

/-! ## CANCEL -/

section
variable {s : State} {p : Port} {tag n u : Byte} {b : SlotBody}

theorem exec_cancel {t : State} {r : Reply} (hr : s.Receives p .cancel tag) (hl : s.loaded = true) (hn : n.toNat ≤ 11)
    (hu : u.toNat ≤ 15) (hk : cancelBlock p tag ⟨n.toNat, u.setWidth 4⟩ s = (t, some r)) (ht : t.Decided p) :
    exec (.cancel p tag n u) s = .next (t.answered p .cancel tag r.status r.result r.incompleteData) :=
  exec_decided (i := .cancel p tag n u) (heldBack := fun _ => false) (block := cancelBlock p tag) rfl hr rfl
    (ticketOperand_eq hn hu) (Device.answer_none_of_loaded hl (by decide) (by decide)) rfl hk ht

theorem exec_cancel_undecided {t : State} (hr : s.Receives p .cancel tag) (hl : s.loaded = true) (hn : n.toNat ≤ 11)
    (hu : u.toNat ≤ 15) (hk : cancelBlock p tag ⟨n.toNat, u.setWidth 4⟩ s = (t, none)) :
    exec (.cancel p tag n u) s = .next (t.setPort p { t.port p with framing := .executing (.cancel p tag n u) }) := by
  rw [exec_request rfl hr.toListens]
  exact congrArg Host.Outcome.next (State.take_undecided (heldBack := fun _ => false) (block := cancelBlock p tag) hr
    (ticketOperand_eq hn hu) (Device.answer_none_of_loaded hl (by decide) (by decide)) rfl hk)

/-- The slot's state and cause after a CANCEL of waiting work, and the queue without it (R131). -/
def State.withdrawn (s : State) (n : Nat) (b : SlotBody) : State :=
  { s with
    slots := s.slots.set n ⟨(s.slot n).useCount, some { b with state := .cancelled .host }⟩
    sched := { s.sched with queue := s.sched.queue.filter fun m => m != n } }

theorem State.cancelWaiting_eq {k : Nat} (hb : (s.slot k).body = some b) : s.cancelWaiting k b =
    if b.work = .fix then (s.withdrawn k b).setFreeze b.regionNumber .held else s.withdrawn k b := by
  have h : (s.dequeue k).mapSlot k (fun b => { b with state := .cancelled .host }) = s.withdrawn k b :=
    State.mapSlot_eq (s.dequeue k) k _ hb
  unfold State.cancelWaiting
  simp only [h]

theorem State.endSlot_cancelled {t : State} {k : Nat} (hb : (t.slot k).body = some b) (hp : b.port = some p) :
    t.endSlot k (.cancelled .host) = { t with
      slots := t.slots.set k ⟨(t.slot k).useCount, some { b with state := .cancelled .host }⟩ } := by
  rw [State.endSlot_eq _ _ _ hb]
  unfold Slot.endedAs
  rw [if_neg (by rw [hp]; nofun)]

theorem State.freeArray_decided {t : State} (h : t.Decided p) : t.freeArray.Decided p :=
  State.Decided.offer (s := t.setActivity .idle) h

theorem State.cancelWorking_erase {k : Nat} {run : EraseRun} (ha : s.sched.activity = .erase (.slot k) run) :
    s.cancelWorking p tag k b = (s.abortErase k run, some (.ok [7])) := by
  unfold State.cancelWorking
  rw [ha]
  exact if_pos rfl

theorem State.cancelWorking_between {k v : Nat} (ha : s.sched.activity = .between k v) :
    s.cancelWorking p tag k b = (s.cancelErase k, some (.ok [7])) := by
  unfold State.cancelWorking
  rw [ha]
  exact if_pos rfl

theorem State.cancelWorking_scan {run : ScanRun} {k : Nat} (ha : s.sched.activity = .scan run) (hs : run.slot = k)
    (hw : b.work = .verify) :
    s.cancelWorking p tag k b = (s.setActivity (.scan { run with cancel := some (p, tag) }), none) := by
  unfold State.cancelWorking
  rw [ha]
  exact if_pos ⟨hs, hw⟩

/-- A page program, a mark write and the scan of a FIX are not cancelled (R131). -/
theorem State.cancelWorking_late {k : Nat} (ha : (∃ y, s.sched.activity = .program k y) ∨
    (∃ run, s.sched.activity = .mark run) ∨ (∃ run, s.sched.activity = .scan run ∧ b.work = .fix)) :
    s.cancelWorking p tag k b = tooLate b.state s := by
  unfold State.cancelWorking
  rcases ha with ⟨y, ha⟩ | ⟨run, ha⟩ | ⟨run, ha, hw⟩
  · rw [ha]
  · rw [ha]
  · rw [ha]
    exact if_neg fun h => by rw [hw] at h; exact nomatch h.2

theorem State.cancelErase_eq {t : State} {k : Nat} (hb : (t.slot k).body = some b) (hp : b.port = some p) :
    t.cancelErase k = State.freeArray { t with
      slots := t.slots.set k ⟨(t.slot k).useCount, some { b with state := .cancelled .host }⟩ } := by
  unfold State.cancelErase
  rw [State.endSlot_cancelled hb hp]

end

/-- Settles O34: a waiting slot leaves the queue, a slot on the array by what the array does for it, every other slot is
too late. -/
theorem cancelActsByTheSlot : Obligations.CancelActsByTheSlot := by
  intro s p tag n u b i hi hr hl hn hu hb huse hp
  subst hi
  have hres : s.resolveTicket p ⟨n.toNat, u.setWidth 4⟩ = some b := State.resolveTicket_eq hb huse hp
  refine ⟨fun hq t ht => ?_, fun hw => ?_, fun hover => ?_⟩
  · have hk := cancelBlock_queued (q := p) (tag := tag) hres hq
    subst ht
    refine ⟨fun hf => ?_, fun hf r a g href hrec => ?_⟩
    · rw [State.cancelWaiting_eq hb, if_neg hf] at hk
      exact exec_cancel hr hl hn hu hk (State.Decided.congr (s := s) hr.decided (by cases p <;> rfl))
    · have hreg : b.regionNumber = r.number := by unfold SlotBody.regionNumber; rw [href]; rfl
      rw [State.cancelWaiting_eq hb, if_pos hf] at hk
      unfold State.setFreeze at hk
      rw [hreg, show (s.withdrawn n.toNat b).dir = s.dir from rfl, Directory.mapRegion_eq (r := a) (by rw [hrec])] at hk
      exact exec_cancel hr hl hn hu hk (State.Decided.congr (s := s) hr.decided (by cases p <;> rfl))
  · have hk := cancelBlock_working (q := p) (tag := tag) hres ((SlotState.onArray_iff _).2 hw)
    refine ⟨fun run ha => ?_, fun v ha => ?_, fun run ha hslot hv => ?_, fun ha => ?_⟩
    · rw [State.cancelWorking_erase ha] at hk
      unfold State.abortErase at hk
      rw [State.cancelErase_eq (t := State.drawn { s with array := s.array.stopErase run (Config.eraseSets s.draws) }) hb
        hp] at hk
      exact exec_cancel hr hl hn hu hk (State.freeArray_decided (State.Decided.congr (s := s) hr.decided (by
        cases p <;> rfl)))
    · rw [State.cancelWorking_between ha, State.cancelErase_eq hb hp] at hk
      exact exec_cancel hr hl hn hu hk (State.freeArray_decided (State.Decided.congr (s := s) hr.decided (by
        cases p <;> rfl)))
    · rw [State.cancelWorking_scan ha hslot hv] at hk
      exact exec_cancel_undecided hr hl hn hu hk
    · rw [State.cancelWorking_late ha] at hk
      exact exec_cancel hr hl hn hu hk hr.decided
  · have hq : b.state ≠ .queued := by
      rintro hq
      rw [hq] at hover
      rcases hover with h | h <;> cases h
    have ho : b.state.onArray = false := eq_false_of_ne_true fun hc => by
      rcases (SlotState.onArray_iff _).1 hc with h | h <;> rw [h] at hover <;> rcases hover with h | h <;> cases h
    exact exec_cancel hr hl hn hu (cancelBlock_over hres hq ho) hr.decided

end Sys2Proof.Machine
end

section
/-! PROOFS. The directory writer: what a change to the durable content, a failed attempt and a completed write do (R28
to R37, R172). -/

set_option Elab.async false

namespace Sys2Proof.Machine

/-! ## Slots -/

section
variable {x : Slot} {b : SlotBody} {st : SlotState}

theorem Slot.ended_eq (h : x.body = some b) : x.ended st = Slot.endedAs x.useCount b st := by
  obtain ⟨u, body⟩ := x
  subst h
  unfold Slot.ended Slot.endedAs Slot.freed
  cases hp : b.port <;> simp [hp]

theorem Slot.ended_none (h : x.body = none) : x.ended st = x := by
  unfold Slot.ended; rw [h]

theorem Slot.takeTarget_waiting {q : Word} (h : x.body = some b) (hw : b.state = .waitDir none) :
    x.takeTarget q = ⟨x.useCount, some { b with state := .waitDir (some q) }⟩ := by
  unfold Slot.takeTarget
  rw [h, Option.map_some, if_pos hw]

theorem Slot.takeTarget_other {q : Word} (h : x.body = some b) (hw : b.state ≠ .waitDir none) : x.takeTarget q = x := by
  unfold Slot.takeTarget
  rw [h, Option.map_some, if_neg hw, ← h]

theorem Slot.takeTarget_none {q : Word} (h : x.body = none) : x.takeTarget q = x := by
  unfold Slot.takeTarget
  rw [h, Option.map_none, ← h]

theorem Slot.runningFormat_iff (h : x.body = some b) :
    x.runningFormat = true ↔ b.work = .format ∧ b.state = .running := by
  unfold Slot.runningFormat
  rw [h, Option.any_some, Bool.and_eq_true, beq_iff_eq, beq_iff_eq]

theorem Slot.runningFormat_none (h : x.body = none) : x.runningFormat = false := by
  unfold Slot.runningFormat; rw [h]; rfl

theorem Slot.inWaitDir_eq (h : x.body = some b) : x.inWaitDir = b.state.isWaitDir := by
  unfold Slot.inWaitDir; rw [h]; rfl

theorem Slot.inWaitDir_none (h : x.body = none) : x.inWaitDir = false := by
  unfold Slot.inWaitDir; rw [h]; rfl

theorem Slot.targetDone_eq {q : Word} (h : x.body = some b) : x.targetDone q =
    if b.state = .waitDir (some q) then Slot.endedAs x.useCount b .doneOk else x := by
  unfold Slot.targetDone
  rw [← Slot.ended_eq h, h, Option.any_some]
  exact if_congr beq_iff_eq rfl rfl

theorem Slot.targetDone_none {q : Word} (h : x.body = none) : x.targetDone q = x := by
  unfold Slot.targetDone; rw [h]; rfl

end

/-! ## A write begins -/

section
variable {s : State}

theorem State.markDirty_busy (h : s.store.writer ≠ .idle) :
    s.markDirty = { s with store := { s.store with dirty := true } } := if_neg fun hc => h hc.1

theorem State.markDirty_idle (h : s.store.writer = .idle) :
    s.markDirty = State.startWrite { s with store := { s.store with dirty := true } } := if_pos ⟨h, rfl⟩

theorem Store.target_eq (t : Store) : t.target = if t.current = some .copy0 then .copy1 else .copy0 := by
  unfold Store.target
  rcases t.current with _ | _ | _ <;> rfl

/-- A write in flight, as it began (R32). -/
def State.writing (s : State) : State :=
  { s with
    store := { s.store with
      dirty := false
      writer := .writing ⟨s.capture (s.store.durable + 1), s.store.target, 1, s.dir.records, false⟩ }
    slots := s.slots.map (Slot.takeTarget (s.store.durable + 1)) }

theorem State.startWrite_writing (h : s.store.durable ≠ 0xFFFFFFFF) : s.startWrite = s.writing := if_neg h

theorem State.startWrite_fault (h : s.store.durable = 0xFFFFFFFF) : s.startWrite = s.writerFault := if_pos h

theorem State.markDirty_writing (h : s.store.writer = .idle) (hd : s.store.durable ≠ 0xFFFFFFFF) :
    s.markDirty = s.writing := (State.markDirty_idle h).trans (State.startWrite_writing hd)

theorem State.markDirty_fault (h : s.store.writer = .idle) (hd : s.store.durable = 0xFFFFFFFF) :
    s.markDirty = State.writerFault { s with store := { s.store with dirty := true } } :=
  (State.markDirty_idle h).trans (State.startWrite_fault hd)

/-! ## The image -/

/-- The freeze level an image carries for an ACTIVE record (R28, R29). -/
theorem State.durableFreeze_cases (ref : RegionRef) (f : Freeze) :
    (f = .openLevel → s.durableFreeze ref f = .openLevel) ∧ (f = .held → s.durableFreeze ref f = .held) ∧
      (∀ w, f = .fixed w → s.durableFreeze ref f = .fixed w) ∧
      (f = .fixing → (∀ w, s.fixWord ref = some w → s.durableFreeze ref f = .fixed (some w)) ∧
        (s.fixWord ref = none → s.durableFreeze ref f = .held)) := by
  refine ⟨?_, ?_, ?_, ?_⟩
  · rintro rfl; rfl
  · rintro rfl; rfl
  · rintro w rfl; rfl
  · rintro rfl
    refine ⟨fun w hw => ?_, fun hw => ?_⟩ <;> simp only [State.durableFreeze, hw]

theorem Image.sealed_check (i : Image) : i.sealed.check = crc32 i.sealed.content := rfl

theorem State.capture_getElem? {q : Word} {n : Nat} {r : Record} (h : s.dir.records[n]? = some r) :
    (s.capture q).records[n]? = some (s.durableRecord n r) := by
  unfold State.capture
  rw [Image.sealed_records, List.getElem?_mapIdx, h]
  rfl

/-- Settles O36: the three states of the writer, and the image record by record. -/
theorem changesStartAWrite : Obligations.ChangesStartAWrite := by
  refine ⟨fun s h => State.markDirty_busy h, fun s h hd => ?_, fun s h hd => State.markDirty_fault h hd, ?_⟩
  · rw [State.markDirty_writing h hd]
    unfold State.writing
    rw [Store.target_eq]
    congr 1
    refine List.map_congr_left fun x _ => ?_
    split
    next b hb =>
      split
      next hw => exact Slot.takeTarget_waiting hb hw
      next hw => exact Slot.takeTarget_other hb hw
    next hb => exact Slot.takeTarget_none hb
  · rintro s q i rfl
    refine ⟨rfl, ?_, rfl, rfl, Image.sealed_check _, ?_⟩
    · unfold State.capture
      rw [Image.sealed_records, List.length_mapIdx]
    · intro n r hr x hx
      obtain rfl : s.durableRecord n r = x := Option.some.inj ((State.capture_getElem? hr).symm.trans hx)
      unfold State.durableRecord
      refine ⟨fun hb => by rw [hb], fun d e hb => by rw [hb], fun d hb => by rw [hb], fun a hb => ?_⟩
      rw [hb]
      exact ⟨_, rfl, State.durableFreeze_cases _ _⟩

/-! ## A failed attempt -/

/-- What the FAULT of the writer makes of a slot (R37, R172). -/
def Slot.faulted (x : Slot) : Slot :=
  if x.inWaitDir || x.runningFormat then x.ended (.doneFail .dirFault) else x

theorem Slot.faulted_eq {x : Slot} {b : SlotBody} (h : x.body = some b) : x.faulted =
    if b.state.isWaitDir = true ∨ (b.work = .format ∧ b.state = .running)
    then Slot.endedAs x.useCount b (.doneFail .dirFault) else x := by
  unfold Slot.faulted
  rw [Slot.ended_eq h]
  exact if_congr (by rw [Bool.or_eq_true, Slot.inWaitDir_eq h, Slot.runningFormat_iff h]) rfl rfl

theorem Slot.faulted_none {x : Slot} (h : x.body = none) : x.faulted = x := by
  unfold Slot.faulted
  rw [Slot.inWaitDir_none h, Slot.runningFormat_none h]
  rfl

theorem State.writerFault_slot (n : Nat) : s.writerFault.slot n = (s.slot n).faulted :=
  State.slot_map (g := Slot.faulted) rfl rfl n

theorem State.attemptFails_eq {job : WriteJob} (h : s.store.writer = .writing job) :
    s.attemptFails = s.failAttempt job := by
  unfold State.attemptFails; rw [h]

/-- Settles O37: a failed attempt, then the writer's FAULT slot by slot. -/
theorem failedAttemptsRepeatOrDegrade : Obligations.FailedAttemptsRepeatOrDegrade := by
  refine ⟨fun s i job hi hw => ?_, ?_⟩
  · have he : exec i s = .next (s.failAttempt job) := by
      rw [← State.attemptFails_eq hw]
      rcases hi with rfl | rfl <;> rfl
    rw [he]
    exact ⟨fun h => congrArg _ (if_pos h), fun h => congrArg _ (if_neg (Nat.not_lt.2 h))⟩
  · rintro s t rfl
    refine ⟨State.writerFault_device s, fun n => ?_, State.writerFault_slots_length s, rfl⟩
    rw [State.writerFault_slot]
    split
    next b hb => exact Slot.faulted_eq hb
    next hb => exact Slot.faulted_none hb

/-! ## A completed write -/

theorem settleRecord_active_active {was now : Record} {old a : Region} (x : DurableRecord)
    (hc : was.body = .active old) (hr : now.body = .active a) :
    settleRecord was x now = ⟨now.generation, .active { a with
      extent := if old.growth.isSome then ⟨a.extent.first, a.extent.count + a.growth.getD 0⟩ else a.extent
      growth := if old.growth.isSome then none else a.growth
      freeze := match a.freeze, x.region.map DurableRegion.freeze with
        | .fixing, some (.fixed w) => .fixed w
        | l, _ => l }⟩ := by
  obtain ⟨generation, body⟩ := now
  obtain ⟨ident, extent, growth, freeze⟩ := a
  obtain ⟨ident0, extent0, growth0, freeze0⟩ := old
  subst hr
  unfold settleRecord
  rw [hc]
  cases growth0 with
  | none => rfl
  | some g0 => cases growth <;> rfl

theorem State.writeCompletes_eq {job : WriteJob} (h : s.store.writer = .writing job) :
    s.writeCompletes = if job.format then s.completeFormat job else (s.completeWrite job).kick.offer := by
  unfold State.writeCompletes; rw [h]

theorem State.kick_eq_markDirty : s.kick = if s.store.dirty then s.markDirty else s := by
  cases hd : s.store.dirty with
  | false => exact if_neg fun hc => by rw [hd] at hc; exact Bool.noConfusion hc.2
  | true =>
    have hs : { s with store := { s.store with dirty := true } } = s := by rw [← hd]
    unfold State.markDirty
    rw [hs]
    rfl

theorem State.completeWrite_dirty (job : WriteJob) : (s.completeWrite job).store.dirty = s.store.dirty := by
  unfold State.completeWrite Store.setCopy
  cases job.target <;> rfl

/-- Settles O38: the directory settled record by record, then the next write and the offer. -/
theorem completedWritesSettleTheDirectory : Obligations.CompletedWritesSettleTheDirectory := by
  intro s u job hw
  have hexec : exec .directoryWriteComplete s = .next s.writeCompletes := rfl
  rw [hexec, State.writeCompletes_eq hw]
  refine ⟨fun hf hu hlen hwd hscrub hrec hslots => ?_, fun hf => ?_⟩
  · have hdir : u.dir = s.dir.settle job := by
      have hmk : u.dir = ⟨u.dir.records, u.dir.scrub, u.dir.withdrawn⟩ := rfl
      rw [hmk, hwd, hscrub]
      unfold Directory.settle
      congr 1
      · refine List.ext_getElem? fun n => ?_
        rw [List.getElem?_mapIdx]
        cases hr : s.dir.records[n]? with
        | none =>
          rw [List.getElem?_eq_none_iff] at hr
          exact List.getElem?_eq_none_iff.2 (hlen ▸ hr)
        | some r =>
          refine (hrec n r _ _ hr rfl rfl).trans (congrArg some ?_)
          generalize job.captured.getD n ⟨0, .free⟩ = c
          generalize job.image.records.getD n ⟨0, none⟩ = x
          obtain ⟨cg, cb⟩ := c
          obtain ⟨rg, rb⟩ := r
          cases cb with
          | active old =>
            cases rb with
            | active a => exact (settleRecord_active_active x rfl rfl).symm
            | _ => rfl
          | _ => cases rb <;> rfl
      · exact List.map_congr_left fun f _ => if_congr List.contains_iff_mem.symm rfl rfl
    have hsl : u.slots = s.slots.map (Slot.targetDone job.image.sequence) := by
      refine hslots.trans (List.map_congr_left fun x _ => ?_)
      split
      next b hb => exact (Slot.targetDone_eq hb).symm
      next hb => exact (Slot.targetDone_none hb).symm
    have hc : u = s.completeWrite job := by rw [hu, hdir, hsl]; rfl
    rw [hf, hc, ← State.completeWrite_dirty job, ← State.kick_eq_markDirty]
    rfl
  · rw [hf]
    refine congrArg _ ?_
    rw [if_pos rfl]
    unfold State.completeFormat
    congr 1
    refine List.map_congr_left fun x _ => ?_
    cases hb : x.body with
    | some b =>
      rw [Slot.ended_eq hb]
      exact if_congr (Slot.runningFormat_iff hb) rfl rfl
    | none => exact if_neg (by rw [Slot.runningFormat_none hb]; exact Bool.false_ne_true)

end

end Sys2Proof.Machine
end

section
/-! PROOFS. The order of an offer: the READs, the head of the queue, then scrub (R65, R67, R115 to R120, R136 to
R138). -/

set_option Elab.async false

namespace Sys2Proof.Machine

section
variable {s : State} {n : Nat} {rest : List Nat} {b : SlotBody}

/-! ## READs and the queue -/

theorem State.offer_of_busy (h : s.sched.activity ≠ .idle ∨ s.loaded = false) : s.offer = s := by
  refine if_neg fun hc => ?_
  rcases h with h | h
  · exact h hc.1
  · exact Bool.false_ne_true (h.symm.trans hc.2)

theorem State.serveAll_none (h : s.sched.waiters = []) : s.serveAll = s := by
  unfold State.serveAll
  rw [h, List.foldl_nil, ← h]

theorem State.serveAll_loaded (s : State) : s.serveAll.loaded = s.loaded := by
  unfold State.loaded; rw [State.serveAll_device]

theorem State.offer_free (hi : s.sched.activity = .idle) (hl : s.loaded = true) :
    s.offer = State.offerQueue s.serveAll.sched.queue s.serveAll := if_pos ⟨hi, hl⟩

theorem State.offer_serves (hi : s.sched.activity = .idle) (hl : s.loaded = true) : s.offer = s.serveAll.offer := by
  rw [State.offer_free hi hl, State.offer_free (s := s.serveAll) ((State.serveAll_sched_activity s).trans hi)
    ((State.serveAll_loaded s).trans hl), State.serveAll_none (State.serveAll_waiters s)]

/-- A free array in service in which no READ waits. -/
structure State.Unread (s : State) : Prop where
  idle : s.sched.activity = .idle
  loaded : s.loaded = true
  waiters : s.sched.waiters = []

theorem State.Unread.offer (h : s.Unread) : s.offer = State.offerQueue s.sched.queue s := by
  rw [State.offer_free h.idle h.loaded, State.serveAll_none h.waiters]

/-- The queue with its head taken. -/
def State.popped (s : State) (rest : List Nat) : State := { s with sched := { s.sched with queue := rest } }

theorem State.startSlot_loaded (s : State) (n : Nat) : (s.startSlot n).loaded = s.loaded := by
  unfold State.loaded; rw [State.startSlot_device]

/-- A head that takes the array ends the offer (R137). -/
theorem State.Unread.offer_takes (h : s.Unread) (hq : s.sched.queue = n :: rest)
    (ht : ((s.popped rest).startSlot n).sched.activity ≠ .idle) : s.offer = (s.popped rest).startSlot n := by
  rw [h.offer, hq]
  exact if_neg ht

/-- A head that ends at once passes the offer on (R116, R119). -/
theorem State.Unread.offer_passes (h : s.Unread) (hq : s.sched.queue = n :: rest)
    (ht : ((s.popped rest).startSlot n).sched.activity = .idle) : s.offer = ((s.popped rest).startSlot n).offer := by
  have hu : ((s.popped rest).startSlot n).Unread :=
    ⟨ht, (State.startSlot_loaded _ n).trans h.loaded, (State.startSlot_sched_waiters _ n).trans h.waiters⟩
  rw [hu.offer, h.offer, hq, State.startSlot_sched_queue]
  exact if_pos ht

/-! ## The start of a slot -/

theorem State.setActivity_self {a : Activity} (h : s.sched.activity = a) : s.setActivity a = s := by
  subst h; rfl

theorem State.runSlot_eq (hb : (s.slot n).body = some b) :
    s.runSlot n = { s with slots := s.slots.set n ⟨(s.slot n).useCount, some { b with state := .running }⟩ } :=
  State.mapSlot_eq s n _ hb

theorem State.startSlot_scan (hb : (s.slot n).body = some b) (hw : b.work = .verify ∨ b.work = .fix) :
    s.startSlot n = { s with
      slots := s.slots.set n ⟨(s.slot n).useCount, some { b with state := .running }⟩
      sched := { s.sched with activity := .scan ⟨n, s.dir.extentOf b.regionNumber, 0, 0xFFFFFFFF, none⟩ } } := by
  have hr : s.startSlot n =
      (s.runSlot n).setActivity (.scan ⟨n, s.dir.extentOf b.regionNumber, 0, crc32Start, none⟩) := by
    unfold State.startSlot
    rw [hb]
    rcases hw with hw | hw <;> simp only [hw]
  rw [hr, State.runSlot_eq hb]
  rfl

theorem State.startSlot_program {o : Nat} {d : List Byte} (hb : (s.slot n).body = some b) (hw : b.work = .program o d)
    (hc : s.startChecks b = true) : s.startSlot n =
      (s.runSlot n).startProgram n ((s.dir.extentOf b.regionNumber).first * 8192 + o) := by
  unfold State.startSlot
  rw [hb]
  simp only [hw, hc]
  rfl

theorem State.startSlot_erase {x c : Nat} (hb : (s.slot n).body = some b) (hw : b.work = .erase x c)
    (hc : s.startChecks b = true) : s.startSlot n =
      (s.runSlot n).eraseUnit n ((s.dir.extentOf b.regionNumber).first + x) := by
  unfold State.startSlot
  rw [hb]
  simp only [hw, hc]
  rfl

theorem State.startProgram_runs {a : Nat} (h : (s.array.facts (a / 8192)).condition ≠ .incomplete) :
    s.startProgram n a = s.setActivity (.program n a) := if_neg h

theorem State.startProgram_incomplete {a : Nat} (h : (s.array.facts (a / 8192)).condition = .incomplete) :
    s.startProgram n a = s.endSlot n (.doneFail .unitIncomplete) := if_pos h

theorem ArrayState.atLimit_iff (a : ArrayState) (u : Nat) : a.atLimit u = true ↔ 60000 ≤ (a.facts u).eraseCount :=
  decide_eq_true_iff

theorem State.eraseUnit_runs {v : Nat} (h : (s.array.facts v).eraseCount < 60000) : s.eraseUnit n v =
    (s.mapSlot n fun b => { b with suspensions := 0 }).startErase (.slot n) v :=
  if_neg fun hc => Nat.not_le.2 h ((ArrayState.atLimit_iff _ _).1 hc)

theorem State.eraseUnit_worn {v : Nat} (h : 60000 ≤ (s.array.facts v).eraseCount) :
    s.eraseUnit n v = (s.endSlot n (.doneFail .worn)).setActivity .idle := if_pos ((ArrayState.atLimit_iff _ _).2 h)

/-- An ended slot shows nothing of the state it ended from. -/
theorem Slot.endedAs_state (c : BitVec 4) (b : SlotBody) (st st' : SlotState) :
    Slot.endedAs c { b with state := st' } st = Slot.endedAs c b st := rfl

theorem State.runSlot_endSlot (hb : (s.slot n).body = some b) (st : SlotState) : (s.runSlot n).endSlot n st =
    { s with slots := s.slots.set n (Slot.endedAs (s.slot n).useCount b st) } := by
  rw [State.runSlot_eq hb]
  exact State.endSlot_written (t := { s with slots := s.slots.set n _ }) (State.lt_of_body hb) rfl st

theorem State.runSlot_unsuspended (hb : (s.slot n).body = some b) :
    ((s.runSlot n).mapSlot n fun b => { b with suspensions := 0 }) = { s with
      slots := s.slots.set n ⟨(s.slot n).useCount, some { b with state := .running, suspensions := 0 }⟩ } := by
  rw [State.runSlot_eq hb]
  exact State.mapSlot_written (t := { s with slots := s.slots.set n _ }) (State.lt_of_body hb) rfl _

/-! ## Scrub -/

/-- A free array in service with no READ and no slot waiting: scrub's turn. -/
structure State.ScrubTurn (s : State) : Prop extends s.Unread where
  queue : s.sched.queue = []

theorem State.ScrubTurn.setDir (h : s.ScrubTurn) (d : Directory) : State.ScrubTurn { s with dir := d } :=
  ⟨⟨h.idle, h.loaded, h.waiters⟩, h.queue⟩

theorem State.ScrubTurn.markDirty (h : s.ScrubTurn) : s.markDirty.ScrubTurn where
  idle := by rw [State.markDirty_sched]; exact h.idle
  loaded := by rw [State.markDirty_loaded]; exact h.loaded
  waiters := by rw [State.markDirty_sched]; exact h.waiters
  queue := by rw [State.markDirty_sched]; exact h.queue

theorem State.ScrubTurn.scrubbed (h : s.ScrubTurn) (i u : Nat) (w : Bool) : (s.scrubbed i u w).ScrubTurn := by
  unfold State.scrubbed
  split
  · exact (h.setDir _).markDirty
  · exact h.setDir _

theorem State.ScrubTurn.removeComplete (h : s.ScrubTurn) (i : Nat) : (s.removeComplete i).ScrubTurn := by
  unfold State.removeComplete
  split
  · exact (h.setDir _).markDirty
  · exact h

theorem State.ScrubTurn.offer_succ (h : s.ScrubTurn) : s.offer = State.offerScrub (s.dir.scrubLeft + 1) s :=
  State.offer_eq_scrub h.idle h.loaded h.waiters h.queue (Nat.lt_succ_self _)

theorem State.ScrubTurn.offer_none (h : s.ScrubTurn) (he : s.dir.eligible = none) : s.offer = s := by
  rw [h.offer_succ]
  unfold State.offerScrub
  rw [he]

section
variable {i : Nat}

theorem State.ScrubTurn.offer_complete (h : s.ScrubTurn) (he : s.dir.eligible = some i)
    (hc : (s.dir.scrubAt i).complete = true) : s.offer = (s.removeComplete i).offer := by
  have ht := h.removeComplete i
  rw [h.offer_succ, State.offer_eq_scrub ht.idle ht.loaded ht.waiters ht.queue
    (State.scrubLeft_complete (Directory.eligible_lt he) hc)]
  simp only [State.offerScrub, he, hc, if_true]

/-- Scrub passes a unit over, or withdraws it, and the array goes on with the offer (R65). -/
theorem State.ScrubTurn.offer_scrubbed (h : s.ScrubTurn) (he : s.dir.eligible = some i)
    (hc : (s.dir.scrubAt i).complete = false) {w : Bool}
    (hw : w = false ∧ (s.dir.scrubAt i).next ∈ s.dir.withdrawn ∨
      w = true ∧ (s.dir.scrubAt i).next ∉ s.dir.withdrawn ∧ s.array.atLimit (s.dir.scrubAt i).next = true) :
    s.offer = ((s.scrubbed i (s.dir.scrubAt i).next w).removeComplete i).offer := by
  have ht := (h.scrubbed i (s.dir.scrubAt i).next w).removeComplete i
  have hlt := (State.scrubLeft_removeComplete _ i).trans_lt
    (State.scrubLeft_scrubbed (Directory.eligible_lt he) hc (s.dir.scrubAt i).next w)
  rw [h.offer_succ, State.offer_eq_scrub ht.idle ht.loaded ht.waiters ht.queue hlt]
  rcases hw with ⟨rfl, hin⟩ | ⟨rfl, hin, hlim⟩
  · simp [State.offerScrub, he, hc, hin]
  · simp [State.offerScrub, he, hc, hin, hlim]

theorem State.ScrubTurn.offer_erases (h : s.ScrubTurn) (he : s.dir.eligible = some i)
    (hc : (s.dir.scrubAt i).complete = false) (hin : (s.dir.scrubAt i).next ∉ s.dir.withdrawn)
    (hlim : s.array.atLimit (s.dir.scrubAt i).next = false) : s.offer = s.startErase .scrub (s.dir.scrubAt i).next := by
  rw [h.offer_succ]
  simp [State.offerScrub, he, hc, hin, hlim]

end

/-! ## The list's first eligible extent -/

section
variable {k : Nat} {f : ScrubExtent} {d : Directory}

theorem Directory.eligible_none_iff : d.eligible = none ↔ d.scrub.all (fun f => !f.eligible) = true := by
  unfold Directory.eligible
  rw [List.findIdx?_eq_none_iff, List.all_eq_true]
  exact forall₂_congr fun f _ => by rw [Bool.not_eq_true']

theorem Directory.scrubAt_eq (h : d.scrub[k]? = some f) : d.scrubAt k = f := by
  unfold Directory.scrubAt
  rw [List.getD_eq_getElem?_getD, h]
  rfl

theorem Directory.eligible_first (h : d.scrub[k]? = some f) (hf : f.eligible = true)
    (hl : ∀ (j : Nat) (g : ScrubExtent), j < k → d.scrub[j]? = some g → g.eligible = false) : d.eligible = some k := by
  obtain ⟨hk, he⟩ := List.getElem?_eq_some_iff.1 h
  refine List.findIdx?_eq_some_iff_getElem.2 ⟨hk, he ▸ hf, fun j hj => ?_⟩
  rw [hl j _ hj (List.getElem?_eq_getElem (hj.trans hk))]
  exact Bool.false_ne_true

theorem Directory.advance_eq (h : d.scrub[k]? = some f) :
    d.advance k = { d with scrub := d.scrub.set k { f with progress := f.progress + 1 } } := by
  obtain ⟨hk, -⟩ := List.getElem?_eq_some_iff.1 h
  unfold Directory.advance
  rw [modify_eq_set _ _ _ ⟨⟨0, 0⟩, 0, false⟩ hk, List.getD_eq_getElem?_getD, h]
  rfl

theorem ScrubExtent.complete_iff : f.complete = true ↔ f.extent.count ≤ f.progress := decide_eq_true_iff

theorem ScrubExtent.complete_false : f.complete = false ↔ f.progress < f.extent.count := by
  rw [← Bool.not_eq_true, ScrubExtent.complete_iff, Nat.not_le]

/-- The extent at `k` leaves the list once its progress has reached its count (R67). -/
theorem State.removeComplete_pos (h : s.dir.scrub[k]? = some f) (hc : f.extent.count ≤ f.progress) :
    s.removeComplete k = State.markDirty { s with dir := { s.dir with scrub := s.dir.scrub.eraseIdx k } } :=
  if_pos (by rw [Directory.scrubAt_eq h]; exact ScrubExtent.complete_iff.2 hc)

theorem State.removeComplete_neg (h : s.dir.scrub[k]? = some f) (hc : f.progress < f.extent.count) :
    s.removeComplete k = s :=
  if_neg (by rw [Directory.scrubAt_eq h, ScrubExtent.complete_false.2 hc]; exact Bool.false_ne_true)

end

/-- The head's start, for each kind of slot (R115, R116, R119, R137). -/
theorem State.Unread.offer_scan (h : s.Unread) (hq : s.sched.queue = n :: rest) (hb : (s.slot n).body = some b)
    (hw : b.work = .verify ∨ b.work = .fix) : s.offer = { s.popped rest with
      slots := s.slots.set n ⟨(s.slot n).useCount, some { b with state := .running }⟩
      sched := { (s.popped rest).sched with
        activity := .scan ⟨n, s.dir.extentOf b.regionNumber, 0, 0xFFFFFFFF, none⟩ } } := by
  have hs := State.startSlot_scan (s := s.popped rest) hb hw
  exact (h.offer_takes hq (by rw [hs]; nofun)).trans hs

theorem State.Unread.offer_program (h : s.Unread) (hq : s.sched.queue = n :: rest) (hb : (s.slot n).body = some b)
    {o : Nat} {d : List Byte} (hw : b.work = .program o d) (hc : s.startChecks b = true) {a : Nat}
    (ha : a = (s.dir.extentOf b.regionNumber).first * 8192 + o) :
    ((s.array.facts (a / 8192)).condition ≠ .incomplete → s.offer = { s.popped rest with
      slots := s.slots.set n ⟨(s.slot n).useCount, some { b with state := .running }⟩
      sched := { (s.popped rest).sched with activity := .program n a } }) ∧
    ((s.array.facts (a / 8192)).condition = .incomplete → s.offer = State.offer { s.popped rest with
      slots := s.slots.set n (Slot.endedAs (s.slot n).useCount b (.doneFail .unitIncomplete)) }) := by
  have hs := State.startSlot_program (s := s.popped rest) hb hw hc
  have hr := State.runSlot_eq (s := s.popped rest) hb
  subst ha
  refine ⟨fun hf => ?_, fun hf => ?_⟩
  · replace hs := hs.trans ((State.startProgram_runs (by rw [hr]; exact hf)).trans (congrArg (State.setActivity · _) hr))
    exact (h.offer_takes hq (by rw [hs]; nofun)).trans hs
  · replace hs := hs.trans ((State.startProgram_incomplete (by rw [hr]; exact hf)).trans
      (State.runSlot_endSlot (s := s.popped rest) hb _))
    exact (h.offer_passes hq (by rw [hs]; exact h.idle)).trans (congrArg State.offer hs)

theorem State.Unread.offer_erase (h : s.Unread) (hq : s.sched.queue = n :: rest) (hb : (s.slot n).body = some b)
    {x c : Nat} (hw : b.work = .erase x c) (hc : s.startChecks b = true) {v : Nat}
    (hv : v = (s.dir.extentOf b.regionNumber).first + x) :
    ((s.array.facts v).eraseCount < 60000 → s.offer = { s.popped rest with
      slots := s.slots.set n ⟨(s.slot n).useCount, some { b with state := .running, suspensions := 0 }⟩
      array := s.array.eraseStart v
      sched := { (s.popped rest).sched with
        activity := .erase (.slot n) ⟨v, s.array.header v, false, false, 0, false, false⟩ } }) ∧
    (60000 ≤ (s.array.facts v).eraseCount → s.offer = State.offer { s.popped rest with
      slots := s.slots.set n (Slot.endedAs (s.slot n).useCount b (.doneFail .worn)) }) := by
  have hs := State.startSlot_erase (s := s.popped rest) hb hw hc
  have hr := State.runSlot_eq (s := s.popped rest) hb
  subst hv
  refine ⟨fun hf => ?_, fun hf => ?_⟩
  · replace hs := hs.trans ((State.eraseUnit_runs (by rw [hr]; exact hf)).trans
      (congrArg (State.startErase · (.slot n) _) (State.runSlot_unsuspended hb)))
    exact (h.offer_takes hq (by rw [hs]; nofun)).trans hs
  · replace hs := hs.trans ((State.eraseUnit_worn (by rw [hr]; exact hf)).trans
      (congrArg (State.setActivity · .idle) (State.runSlot_endSlot (s := s.popped rest) hb _)))
    exact (h.offer_passes hq (by rw [hs]; rfl)).trans (congrArg State.offer (hs.trans
      (State.setActivity_self (s := { s.popped rest with slots := s.slots.set n _ }) h.idle)))

/-- Scrub's turn at its first eligible extent (R65, R67). -/
theorem State.ScrubTurn.offer_first (h : s.ScrubTurn) {k : Nat} {f : ScrubExtent} {v : Nat} {scrub : List ScrubExtent}
    {w : State} (hk : s.dir.scrub[k]? = some f) (he : s.dir.eligible = some k) (hv : v = f.extent.first + f.progress)
    (hscrub : scrub = s.dir.scrub.set k { f with progress := f.progress + 1 }) :
    (f.extent.count ≤ f.progress →
      s.offer = State.offer (State.markDirty { s with dir := { s.dir with scrub := s.dir.scrub.eraseIdx k } })) ∧
    (f.progress < f.extent.count → v ∉ s.dir.withdrawn → (s.array.facts v).eraseCount < 60000 →
      s.offer = s.startErase .scrub v) ∧
    (f.progress < f.extent.count → v ∈ s.dir.withdrawn →
      (f.progress + 1 < f.extent.count → s.offer = State.offer { s with dir := { s.dir with scrub := scrub } }) ∧
      (f.extent.count = f.progress + 1 → s.offer = State.offer (State.markDirty
          { s with dir := { s.dir with scrub := s.dir.scrub.eraseIdx k } }))) ∧
    (f.progress < f.extent.count → v ∉ s.dir.withdrawn → 60000 ≤ (s.array.facts v).eraseCount →
      w = State.markDirty { s with dir := { s.dir with scrub := scrub, withdrawn := unitInsert v s.dir.withdrawn } } →
      (f.progress + 1 < f.extent.count → s.offer = w.offer) ∧
      (f.extent.count = f.progress + 1 → s.offer = State.offer (State.markDirty
          { w with dir := { w.dir with scrub := s.dir.scrub.eraseIdx k } }))) := by
  have hat : s.dir.scrubAt k = f := Directory.scrubAt_eq hk
  have hnext : (s.dir.scrubAt k).next = v := by rw [hat, hv]; rfl
  have hdone : f.progress < f.extent.count → (s.dir.scrubAt k).complete = false := fun hp => by
    rw [hat]; exact ScrubExtent.complete_false.2 hp
  have hlen := (List.getElem?_eq_some_iff.1 hk).1
  have hpassed : scrub[k]? = some { f with progress := f.progress + 1 } := by
    rw [hscrub, List.getElem?_set_self hlen]
  have herase : scrub.eraseIdx k = s.dir.scrub.eraseIdx k := by rw [hscrub, List.eraseIdx_set_eq]
  have hadv : s.dir.advance k = { s.dir with scrub := scrub } := by rw [hscrub]; exact Directory.advance_eq hk
  refine ⟨fun hp => ?_, fun hp hin hlim => ?_, fun hp hin => ?_, fun hp hin hlim hw => ?_⟩
  · rw [h.offer_complete he (by rw [hat]; exact ScrubExtent.complete_iff.2 hp), State.removeComplete_pos hk hp]
  · rw [h.offer_erases he (hdone hp) (hnext ▸ hin)
      (by rw [hnext, ← Bool.not_eq_true, ArrayState.atLimit_iff, Nat.not_le]; exact hlim), hnext]
  · have ho := h.offer_scrubbed he (hdone hp) (.inl ⟨rfl, hnext ▸ hin⟩)
    have hs : s.scrubbed k (s.dir.scrubAt k).next false = { s with dir := { s.dir with scrub := scrub } } := by
      rw [← hadv]; rfl
    rw [ho, hs]
    refine ⟨fun hm => ?_, fun hm => ?_⟩
    · rw [State.removeComplete_neg hpassed hm]
    · rw [State.removeComplete_pos hpassed hm.le, herase]
  · have ho := h.offer_scrubbed he (hdone hp)
      (.inr ⟨rfl, hnext ▸ hin, by rw [hnext]; exact (ArrayState.atLimit_iff _ _).2 hlim⟩)
    have hs : s.scrubbed k (s.dir.scrubAt k).next true = w := by
      rw [hw, hnext]
      unfold State.scrubbed
      rw [if_pos rfl, hadv]
      rfl
    have hdir : w.dir.scrub = scrub := by rw [hw, State.markDirty_dir]
    rw [ho, hs]
    refine ⟨fun hm => ?_, fun hm => ?_⟩
    · rw [State.removeComplete_neg (hdir ▸ hpassed) hm]
    · rw [State.removeComplete_pos (hdir ▸ hpassed) hm.le, hdir, herase]

/-- Settles O39: the READs, the head of the queue by its kind, then scrub at its first eligible extent. -/
theorem offersFollowTheOrder : Obligations.OffersFollowTheOrder := by
  refine fun s => ⟨State.offer_of_busy, fun hi hl => ⟨?_, fun hwait n rest b u hq hb hn hu => ?_, fun hwait hq => ?_⟩⟩
  · rw [← State.serveAll_eq]
    exact State.offer_serves hi hl
  · have h : s.Unread := ⟨hi, hl, hwait⟩
    subst hu
    exact ⟨h.offer_scan hq hb, fun o d a hw hc ha => h.offer_program hq hb hw hc ha,
      fun x c v hw hc hv => h.offer_erase hq hb hw hc hv⟩
  · have h : s.ScrubTurn := ⟨⟨hi, hl, hwait⟩, hq⟩
    exact ⟨fun hall => h.offer_none (Directory.eligible_none_iff.2 hall),
      fun k f v scrub w hk hf hfirst hv hscrub => h.offer_first hk (Directory.eligible_first hk hf hfirst) hv hscrub⟩

end

end Sys2Proof.Machine
end

section
/-! PROOFS. What the array's operations leave in a unit, and how page programs and the unit erases of ERASE slots end
(R3 to R18, R116 to R120). -/

set_option Elab.async false

namespace Sys2Proof.Machine

/-! ## Headers, map and bytes -/

section
variable {a : ArrayState}

/-- Settles O40: from the reads of the sparse lists after each operation. -/
theorem arrayOperationsOnAUnit : Obligations.ArrayOperationsOnAUnit := by
  intro a u v x sets run l hdata hheaders hmap
  refine ⟨⟨ArrayState.header_writeHeader hheaders _ _ _, ArrayState.facts_writeHeader hmap _ _ _, rfl⟩,
    ⟨ArrayState.header_writeHeader (a := a.eraseData u) hheaders _ _ _, ?_, ?_⟩, ⟨rfl, rfl, ?_⟩, ⟨?_, ?_, ?_⟩,
    ⟨ArrayState.header_writeHeader hheaders _ _ _, ?_, rfl⟩, mem_unitInsert⟩
  · exact ArrayState.facts_writeHeader (a := a.eraseData u) hmap _ _ _
  · exact (ArrayState.byte_eraseData a u x).trans (if_congr inUnit_iff rfl rfl)
  · exact (ArrayState.byte_partialErase hdata _ _ _).trans (if_congr inUnit_iff rfl rfl)
  · unfold ArrayState.stopErase
    split <;> rfl
  · unfold ArrayState.stopErase
    split <;> rfl
  · exact (ArrayState.byte_stopErase hdata run sets x).trans (if_congr inUnit_iff rfl rfl)
  · refine (ArrayState.facts_writeHeader hmap _ _ _).trans (if_congr Iff.rfl ?_ rfl)
    unfold Header.facts Header.condition
    cases (a.header u).eraseMark <;> rfl

/-! ## Programs -/

/-- The data of the array is one list for its bytes (R1, R18). -/
theorem ArrayState.ext_bytes {after : ArrayState} (ha : Memory.wf a.data = true) (hf : Memory.wf after.data = true)
    (hh : after.headers = a.headers) (hm : after.map = a.map) (hb : ∀ x, after.byte x = a.byte x) : after = a := by
  have hd : after.data = a.data := sparse_ext erasedByte _ _ hf ha hb
  obtain ⟨data, headers, map⟩ := a
  obtain ⟨data', headers', map'⟩ := after
  cases hd; cases hh; cases hm
  rfl

theorem ArrayState.programBytes_unique {after : ArrayState} {landed : Nat → Bool} {x : Nat} {l : List Byte}
    (ha : Memory.wf a.data = true) (hf : Memory.wf after.data = true) (hh : after.headers = a.headers)
    (hm : after.map = a.map)
    (hb : ∀ y, after.byte y = if x ≤ y ∧ y < x + l.length ∧ landed y = true then a.byte y &&& l.getD (y - x) 0
      else a.byte y) : a.programBytes landed x l = after := by
  refine (ArrayState.ext_bytes (ArrayState.wf_programBytes landed l x ha) hf ?_ ?_ fun y => ?_).symm
  · rw [hh, ArrayState.programBytes_headers]
  · rw [hm, ArrayState.programBytes_map]
  · rw [hb, ArrayState.byte_programBytes landed l x ha]

end

section
variable {s : State} {n : Nat} {b : SlotBody}

theorem State.slotWork_eq (hb : (s.slot n).body = some b) : s.slotWork n = some b.work := by
  unfold State.slotWork; rw [hb]; rfl

/-- A slot's progress set and the slot ended, in one write. -/
theorem State.endSlot_mapSlot (hb : (s.slot n).body = some b) (f : SlotBody → SlotBody) (st : SlotState) :
    (s.mapSlot n f).endSlot n st = { s with slots := s.slots.set n (Slot.endedAs (s.slot n).useCount (f b) st) } := by
  rw [State.mapSlot_eq s n f hb]
  exact State.endSlot_written (t := { s with slots := s.slots.set n _ }) (State.lt_of_body hb) rfl st

/-- Settles O41: the data of the array is given by its bytes. -/
theorem programsEnd : Obligations.ProgramsEnd := by
  intro s n a b o d after ha hn hb hw hdata hafter hheaders hmap
  have hpage : s.pageData n = d := State.pageData_eq (by rw [State.slotWork_eq hb, hw])
  refine ⟨fun hbyte => ?_, fun hbyte i hi => ?_⟩
  · have harr := ArrayState.programBytes_unique (landed := fun _ => true) hdata hafter hheaders hmap
      fun y => (hbyte y).trans (if_congr (by rw [eq_self, and_true]) rfl rfl)
    refine congrArg Host.Outcome.next ((State.endProgram_success ha).trans ?_)
    rw [hpage, harr]
    exact congrArg State.freeArray (State.endSlot_mapSlot (s := { s with array := after }) hb _ _)
  · have harr := ArrayState.programBytes_unique hdata hafter hheaders hmap hbyte
    have he : exec i s = .next (s.endProgram .arrayFault) := by rcases hi with rfl | rfl <;> rfl
    rw [he]
    refine congrArg Host.Outcome.next ((State.endProgram_fault ha).trans ?_)
    rw [hpage, harr]
    exact congrArg State.freeArray (State.endSlot_eq (State.drawn { s with array := after }) n _ hb)

/-! ## Unit erases of ERASE slots -/

theorem State.endPause_running {o : EraseOwner} {run : EraseRun} (ha : s.sched.activity = .erase o run)
    (hr : run.suspended = false) : s.endPause = s := by
  unfold State.endPause
  rw [ha]
  exact if_neg (by rw [hr]; exact Bool.false_ne_true)

/-- What the end of a unit erase leads to for each of its owners (R66, R120, R171). -/
def State.unitEnded (s : State) (o : EraseOwner) (u : Nat) (r : ArrayEnd) : State :=
  match o with
  | .slot n => s.slotUnitEnd n u r
  | .scrub => s.scrubUnitEnd u r
  | .format n => s.formatUnitEnd n u r

theorem State.endErase_running {o : EraseOwner} {run : EraseRun} (ha : s.sched.activity = .erase o run)
    (hr : run.suspended = false) (r : ArrayEnd) :
    s.endErase r = (s.eraseContent run r).unitEnded o run.unit r := by
  unfold State.endErase
  rw [State.endPause_running ha hr, ha]
  cases o <;> rfl

theorem exec_eraseFault {i : Instr} (hi : i = .eraseEnd .arrayFault ∨ i = .eraseTimeout) :
    exec i s = .next (s.endErase .arrayFault) := by
  rcases hi with rfl | rfl <;> rfl

theorem State.unitsLeft_erase {u c : Nat} (hb : (s.slot n).body = some b) (hw : b.work = .erase u c) :
    s.unitsLeft n = decide (b.progress < c) := by
  unfold State.unitsLeft
  rw [hb]
  simp only [hw]

theorem State.unitDone_eq (hb : (s.slot n).body = some b) : s.unitDone n =
    { s with slots := s.slots.set n ⟨(s.slot n).useCount, some { b with progress := b.progress + 1 }⟩ } :=
  State.mapSlot_eq s n _ hb

theorem State.unitDone_body (hb : (s.slot n).body = some b) :
    ((s.unitDone n).slot n).body = some { b with progress := b.progress + 1 } := by
  rw [State.slot_written (t := s.unitDone n) (State.lt_of_body hb)
    (congrArg State.slots (State.unitDone_eq hb))]

/-- Settles O42: the erase is running, and its slot has units left or not. -/
theorem slotErasesEnd : Obligations.SlotErasesEnd := by
  intro s n run b u c done ha hr hn hb hw hdone
  subst hdone
  have hend (r : ArrayEnd) := State.endErase_running ha hr r
  have hs : s.eraseContent run .success = { s with array := s.array.eraseDone run.unit } := rfl
  have hleft : (State.unitDone { s with array := s.array.eraseDone run.unit } n).unitsLeft n =
      decide (b.progress + 1 < c) :=
    State.unitsLeft_erase (State.unitDone_body (s := { s with array := s.array.eraseDone run.unit }) hb) hw
  refine ⟨fun hc => ?_, fun hc => ?_, fun i hi => ?_⟩
  · refine congrArg Host.Outcome.next ((hend .success).trans ((State.slotUnitEnd_success _ _ _).trans ?_))
    rw [hs, hleft, if_pos (decide_eq_true hc), State.serveAll_eq]
    exact congrArg (fun t => State.setActivity (State.readsServed t) _)
      (State.unitDone_eq (s := { s with array := s.array.eraseDone run.unit }) hb)
  · refine congrArg Host.Outcome.next ((hend .success).trans ((State.slotUnitEnd_success _ _ _).trans ?_))
    rw [hs, hleft, if_neg (by rw [decide_eq_true_iff]; exact Nat.not_lt.2 hc)]
    exact congrArg State.freeArray
      (State.endSlot_mapSlot (s := { s with array := s.array.eraseDone run.unit }) hb _ _)
  · rw [exec_eraseFault hi]
    exact congrArg Host.Outcome.next ((hend .arrayFault).trans (congrArg State.freeArray
      (State.endSlot_eq (s.eraseContent run .arrayFault) n _ hb)))

end

end Sys2Proof.Machine
end

section
/-! PROOFS. The ends of the erases of scrub and of the FORMAT pass (R66, R67, R171, R172). -/

set_option Elab.async false

namespace Sys2Proof.Machine

section
variable {s : State} {n : Nat} {b : SlotBody}

/-! ## Scrub -/

theorem State.freeArray_idle (h : s.sched.activity = .idle) : s.freeArray = s.offer :=
  congrArg State.offer (State.setActivity_self h)

/-- A unit withdrawn by scrub at the extent `k`, or left clean. -/
theorem State.scrubbed_eq {k u : Nat} {f : ScrubExtent} {scrub : List ScrubExtent} (hk : s.dir.scrub[k]? = some f)
    (hs : scrub = s.dir.scrub.set k { f with progress := f.progress + 1 }) (w : Bool) : s.scrubbed k u w =
    if w then State.markDirty { s with dir := { s.dir with scrub := scrub, withdrawn := unitInsert u s.dir.withdrawn } }
    else { s with dir := { s.dir with scrub := scrub } } := by
  unfold State.scrubbed
  rw [Directory.advance_eq hk, ← hs]
  rfl

theorem State.scrubUnitEnd_eq {k u : Nat} (he : s.dir.eligible = some k) {r : ArrayEnd} {clean : Bool}
    (hc : clean = !(decide (r = .arrayFault) || s.array.atLimit u)) :
    s.scrubUnitEnd u r = (((s.setActivity .idle).scrubbed k u !clean).removeComplete k).offer := by
  unfold State.scrubUnitEnd
  rw [he, hc, Bool.not_not]
  exact State.freeArray_idle (by rw [State.removeComplete_sched, State.scrubbed_sched]; rfl)

/-- The units of an extent that leaves the list are in the free pool, but for those withdrawn (R45, R67). -/
theorem State.PlaceLaw.freed (h : s.PlaceLaw) {k u : Nat} {f : ScrubExtent} (hk : s.dir.scrub[k]? = some f)
    (hf : f.extent.contains u = true) (hw : u ∉ s.dir.withdrawn) :
    Directory.place { s.dir with scrub := s.dir.scrub.eraseIdx k } u = .free := by
  have hpos : ∀ (j : Nat) (g : ScrubExtent), s.dir.scrub[j]? = some g →
      (s.dir.scrub.map (·.extent))[j]? = some g.extent := fun j g hj => by rw [List.getElem?_map, hj]; rfl
  refine Directory.place_free (fun m e he => ?_) hw fun g hg => ?_
  · rw [← Bool.not_eq_true]
    intro hc
    have hapart := (h.working.apart m e u he hc).2 f.extent (List.mem_of_getElem? (hpos k f hk))
    exact Bool.false_ne_true (hapart.symm.trans hf)
  · obtain ⟨j, hj, hg⟩ := List.mem_eraseIdx_iff_getElem?.1 hg
    rw [← Bool.not_eq_true]
    exact fun hc => hj (h.working.scrubbed j k _ _ u (hpos j g hg) (hpos k f hk) hc hf)

/-- The end of a scrub erase, from what it left in the array (R66, R67). -/
theorem State.scrubEnd_eq {k u : Nat} {f : ScrubExtent} {scrub : List ScrubExtent} {r : ArrayEnd} {clean : Bool}
    {t w : State} (hk : s.dir.scrub[k]? = some f) (he : s.dir.eligible = some k)
    (hs : scrub = s.dir.scrub.set k { f with progress := f.progress + 1 })
    (hc : clean = !(decide (r = .arrayFault) || s.array.atLimit u)) (ht : t = s.setActivity .idle)
    (hw : w = State.markDirty
      { t with dir := { s.dir with scrub := scrub, withdrawn := unitInsert u s.dir.withdrawn } }) :
    (f.progress + 1 < f.extent.count → s.scrubUnitEnd u r =
      State.offer (if clean then { t with dir := { s.dir with scrub := scrub } } else w)) ∧
    (f.extent.count ≤ f.progress + 1 → s.scrubUnitEnd u r = State.offer (State.markDirty (if clean
      then { t with dir := { s.dir with scrub := s.dir.scrub.eraseIdx k } }
      else { w with dir := { w.dir with scrub := s.dir.scrub.eraseIdx k } }))) := by
  have hlen := (List.getElem?_eq_some_iff.1 hk).1
  have hpassed : scrub[k]? = some { f with progress := f.progress + 1 } := by rw [hs, List.getElem?_set_self hlen]
  have herase : scrub.eraseIdx k = s.dir.scrub.eraseIdx k := by rw [hs, List.eraseIdx_set_eq]
  have hend : (s.setActivity .idle).scrubbed k u (!clean) =
      if clean then { t with dir := { s.dir with scrub := scrub } } else w := by
    rw [State.scrubbed_eq (s := s.setActivity .idle) hk hs, hw, ht]
    cases clean <;> rfl
  have hdir : ∀ v, v = (if clean then { t with dir := { s.dir with scrub := scrub } } else w) →
      v.dir.scrub = scrub := by
    rintro v rfl
    cases clean
    · exact (congrArg (fun v : State => v.dir.scrub) hw).trans (by rw [State.markDirty_dir])
    · rfl
  rw [State.scrubUnitEnd_eq he hc, hend]
  refine ⟨fun hm => ?_, fun hm => ?_⟩
  · rw [State.removeComplete_neg (by rw [hdir _ rfl]; exact hpassed) hm]
  · rw [State.removeComplete_pos (by rw [hdir _ rfl]; exact hpassed) hm, hdir _ rfl, herase]
    cases clean <;> rfl

/-! ## FORMAT -/

/-- The state FORMAT's pass stands in after the unit `first` ended and those after it up to `u` were withdrawn. -/
theorem State.formatUnitEnd_eq {first : Nat} (hb : (s.slot n).body = some b) {r : ArrayEnd}
    {gone : List Nat}
    (hg : gone = if r = .arrayFault ∨ s.array.atLimit first = true then unitInsert first s.formatWithdrawn
      else s.formatWithdrawn) :
    s.formatUnitEnd n first r = State.formatPass n (1024 - (first + 1)) { s with
      formatWithdrawn := gone
      slots := s.slots.set n ⟨(s.slot n).useCount, some { b with progress := b.progress + 1 }⟩ } := by
  have ht : (if r = .arrayFault ∨ s.array.atLimit first = true then s.formatWithdraw first else s) =
      { s with formatWithdrawn := gone } := by
    rw [hg]
    split <;> rfl
  unfold State.formatUnitEnd
  rw [ht]
  exact congrArg (State.formatPass n (1024 - (first + 1)))
    (State.mapSlot_eq { s with formatWithdrawn := gone } n _ hb)

/-- The pass after the erase of the unit `first` ended and the units from there to before `u` were withdrawn unerased
(R171). -/
def State.formatPassed (s : State) (n : Nat) (b : SlotBody) (first : Nat) (gone : List Nat) (u : Nat) : State :=
  { s with
    formatWithdrawn := withdrawRange (first + 1) u gone
    slots := s.slots.set n ⟨(s.slot n).useCount, some { b with progress := b.progress + (u - first) }⟩ }

theorem State.formatSkipped_next (hb : (s.slot n).body = some b) {first u : Nat} (hu : first < u) (gone : List Nat) :
    State.formatSkipped { s with
      formatWithdrawn := gone
      slots := s.slots.set n ⟨(s.slot n).useCount, some { b with progress := b.progress + 1 }⟩ }
      n { b with progress := b.progress + 1 } (first + 1) u = s.formatPassed n b first gone u := by
  have hslot := State.slot_written (t := { s with
      formatWithdrawn := gone
      slots := s.slots.set n ⟨(s.slot n).useCount, some { b with progress := b.progress + 1 }⟩ })
    (State.lt_of_body hb) rfl
  unfold State.formatSkipped
  rw [hslot]
  simp only [List.set_set, show b.progress + 1 + (u - (first + 1)) = b.progress + (u - first) by omega]
  rfl

section
variable {first : Nat} {gone : List Nat} {r : ArrayEnd}

theorem State.formatUnitEnd_erases (hb : (s.slot n).body = some b)
    (hg : gone = if r = .arrayFault ∨ s.array.atLimit first = true then unitInsert first s.formatWithdrawn
      else s.formatWithdrawn) {u : Nat} (hu : first < u) (hlast : u < 1024)
    (hskip : ∀ v, first < v → v < u → s.array.unfit v) (hfit : ¬ s.array.unfit u) :
    s.formatUnitEnd n first r = (s.formatPassed n b first gone u).startErase (.format n) u := by
  have hnext : 1024 - (1024 - (first + 1)) = first + 1 := by omega
  have hslot := State.slot_written (t := { s with
      formatWithdrawn := gone
      slots := s.slots.set n ⟨(s.slot n).useCount, some { b with progress := b.progress + 1 }⟩ })
    (State.lt_of_body hb) rfl
  rw [State.formatUnitEnd_eq hb hg, State.formatPass_eq_erase (congrArg Slot.body hslot) (Nat.sub_le _ _)
    (by omega) hlast (fun v hv => hskip v (by omega)) hfit, hnext, State.formatSkipped_next hb hu]

theorem State.formatUnitEnd_writes (hb : (s.slot n).body = some b)
    (hg : gone = if r = .arrayFault ∨ s.array.atLimit first = true then unitInsert first s.formatWithdrawn
      else s.formatWithdrawn) (hfirst : first < 1024) (hskip : ∀ v, first < v → v < 1024 → s.array.unfit v) :
    s.formatUnitEnd n first r = (s.formatPassed n b first gone 1024).formatWrite := by
  have hnext : 1024 - (1024 - (first + 1)) = first + 1 := by omega
  have hslot := State.slot_written (t := { s with
      formatWithdrawn := gone
      slots := s.slots.set n ⟨(s.slot n).useCount, some { b with progress := b.progress + 1 }⟩ })
    (State.lt_of_body hb) rfl
  rw [State.formatUnitEnd_eq hb hg, State.formatPass_eq_write (congrArg Slot.body hslot) (Nat.sub_le _ _)
    (fun v hv => hskip v (by omega)), hnext, State.formatSkipped_next hb hfirst]

end

/-! ## The obligation -/

theorem ArrayState.not_atLimit (a : ArrayState) (u : Nat) :
    (!a.atLimit u) = decide ((a.facts u).eraseCount < 60000) := by
  unfold ArrayState.atLimit
  rw [← decide_not]
  exact decide_eq_decide.2 Nat.not_le

/-- An erase that ends with success, or faults or times out, and what it leaves in the array (R11, R14). -/
theorem exec_eraseEnd {i : Instr} {o : EraseOwner} {run : EraseRun} {r : ArrayEnd} {t : State}
    (ha : s.sched.activity = .erase o run) (hr : run.suspended = false)
    (hi : r = .success ∧ i = .eraseEnd .success ∨ r = .arrayFault ∧ (i = .eraseEnd .arrayFault ∨ i = .eraseTimeout))
    (ht : s.eraseContent run r = t) : exec i s = .next (t.unitEnded o run.unit r) := by
  rw [← ht, ← State.endErase_running ha hr]
  rcases hi with ⟨rfl, rfl⟩ | ⟨rfl, hi⟩
  · rfl
  · exact exec_eraseFault hi

/-- Settles O43: one end for success and fault, and the pass from the next unit on. -/
theorem scrubAndFormatErasesEnd : Obligations.ScrubAndFormatErasesEnd := by
  refine ⟨?_, ?_⟩
  · intro s i run k f scrub after d clean t w ha hr hk hf hfirst hscrub hi ht hw
    obtain ⟨r, hexec, hc⟩ : ∃ r, exec i s = .next (State.scrubUnitEnd { s with array := after, draws := d } run.unit r) ∧
        clean = !(decide (r = .arrayFault) || after.atLimit run.unit) := by
      rcases hi with ⟨hi, hafter, hd, hclean⟩ | ⟨hi, hclean, hd, hafter⟩
      · exact ⟨.success, exec_eraseEnd ha hr (.inl ⟨rfl, hi⟩) (by rw [hafter, hd]; rfl),
          hclean.trans (ArrayState.not_atLimit _ _).symm⟩
      · exact ⟨.arrayFault, exec_eraseEnd ha hr (.inr ⟨rfl, hi⟩) (by rw [hafter, hd]; rfl), hclean⟩
    have hend := State.scrubEnd_eq (s := { s with array := after, draws := d }) (u := run.unit) (r := r) hk
      (Directory.eligible_first hk hf hfirst) hscrub hc ht hw
    rw [hexec]
    exact ⟨fun hm => congrArg _ (hend.1 hm), fun hm => ⟨congrArg _ (hend.2 hm), fun hp u hu hout => hp.freed hk hu hout⟩⟩
  · intro s i n run b after d gone t unfit ha hr hn hb hunit hi hunfit ht
    obtain ⟨r, hexec, hg⟩ : ∃ r,
        exec i s = .next (State.formatUnitEnd { s with array := after, draws := d } n run.unit r) ∧
        gone = if r = .arrayFault ∨ after.atLimit run.unit = true then unitInsert run.unit s.formatWithdrawn
          else s.formatWithdrawn := by
      rcases hi with ⟨hi, hafter, hd, hgone⟩ | ⟨hi, hd, hafter, hgone⟩
      · refine ⟨.success, exec_eraseEnd ha hr (.inl ⟨rfl, hi⟩) (by rw [hafter, hd]; rfl), hgone.trans ?_⟩
        by_cases hc : (after.facts run.unit).eraseCount < 60000
        · rw [if_pos hc, if_neg]
          rintro (h | h)
          · cases h
          · exact absurd ((ArrayState.atLimit_iff _ _).1 h) (Nat.not_le.2 hc)
        · rw [if_neg hc, if_pos (.inr ((ArrayState.atLimit_iff _ _).2 (Nat.not_lt.1 hc)))]
      · exact ⟨.arrayFault, exec_eraseEnd ha hr (.inr ⟨rfl, hi⟩) (by rw [hafter, hd]; rfl),
          hgone.trans (if_pos (.inl rfl)).symm⟩
    have hpass (u : Nat) : t u = State.formatPassed { s with array := after, draws := d } n b run.unit gone u := ht u
    rw [hexec]
    refine ⟨fun u hu hlast hskip hfit => congrArg _ ?_, fun hskip => ⟨fun q h0 h1 hq => congrArg _ ?_,
      fun hq => congrArg _ ?_⟩⟩
    · rw [State.formatUnitEnd_erases (s := { s with array := after, draws := d }) hb hg hu hlast
        (fun v h h' => (hunfit v).1 (hskip v h h')) fun hc => hfit ((hunfit u).2 hc), hpass u]
      rfl
    · rw [State.formatUnitEnd_writes (s := { s with array := after, draws := d }) hb hg hunit
        (fun v h h' => (hunfit v).1 (hskip v h h')), hpass 1024]
      exact State.formatWrite_image h0 h1 hq
    · rw [State.formatUnitEnd_writes (s := { s with array := after, draws := d }) hb hg hunit
        (fun v h h' => (hunfit v).1 (hskip v h h')), hpass 1024]
      exact State.formatWrite_fault hq

end

end Sys2Proof.Machine
end

section
/-! PROOFS. How mark writes and scan steps end (R15, R16, R78 to R84, R131). -/

set_option Elab.async false

namespace Sys2Proof.Machine

section
variable {s : State} {b : SlotBody}

theorem State.slotRegion_eq {n : Nat} (hb : (s.slot n).body = some b) : s.slotRegion n = b.regionNumber := by
  unfold State.slotRegion; rw [hb]; rfl

theorem State.setFreeze_eq {n : Nat} {a : Region} {l : Freeze} (h : (s.dir.record n).body = .active a) :
    s.setFreeze n l = { s with dir := s.dir.setBody n (.active { a with freeze := l }) } := by
  unfold State.setFreeze
  rw [Directory.mapRegion_eq h]

theorem State.freeArray_markDirty (h : s.sched.activity = .idle) : s.markDirty.freeArray = s.markDirty.offer :=
  State.freeArray_idle ((congrArg Scheduler.activity (State.markDirty_sched s)).trans h)

/-! ## Mark writes -/

section
variable {run : MarkRun} {u : Nat}

/-- What a mark write that ended with success leaves: the unit marked and the progress advanced (R15, R79). -/
def State.marked (s : State) (run : MarkRun) (u : Nat) : State :=
  { s with array := s.array.markUnit u }.mapSlot run.slot fun b => { b with progress := b.progress + 1 }

theorem State.endMark_success (ha : s.sched.activity = .mark run) (hu : u = run.extent.first + run.done) :
    s.endMark .success = if run.done + 1 < run.extent.count
      then (s.marked run u).serveAll.setActivity (.mark { run with done := run.done + 1 })
      else (s.marked run u).fixMarked run.slot := by
  unfold State.endMark
  rw [ha, hu]
  rfl

theorem State.marked_eq (hb : (s.slot run.slot).body = some b) : s.marked run u = { s with
    array := s.array.markUnit u
    slots := s.slots.set run.slot ⟨(s.slot run.slot).useCount, some { b with progress := b.progress + 1 }⟩ } :=
  State.mapSlot_eq { s with array := s.array.markUnit u } run.slot _ hb

theorem State.endMark_fault (ha : s.sched.activity = .mark run) {after : ArrayState}
    (hafter : after = if Config.markLanded s.draws = true then s.array.markUnit (run.extent.first + run.done)
      else s.array) : s.endMark .arrayFault =
    State.fixFault { s with array := after, draws := s.draws + 1 } run.slot (s.slotRegion run.slot) run.extent := by
  unfold State.endMark
  rw [ha, hafter]
  cases Config.markLanded s.draws <;> rfl

theorem exec_markFault {i : Instr} (hi : i = .markWriteEnd .arrayFault ∨ i = .markWriteTimeout) :
    exec i s = .next (s.endMark .arrayFault) := by
  rcases hi with rfl | rfl <;> rfl

theorem ArrayState.anyMarked_iff (a : ArrayState) (e : Extent) :
    a.anyMarked e = true ↔ ∃ v, v < e.count ∧ (a.facts (e.first + v)).fixedMark = true := by
  unfold ArrayState.anyMarked
  simp only [List.any_eq_true, List.mem_range]

/-- A faulted mark write ends its slot and settles the region's freeze level (R80). -/
theorem State.fixFault_eq {n r : Nat} {e : Extent} {a : Region} (hb : (s.slot n).body = some b)
    (hr : (s.dir.record r).body = .active a) {t : Freeze → State}
    (ht : ∀ l, t l = { s with
      dir := s.dir.setBody r (.active { a with freeze := l })
      slots := s.slots.set n (Slot.endedAs (s.slot n).useCount b (.doneFail .arrayFault))
      sched := { s.sched with activity := .idle } }) :
    s.fixFault n r e = if s.array.anyMarked e then (t (.fixed none)).markDirty.offer else (t .held).offer := by
  have hset (l : Freeze) : ((s.endSlot n (.doneFail .arrayFault)).setActivity .idle).setFreeze r l = t l := by
    refine (State.setFreeze_eq (s := (s.endSlot n _).setActivity .idle) hr).trans ?_
    rw [State.endSlot_eq s n _ hb, ht]
    rfl
  have hidle (l : Freeze) : (t l).sched.activity = .idle := by rw [ht]
  unfold State.fixFault
  simp only [hset]
  rw [State.freeArray_markDirty (hidle _), State.freeArray_idle (hidle _)]

/-- Settles O44: the mark and the progress, then what the last write leads to. -/
theorem markWritesEnd : Obligations.MarkWritesEnd := by
  intro s run b u ha hn hb hu
  have hend := State.endMark_success ha hu
  have hm := State.marked_eq (u := u) hb
  refine ⟨fun hc => ?_, fun hc hw => ?_, fun hc hw => ?_, fun i after a g hi hafter hrec => ?_⟩
  · refine congrArg Host.Outcome.next (hend.trans ?_)
    rw [if_pos hc, hm, State.serveAll_eq]
  · refine congrArg Host.Outcome.next (hend.trans ?_)
    rw [if_neg (Nat.not_lt.2 hc), hm]
    unfold State.fixMarked
    refine (if_neg hw).trans ?_
    rw [State.mapSlot_written (t := { s with array := s.array.markUnit u, slots := s.slots.set run.slot _ }) hn rfl]
    exact State.freeArray_markDirty rfl
  · refine congrArg Host.Outcome.next (hend.trans ?_)
    rw [if_neg (Nat.not_lt.2 hc), hm]
    unfold State.fixMarked
    have he := State.endSlot_written (t := { s with
      array := s.array.markUnit u
      store := { s.store with dirty := true }
      slots := s.slots.set run.slot ⟨(s.slot run.slot).useCount, some { b with progress := b.progress + 1 }⟩ })
      hn rfl (.doneFail .dirFault)
    exact (if_pos hw).trans (congrArg State.freeArray he)
  · have hreg : s.slotRegion run.slot = b.regionNumber := State.slotRegion_eq hb
    have hfault := State.fixFault_eq (s := { s with array := after, draws := s.draws + 1 }) (e := run.extent) hb
      (a := a) (r := b.regionNumber) (by rw [hrec]) fun _ => rfl
    rw [exec_markFault hi, State.endMark_fault ha (hu ▸ hafter), hreg, hfault]
    refine ⟨fun hv => congrArg _ ?_, fun hv => congrArg _ ?_⟩
    · exact if_pos ((ArrayState.anyMarked_iff _ _).2 hv)
    · refine if_neg fun hc => ?_
      obtain ⟨v, hv', hm⟩ := (ArrayState.anyMarked_iff _ _).1 hc
      exact Bool.false_ne_true ((hv v hv').symm.trans hm)

end

/-! ## Scan steps -/

section
variable {run : ScanRun} {crc : Word}

/-- The remainder after the unit of a scan step (R16, R78). -/
def State.scanned (s : State) (run : ScanRun) : Word :=
  crc32Feed run.crc ((List.range 8192).map fun k => s.array.byte ((run.extent.first + run.done) * 8192 + k))

theorem State.scanned_eq (s : State) (run : ScanRun) : crc32Feed run.crc
    (s.array.bytes (unitBase (run.extent.first + run.done)) Config.unitSize) = s.scanned run := rfl

theorem State.endScan_next (ha : s.sched.activity = .scan run) (hc : run.done + 1 < run.extent.count)
    (hn : run.cancel = none) : s.endScan =
      (s.unitDone run.slot).serveAll.setActivity (.scan { run with done := run.done + 1, crc := s.scanned run }) := by
  unfold State.endScan
  simp only [ha, if_pos hc, hn, State.scanned_eq]
  rfl

theorem State.endScan_cancelled (ha : s.sched.activity = .scan run) (hc : run.done + 1 < run.extent.count)
    {p : Port} {tag : Byte} (hn : run.cancel = some (p, tag)) :
    s.endScan = (s.unitDone run.slot).verifyCancelled run := by
  unfold State.endScan
  simp only [ha, if_pos hc, hn]
  rfl

theorem State.endScan_last (ha : s.sched.activity = .scan run) (hc : run.extent.count ≤ run.done + 1)
    (hb : (s.slot run.slot).body = some b) : s.endScan =
      if b.work = .fix then (s.unitDone run.slot).beginMarks run (crc32Value (s.scanned run))
      else (s.unitDone run.slot).verifyDone run (crc32Value (s.scanned run)) := by
  unfold State.endScan
  simp only [ha, if_neg (Nat.not_lt.2 hc), State.slotWork_eq hb, State.scanned_eq]
  cases b.work <;> rfl

/-- The last scan step of a VERIFY ends its slot with the value and its comparison (R84). -/
theorem State.verifyDone_eq {value : Word} {cmp : Comparison} (hb : (s.slot run.slot).body = some b)
    (hc : s.compareWord b.regionNumber value = cmp) :
    s.verifyDone run value = State.freeArray (State.answerCancel { s with
      slots := s.slots.set run.slot (Slot.endedAs (s.slot run.slot).useCount
        { b with value := some value, comparison := some cmp } .doneOk) } run.cancel .tooLate .doneOk) := by
  unfold State.verifyDone
  simp only [State.slotRegion_eq hb, hc, State.endSlot_mapSlot hb]

/-- Settles O45: the remainder fed, then what the step boundary leads to. -/
theorem scanStepsEnd : Obligations.ScanStepsEnd := by
  intro s run b crc body ha hn hb hcrc hbody
  have hscan : s.scanned run = crc := hcrc.symm
  have hdone : s.unitDone run.slot = { s with
      slots := s.slots.set run.slot ⟨(s.slot run.slot).useCount, some body⟩ } := by
    rw [hbody]
    exact State.unitDone_eq hb
  have hexec : exec .scanStepEnd s = .next s.endScan := rfl
  rw [hexec]
  refine ⟨fun hc hnone => congrArg _ ?_, fun p tag t hc hsome ht => congrArg _ ?_, fun cmp t hc hw hcmp ht => ?_,
    fun hc hw => congrArg _ ?_⟩
  · rw [State.endScan_next ha hc hnone, hdone, hscan, State.serveAll_eq]
  · rw [State.endScan_cancelled ha hc hsome, hdone]
    unfold State.verifyCancelled
    rw [State.endSlot_written (t := { s with slots := s.slots.set run.slot _ }) hn rfl, hsome]
    subst ht
    rfl
  · have hvalue : crc32Value (s.scanned run) = crc ^^^ 0xFFFFFFFF := by rw [hscan]; rfl
    have hend : s.endScan = State.freeArray (t.answerCancel run.cancel .tooLate .doneOk) := by
      rw [State.endScan_last ha hc hb, if_neg (by rw [hw]; nofun), hdone, hvalue]
      have hslot : State.slot { s with
          slots := s.slots.set run.slot ⟨(s.slot run.slot).useCount, some body⟩ } run.slot = ⟨_, some body⟩ :=
        State.slot_written hn rfl
      rw [State.verifyDone_eq (cmp := cmp) (congrArg Slot.body hslot) (by rw [hbody]; exact hcmp.symm), hslot, ht]
      simp only [List.set_set]
    rw [hend]
    refine ⟨fun hnone => ?_, fun p tag hsome => ?_⟩
    · rw [hnone]
      rfl
    · rw [hsome]
      rfl
  · rw [State.endScan_last ha hc hb, if_pos hw, hdone, hscan]
    unfold State.beginMarks
    rw [State.mapSlot_written (t := { s with slots := s.slots.set run.slot _ }) hn rfl, State.serveAll_eq]
    rfl

end

end

end Sys2Proof.Machine
end

section
/-! PROOFS. Suspension: the run slice, and what the part does on the empty queue (R12, R119, R120, R140, R141). -/

set_option Elab.async false

namespace Sys2Proof.Machine

section
variable {s : State} {o : EraseOwner} {run : EraseRun} {n u : Nat} {w : ReadWait} {rest : List ReadWait}

/-! ## The run slice -/

/-- An erase whose slice has run (R140). -/
def EraseRun.sliced (run : EraseRun) : EraseRun := { run with sliceDone := true, settled := true }

theorem State.endSlice_running (ha : s.sched.activity = .erase o run) (hr : run.suspended = false) :
    s.endSlice = if s.sched.waiters = [] then s.setActivity (.erase o run.sliced)
      else (s.setActivity (.erase o run.sliced)).askSuspend o run.sliced := by
  unfold State.endSlice
  rw [State.endPause_running ha hr, ha]
  rfl

theorem State.askSuspend_kept (h : run.markWriting = true ∨ 24 ≤ run.suspensions) : s.askSuspend o run = s :=
  if_pos (by rw [Bool.or_eq_true, decide_eq_true_iff]; exact h)

/-- The erase suspended, and with it the ERASE slot it works for (R12, R140). -/
def State.suspended (s : State) (o : EraseOwner) (run : EraseRun) : State :=
  match o with
  | .slot n => (s.setActivity (.erase (.slot n) run)).mapSlot n fun b => { b with state := .suspended }
  | _ => s.setActivity (.erase o run)

theorem State.askSuspend_asked (hm : run.markWriting = false) (hn : run.suspensions < 24) : s.askSuspend o run =
    if Config.suspendInTime s.draws then s.drawn.suspended o { run with settled := true, suspended := true }
    else s.drawn.setActivity (.erase o { run with settled := true, markWriting := true }) := by
  unfold State.askSuspend
  rw [hm, if_neg (by rw [Bool.false_or, decide_eq_true_iff]; exact Nat.not_le.2 hn)]
  cases o <;> rfl

/-! ## The empty queue -/

/-- Whether an activity is a pause of an erase: a suspension, or the time between two units (R119, R141). -/
def Activity.Pauses : Activity → Prop
  | .erase _ run => run.suspended = true
  | .between _ _ => True
  | _ => False

theorem State.background_idles (h : ¬ s.sched.activity.Pauses) : s.background = s := by
  unfold State.background
  cases ha : s.sched.activity with
  | erase o run =>
    rw [ha] at h
    cases hw : s.sched.waiters <;> exact if_neg h
  | between n u => rw [ha] at h; exact absurd trivial h
  | _ => rfl

/-- In a pause the READ that began waiting first is served (R141). -/
theorem State.background_serves (h : s.sched.activity.Pauses) (hw : s.sched.waiters = w :: rest) :
    s.background = State.serve { s with sched := { s.sched with waiters := rest } } w := by
  unfold State.background
  cases ha : s.sched.activity with
  | erase o run => rw [ha] at h; rw [hw]; exact if_pos h
  | between n u => rw [hw]
  | idle => rw [ha] at h; exact h.elim
  | program n a => rw [ha] at h; exact h.elim
  | scan run => rw [ha] at h; exact h.elim
  | mark run => rw [ha] at h; exact h.elim

theorem State.background_resumes (ha : s.sched.activity = .erase o run) (hr : run.suspended = true)
    (hw : s.sched.waiters = []) : s.background = s.resume o run := by
  unfold State.background
  rw [ha, hw]
  exact if_pos hr

theorem State.background_continues (ha : s.sched.activity = .between n u) (hw : s.sched.waiters = []) :
    s.background = s.nextUnit n u := by
  unfold State.background
  rw [ha, hw]

/-- A step that serves the READ that began waiting first, with what it is answered (R108). -/
theorem step_serves (hp : s.pending = []) (h : s.sched.activity.Pauses) (hw : s.sched.waiters = w :: rest) :
    step s = .next (State.delivered { s with sched := { s.sched with waiters := rest } } w.port
      ⟨.ok, w.tag, false, s.attention w.port, s.array.touchesIncomplete w.address w.length,
        s.array.bytes w.address w.length⟩) := by
  rw [step_nil s hp, State.background_serves h hw, State.serve_eq]
  rfl

theorem State.nextUnit_runs {b : SlotBody} (hb : (s.slot n).body = some b)
    (hc : (s.array.facts u).eraseCount < 60000) : s.nextUnit n u = { s with
      array := s.array.eraseStart u
      slots := s.slots.set n ⟨(s.slot n).useCount, some { b with suspensions := 0 }⟩
      sched := { s.sched with activity := .erase (.slot n) ⟨u, s.array.header u, false, false, 0, false, false⟩ } } := by
  unfold State.nextUnit
  rw [State.eraseUnit_runs hc, State.mapSlot_eq s n _ hb]
  exact State.offer_of_busy (.inl nofun)

theorem State.nextUnit_worn {b : SlotBody} (hb : (s.slot n).body = some b)
    (hc : 60000 ≤ (s.array.facts u).eraseCount) : s.nextUnit n u = State.offer { s with
      slots := s.slots.set n (Slot.endedAs (s.slot n).useCount b (.doneFail .worn))
      sched := { s.sched with activity := .idle } } := by
  unfold State.nextUnit
  rw [State.eraseUnit_worn hc, State.endSlot_eq s n _ hb]
  rfl

/-- Settles O46: the slice of a running erase, then the empty queue in a pause and out of one. -/
theorem suspensionsServeReads : Obligations.SuspensionsServeReads := by
  refine ⟨fun s o run after ha hr hafter => ?_, fun s hp => ⟨fun he hb => ?_, fun o run ha hr => ⟨fun w rest hw => ?_,
    fun hw t ht => ⟨fun n ho => ?_, fun ho => ?_⟩⟩, fun n u b ha hb => ⟨fun w rest hw => ?_, fun hw => ⟨fun hc => ?_,
    fun hc => ?_⟩⟩⟩⟩
  · have hexec : exec .runSliceExpiry s = .next s.endSlice := rfl
    replace hafter : after = run.sliced := hafter
    subst hafter
    rw [hexec, State.endSlice_running ha hr]
    refine ⟨fun h => congrArg _ ?_, fun hw hm hn => ?_⟩
    · by_cases hw : s.sched.waiters = []
      · exact if_pos hw
      · rw [if_neg hw]
        exact State.askSuspend_kept (h.resolve_left hw)
    · rw [if_neg hw, State.askSuspend_asked (run := run.sliced) hm hn]
      refine ⟨fun hd => congrArg _ ?_, fun hd => ⟨fun ho => congrArg _ ?_, fun n ho => congrArg _ ?_⟩⟩
      · exact if_neg fun hc => Bool.false_ne_true (hd.symm.trans hc)
      · refine (if_pos hd).trans ?_
        cases o with
        | slot n => exact absurd rfl (ho n)
        | _ => rfl
      · subst ho
        exact if_pos hd
  · rw [step_nil s hp, State.background_idles]
    intro h
    cases ha : s.sched.activity with
    | erase o run => rw [ha] at h; exact Bool.false_ne_true ((he o run ha).symm.trans h)
    | between n u => exact hb n u ha
    | _ => rw [ha] at h; exact h
  · exact step_serves hp (by rw [ha]; exact hr) hw
  · rw [step_nil s hp, State.background_resumes ha hr hw, ht, ho]
    rfl
  · rw [step_nil s hp, State.background_resumes ha hr hw, ht]
    cases o with
    | slot n => exact absurd rfl (ho n)
    | _ => rfl
  · exact step_serves hp (by rw [ha]; trivial) hw
  · rw [step_nil s hp, State.background_continues ha hw, State.nextUnit_runs hb hc]
  · rw [step_nil s hp, State.background_continues ha hw, State.nextUnit_worn hb hc]

end

end Sys2Proof.Machine
end

section
/-! PROOFS. RESET and power: what an assertion abandons and loses, what a release begins, and what is left of a unit under
erase (R9 to R17, R38, R160, R161). -/

set_option Elab.async false

namespace Sys2Proof.Machine

section
variable {s : State}

/-! ## The work in flight -/

/-- The free values drawn once the array work in flight was cut: one for a program, an erase or a mark write
(logs 9, 12, 14). -/
def State.cutDraws (s : State) : Nat :=
  match s.sched.activity with
  | .idle => s.draws
  | .between _ _ => s.draws
  | .scan _ => s.draws
  | _ => s.draws + 1

theorem State.cutWork_draws (s : State) : s.cutWork.draws = s.cutDraws := by
  unfold State.cutWork State.cutDraws
  cases s.sched.activity with
  | mark run => simp only; split <;> rfl
  | _ => rfl

theorem State.cutWork_none (h : s.sched.activity = .idle ∨ (∃ n u, s.sched.activity = .between n u) ∨
    ∃ x, s.sched.activity = .scan x) : s.cutWork = s := by
  unfold State.cutWork
  rcases h with h | ⟨n, u, h⟩ | ⟨x, h⟩ <;> rw [h]

theorem State.cutWork_erase {o : EraseOwner} {run : EraseRun} (h : s.sched.activity = .erase o run) :
    s.cutWork.array = s.array.cutErase run (Config.eraseCut s.draws) (Config.eraseSets s.draws) := by
  unfold State.cutWork
  rw [h]
  rfl

theorem State.cutWork_mark {run : MarkRun} (h : s.sched.activity = .mark run) : s.cutWork.array =
    if Config.markLanded s.draws then s.array.setHeader (run.extent.first + run.done)
      { s.array.header (run.extent.first + run.done) with fixedMark := true } else s.array := by
  unfold State.cutWork
  rw [h]
  cases Config.markLanded s.draws <;> rfl

theorem State.cutWrite_array_eq (s : State) : s.cutWrite.array = s.array := by rw [State.cutWrite_eq]

/-! ## The volatile state -/

theorem State.enterReset_out (h : s.device ≠ .inReset) :
    s.enterReset = { s.cutWork.cutWrite.loseVolatile with device := .inReset } := if_neg h

theorem State.enterReset_in (h : s.device = .inReset) : s.enterReset = s := if_pos h

theorem State.enterReset_array (h : s.device ≠ .inReset) :
    s.enterReset.array = { s.cutWork.array with map := [] } := by
  rw [State.enterReset_out h]
  exact congrArg (fun a : ArrayState => { a with map := [] }) s.cutWork.cutWrite_array_eq

theorem State.enterReset_port (h : s.device ≠ .inReset) (p : Port) :
    s.enterReset.port p = .cleared (s.port p).selectLow (s.port p).inhibit := by
  rw [State.enterReset_out h, State.cutWrite_eq, State.cutWork_eq]
  cases p <;> rfl

theorem Store.copy_setCopy (t : Store) (c d : CopyId) (x : Copy) :
    (t.setCopy d x).copy c = if c = d then x else t.copy c := by
  split
  next h => rw [h, Store.copy_setCopy_self]
  next h => exact Store.copy_setCopy_of_ne t h x

/-- A write in flight leaves its target DAMAGED, with a free value in its field (R38; log 15). -/
def State.cutCopy (s : State) (c : CopyId) : Copy :=
  match s.store.writer with
  | .writing job => if c = job.target then .damaged (Config.damagedField s.cutDraws) else s.store.copy c
  | _ => s.store.copy c

theorem State.cutWrite_copy (c : CopyId) : s.cutWork.cutWrite.store.copy c = s.cutCopy c := by
  unfold State.cutWrite State.cutCopy
  rw [State.cutWork_store]
  cases hw : s.store.writer with
  | writing job =>
    rw [State.cutWork_draws]
    exact Store.copy_setCopy s.store c job.target _
  | _ => exact congrArg (Store.copy · c) s.cutWork_store

theorem State.enterReset_copy (h : s.device ≠ .inReset) (c : CopyId) : s.enterReset.store.copy c = s.cutCopy c := by
  rw [← State.cutWrite_copy, State.enterReset_out h]
  cases c <;> rfl

theorem ArrayState.header_setMark {a : ArrayState} (h : sparseWf Header.factory a.headers = true) (u v : Nat) :
    (a.setHeader u { a.header u with fixedMark := true }).header v =
      if v = u then { a.header v with fixedMark := true } else a.header v := by
  rw [ArrayState.header_setHeader h]
  exact ite_congr rfl (fun e => by rw [e]) fun _ => rfl

/-- What an assertion of RESET or a loss of power leaves of a part out of reset (R9, R13, R15, R38, R161). -/
theorem State.enterReset_spec (h : s.device ≠ .inReset) :
    let t := s.enterReset
    t.device = .inReset ∧ t.pending = s.pending ∧ t.resetAsserted = s.resetAsserted ∧ t.powerGood = s.powerGood ∧
    (∀ p, t.port p = ⟨(s.port p).selectLow, (s.port p).inhibit, .idle, none, none, false, List.replicate 8 .closed⟩) ∧
    t.dir = ⟨List.replicate 32 ⟨0, .free⟩, [], []⟩ ∧ t.formatWithdrawn = [] ∧ t.slots = List.replicate 12 ⟨0, none⟩ ∧
    t.sched = ⟨[], 0, .idle, []⟩ ∧ t.array.map = [] ∧ (∀ c, t.store.copy c = s.cutCopy c) ∧
    t.store = ⟨t.store.copy0, t.store.copy1, none, 0, none, false, .idle⟩ := by
  have hlines := s.enterReset_lines
  have ho := State.enterReset_out h
  exact ⟨by rw [ho], hlines.pending, hlines.reset, hlines.power, State.enterReset_port h, by rw [ho]; rfl,
    by rw [ho]; rfl, by rw [ho]; rfl, by rw [ho]; rfl, by rw [ho]; rfl, State.enterReset_copy h, by rw [ho]; rfl⟩

theorem State.leaveReset_starts (hd : s.device = .inReset) (hr : s.resetAsserted = false) (hp : s.powerGood = true) :
    s.leaveReset = { s with device := .starting } := if_pos ⟨hd, hr, hp⟩

theorem State.leaveReset_stays (h : s.device ≠ .inReset ∨ s.resetAsserted = true ∨ s.powerGood = false) :
    s.leaveReset = s := by
  refine if_neg fun hc => ?_
  obtain ⟨hd, hr, hp⟩ := hc
  rcases h with h | h | h
  · exact h hd
  · exact Bool.false_ne_true (hr.symm.trans h)
  · exact Bool.false_ne_true (h.symm.trans hp)

/-- Settles O47: what the cut leaves of the array and the store, then the lines. -/
theorem resetAndPowerEvents : Obligations.ResetAndPowerEvents := by
  refine ⟨fun s i lines hi => ?_, fun s i t hi => ?_⟩
  · have hexec : exec i s = .next (lines s.enterReset) := by
      rcases hi with ⟨rfl, rfl⟩ | ⟨rfl, rfl⟩ <;> rfl
    refine ⟨fun hd => by rw [hexec, State.enterReset_in hd], fun hd => ⟨s.enterReset, hexec, ?_⟩⟩
    obtain ⟨h1, h2, h3, h4, h5, h6, h7, h8, h9, h10, h11, h12⟩ := State.enterReset_spec hd
    refine ⟨h1, h2, h3, h4, h5, h6, h7, h8, h9, h10, h11, h12, fun hnone => ?_, fun n a o d ha hw hwf => ?_,
      fun run ha => ?_⟩ <;> rw [State.enterReset_array hd]
    · rw [State.cutWork_none hnone]
      exact ⟨rfl, rfl⟩
    · rw [State.cutWork_program ha, State.pageData_eq hw]
      exact ⟨ArrayState.programBytes_headers _ _ _ _, ArrayState.byte_programBytes _ d a hwf⟩
    · rw [State.cutWork_mark ha]
      cases hm : Config.markLanded s.draws with
      | false => exact ⟨rfl, fun _ v => (if_neg fun hc => Bool.false_ne_true hc.2).symm⟩
      | true => exact ⟨rfl, fun hwf v => (ArrayState.header_setMark hwf _ v).trans
          (if_congr (and_iff_left rfl).symm rfl rfl)⟩
  · have hexec : exec i s = .next t.leaveReset := by
      rcases hi with ⟨rfl, rfl⟩ | ⟨rfl, rfl⟩ <;> rfl
    have hdev : t.device = s.device := by rcases hi with ⟨-, rfl⟩ | ⟨-, rfl⟩ <;> rfl
    rw [hexec, ← hdev]
    exact ⟨fun ⟨hd, hr, hp⟩ => congrArg _ (State.leaveReset_starts hd hr hp),
      fun h => congrArg _ (State.leaveReset_stays h)⟩

/-! ## An erase cut short -/

/-- What is left of the unit of an erase that was cut, by the point it is found at (R10, R13; log 9). -/
theorem ArrayState.cutErase_cases (a : ArrayState) (run : EraseRun) (cut : EraseCut) (sets : Nat → Byte) :
    (run.settled = false ∧ a.cutErase run cut sets = a.setHeader run.unit run.before) ∨
    a.cutErase run cut sets = a.stopErase run sets ∨
    (run.suspended = false ∧ (a.cutErase run cut sets = a.eraseData run.unit ∨
      a.cutErase run cut sets =
        (a.eraseData run.unit).setHeader run.unit { a.header run.unit with eraseMark := true })) := by
  cases cut with
  | oldHeader =>
    cases h : run.settled with
    | false => exact .inl ⟨rfl, if_neg (by rw [h]; exact Bool.false_ne_true)⟩
    | true => exact .inr (.inl (if_pos h))
  | dataBits => exact .inr (.inl rfl)
  | markAbsent =>
    cases h : run.suspended with
    | false => exact .inr (.inr ⟨rfl, .inl (if_neg (by rw [h]; exact Bool.false_ne_true))⟩)
    | true => exact .inr (.inl (if_pos h))
  | markPresent =>
    cases h : run.suspended with
    | false => exact .inr (.inr ⟨rfl, .inr (if_neg (by rw [h]; exact Bool.false_ne_true))⟩)
    | true => exact .inr (.inl (if_pos h))

theorem ArrayState.byte_eraseData_unit (a : ArrayState) {u x : Nat} (h : x / 8192 = u) :
    (a.eraseData u).byte x = 0xFF := by
  rw [ArrayState.byte_eraseData, if_pos (inUnit_iff.2 h)]

theorem ArrayState.header_stopErase (a : ArrayState) (run : EraseRun) (sets : Nat → Byte) (v : Nat) :
    (a.stopErase run sets).header v = a.header v := by
  unfold ArrayState.stopErase
  split <;> rfl

/-- What is left of the array by an erase that was cut: its unit at one of the erase's points, every other unit as it was
(R10, R13, R17). -/
theorem ArrayState.cutErase_spec {a b : ArrayState} {run : EraseRun} {cut : EraseCut} {sets : Nat → Byte}
    (hb : b = { a.cutErase run cut sets with map := [] }) (hdata : Memory.wf a.data = true)
    (hheaders : sparseWf Header.factory a.headers = true) :
    (∀ v, v ≠ run.unit → b.header v = a.header v) ∧ (∀ x, x / 8192 ≠ run.unit → b.byte x = a.byte x) ∧
    ((run.settled = false ∧ b.header run.unit = run.before ∧ ∀ x, b.byte x = a.byte x) ∨
      (b.header run.unit = a.header run.unit ∧ ∀ x, x / 8192 = run.unit → a.byte x &&& b.byte x = a.byte x ∧
        (run.markWriting = true → b.byte x = 0xFF)) ∨
      (run.suspended = false ∧ b.header run.unit = { a.header run.unit with eraseMark := true } ∧
        ∀ x, x / 8192 = run.unit → b.byte x = 0xFF)) := by
  have hout (u v : Nat) (h : Header) (hv : v ≠ u) : (a.setHeader u h).header v = a.header v := by
    rw [ArrayState.header_setHeader hheaders, if_neg hv]
  have hin (u : Nat) (h : Header) : (a.setHeader u h).header u = h := by
    rw [ArrayState.header_setHeader hheaders, if_pos rfl]
  have herased (x : Nat) (hx : x / 8192 ≠ run.unit) : (a.eraseData run.unit).byte x = a.byte x := by
    rw [ArrayState.byte_eraseData, if_neg (mt inUnit_iff.1 hx)]
  subst hb
  rcases a.cutErase_cases run cut sets with ⟨hs, h⟩ | h | ⟨hs, h | h⟩ <;> rw [h]
  · exact ⟨fun v hv => hout _ v _ hv, fun x _ => rfl, .inl ⟨hs, hin _ _, fun x => rfl⟩⟩
  · refine ⟨fun v _ => ArrayState.header_stopErase a run sets v, fun x hx => ?_,
      .inr (.inl ⟨ArrayState.header_stopErase a run sets _, fun x hx => ?_⟩)⟩
    · exact (ArrayState.byte_stopErase hdata run sets x).trans (if_neg (mt inUnit_iff.1 hx))
    · have hbyte := (ArrayState.byte_stopErase hdata run sets x).trans (if_pos (inUnit_iff.2 hx))
      refine ⟨?_, fun hm => hbyte.trans (if_pos hm)⟩
      exact (ArrayState.SetsBitsOf.stopErase hdata run sets x).elim
        (fun e => (congrArg (a.byte x &&& ·) e).trans BitVec.and_self) And.right
  · exact ⟨fun v _ => rfl, herased, .inr (.inl ⟨rfl, fun x hx =>
      ⟨(congrArg (a.byte x &&& ·) (a.byte_eraseData_unit hx)).trans (byte_and_erased _),
        fun _ => a.byte_eraseData_unit hx⟩⟩)⟩
  · exact ⟨fun v hv => hout _ v _ hv, herased, .inr (.inr ⟨hs, hin _ _, fun x hx => a.byte_eraseData_unit hx⟩)⟩

/-- Settles O48: by the point the cut finds the erase at. -/
theorem resetCutsAnErase : Obligations.ResetCutsAnErase := by
  intro s t i o run hi hd hlaw ha ht
  have hexec : t.array = s.enterReset.array := by
    rcases hi with rfl | rfl <;> rw [← Host.Outcome.next.inj ht]
  refine ArrayState.cutErase_spec (cut := Config.eraseCut s.draws) (sets := Config.eraseSets s.draws) ?_ hlaw.data
    hlaw.headers
  rw [hexec, State.enterReset_array hd, State.cutWork_erase ha]

end

end Sys2Proof.Machine
end

section
/-! PROOFS. Start-up: the copy it chooses, the directory it loads and reconciles, and how it enters service (R163 to
R168). -/

set_option Elab.async false

namespace Sys2Proof.Machine

/-! ## The choice of a copy -/

section
variable {t : Store} {c : CopyId} {i : Image}

theorem Image.agrees_iff : i.agrees = true ↔ i.check = i.crc := beq_iff_eq

/-- The VALID copy with the higher number is loaded (R164). -/
theorem Store.choose_load (hc : t.copy c = .complete i) (hi : i.check = i.crc)
    (hd : ∀ d j, d ≠ c → t.copy d = .complete j → j.check = j.crc → j.sequence.toNat < i.sequence.toNat) :
    t.choose = .load c i := by
  have hvalid : (t.copy c).valid = some i := (Copy.valid_eq_some _ _).2 ⟨hc, Image.agrees_iff.2 hi⟩
  have hother : ∀ d j, d ≠ c → (t.copy d).valid = some j → j.sequence.toNat < i.sequence.toNat := fun d j hne hj => by
    obtain ⟨hj, ha⟩ := (Copy.valid_eq_some _ _).1 hj
    exact hd d j hne hj (Image.agrees_iff.1 ha)
  unfold Store.choose
  cases c with
  | copy0 =>
    rw [show t.copy0.valid = some i from hvalid]
    cases hj : t.copy1.valid with
    | none => rfl
    | some j => exact if_neg (Nat.lt_asymm (hother .copy1 j nofun hj))
  | copy1 =>
    rw [show t.copy1.valid = some i from hvalid]
    cases hj : t.copy0.valid with
    | none => rfl
    | some j => exact if_pos (hother .copy0 j nofun hj)

theorem Copy.valid_none {x : Copy} (h : ∀ i, x = .complete i → i.check ≠ i.crc) : x.valid = none := by
  cases hx : x.valid with
  | none => rfl
  | some i =>
    obtain ⟨hi, ha⟩ := (Copy.valid_eq_some _ _).1 hx
    exact absurd (Image.agrees_iff.1 ha) (h i hi)

theorem Store.choose_invalid (h : ∀ c i, t.copy c = .complete i → i.check ≠ i.crc) :
    t.choose = if t.copy0 = .blank ∧ t.copy1 = .blank then .empty else .noDirectory := by
  have h0 : t.copy0.valid = none := Copy.valid_none (h .copy0)
  have h1 : t.copy1.valid = none := Copy.valid_none (h .copy1)
  unfold Store.choose
  rw [h0, h1]

end

/-! ## Reconciliation -/

section
variable {i : Image} {a : ArrayState} {d : Directory}

/-- The freeze level a loaded region has once reconciled (R19, R166). -/
def DurableRegion.loadedFreeze (g : DurableRegion) (a : ArrayState) : Freeze :=
  if (g.freeze.working = .openLevel ∨ g.freeze.working = .held) ∧ a.anyMarked g.extent = true then .fixed none
  else g.freeze.working

theorem DurableRecord.reconcile_free {x : DurableRecord} (h : x.region = none) :
    x.working.reconcile a = ⟨x.generation, .free⟩ := by
  unfold DurableRecord.working
  rw [h]
  rfl

theorem DurableRecord.reconcile_active {x : DurableRecord} {g : DurableRegion} (h : x.region = some g) :
    x.working.reconcile a = ⟨x.generation, .active ⟨g.ident, g.extent, none, g.loadedFreeze a⟩⟩ := by
  unfold DurableRecord.working Record.reconcile DurableRegion.loadedFreeze
  rw [h]
  simp only
  split <;> rfl

theorem ArrayState.anyMarked_scanHeaders (e : Extent) : a.scanHeaders.anyMarked e = true ↔
    ∃ v, v < e.count ∧ (a.header (e.first + v)).fixedMark = true := by
  rw [ArrayState.anyMarked_iff]
  simp only [ArrayState.facts_scanHeaders]
  rfl

/-- The level of a loaded region by its durable level and its units' marks (R166). -/
theorem DurableRegion.loadedFreeze_cases (g : DurableRegion) (a : ArrayState) :
    (∀ w, g.freeze = .fixed w → g.loadedFreeze a.scanHeaders = .fixed w) ∧
    ((∀ w, g.freeze ≠ .fixed w) →
      ((∃ v, v < g.extent.count ∧ (a.header (g.extent.first + v)).fixedMark = true) →
        g.loadedFreeze a.scanHeaders = .fixed none) ∧
      ((∀ v, v < g.extent.count → (a.header (g.extent.first + v)).fixedMark = false) →
        g.loadedFreeze a.scanHeaders = if g.freeze = .openLevel then .openLevel else .held)) := by
  unfold DurableRegion.loadedFreeze
  refine ⟨fun w hw => ?_, fun hne => ⟨fun hv => if_pos ⟨?_, a.anyMarked_scanHeaders _ |>.2 hv⟩, fun hv => ?_⟩⟩
  · rw [hw]
    exact if_neg fun hc => hc.1.elim nofun nofun
  · rw [if_neg]
    · cases hf : g.freeze with
      | openLevel => rfl
      | held => rfl
      | fixed w => exact absurd hf (hne w)
    · rintro ⟨-, hm⟩
      obtain ⟨v, hv', hm⟩ := (a.anyMarked_scanHeaders _).1 hm
      exact Bool.false_ne_true ((hv v hv').symm.trans hm)
  · cases hf : g.freeze with
    | openLevel => exact .inl rfl
    | held => exact .inr rfl
    | fixed w => exact absurd hf (hne w)

/-- The directory start-up makes of an image (R19, R166, R167). -/
def Image.loaded (i : Image) (a : ArrayState) : Directory := i.working.reconcile a.scanHeaders

theorem Image.loaded_length : (i.loaded a).records.length = i.records.length := by
  simp only [Image.loaded, Directory.reconcile, Image.working, List.length_map]

theorem Image.loaded_scrub : (i.loaded a).scrub = i.scrub.map fun e => ⟨e, 0, true⟩ := rfl

theorem Image.loaded_getElem? {n : Nat} {x : DurableRecord} (h : i.records[n]? = some x) :
    (i.loaded a).records[n]? = some (x.working.reconcile a.scanHeaders) := by
  simp only [Image.loaded, Directory.reconcile, Image.working, List.getElem?_map, h, Option.map_some]

/-- A record of the image in working form, reconciled (R19, R166). -/
theorem Image.loaded_record {n : Nat} {x : DurableRecord} (h : i.records[n]? = some x) :
    ∃ y : Record, (i.loaded a).records[n]? = some y ∧ y.generation = x.generation ∧
      (x.region = none → y.body = .free) ∧
      ∀ g, x.region = some g → ∃ l : Freeze, y.body = .active ⟨g.ident, g.extent, none, l⟩ ∧
        (∀ w, g.freeze = .fixed w → l = .fixed w) ∧
        ((∀ w, g.freeze ≠ .fixed w) →
          ((∃ v, v < g.extent.count ∧ (a.header (g.extent.first + v)).fixedMark = true) → l = .fixed none) ∧
          ((∀ v, v < g.extent.count → (a.header (g.extent.first + v)).fixedMark = false) →
            l = if g.freeze = .openLevel then .openLevel else .held)) := by
  refine ⟨_, Image.loaded_getElem? h, ?_, fun hn => by rw [DurableRecord.reconcile_free hn], fun g hg => ⟨_, by
    rw [DurableRecord.reconcile_active hg], g.loadedFreeze_cases a⟩⟩
  cases hg : x.region with
  | none => rw [DurableRecord.reconcile_free hg]
  | some g => rw [DurableRecord.reconcile_active hg]

theorem Directory.place_free_iff {u : Nat} : d.place u = .free ↔ Unclaimed d.units d.scrubRanges d.withdrawn u :=
  ⟨Directory.unclaimed_of_free, fun h => Directory.place_free h.region h.withdrawn fun f hf =>
    h.scrub f.extent (List.mem_map_of_mem hf)⟩

theorem mem_unfitUnits {u : Nat} : u ∈ unfitUnits a d ↔
    u < 1024 ∧ ((a.facts u).condition ≠ .good ∨ (a.facts u).fixedMark = true) ∧ d.place u = .free := by
  unfold unfitUnits
  rw [List.mem_filter, List.mem_range, Bool.and_eq_true, Bool.or_eq_true, bne_iff_ne, beq_iff_eq]

theorem Image.units_iff {u : Nat} : (∀ n e, i.units n = some e → e.contains u = false) ↔
    ∀ x ∈ i.records, ∀ g, x.region = some g → g.extent.contains u = false := by
  refine ⟨fun h x hx g hg => ?_, fun h n e he => ?_⟩
  · obtain ⟨n, hn, rfl⟩ := List.getElem_of_mem hx
    refine h n g.extent ?_
    rw [Image.units, List.getD_eq_getElem?_getD, List.getElem?_eq_getElem hn, Option.getD_some, hg]
    rfl
  · rw [Image.units, List.getD_eq_getElem?_getD] at he
    cases hx : i.records[n]? with
    | none => rw [hx] at he; cases he
    | some x =>
      rw [hx] at he
      obtain ⟨g, hg, rfl⟩ := Option.map_eq_some_iff.1 he
      exact h x (List.mem_of_getElem? hx) g hg

theorem Image.working_scrubRanges : i.working.scrubRanges = i.scrub := by
  simp [Directory.scrubRanges, Image.working, Function.comp_def]

/-- The withdrawn set of a loaded directory: the image's, and the free units that are not GOOD or carry a mark (R167). -/
theorem Image.mem_loaded_withdrawn {u : Nat} : u ∈ (i.loaded a).withdrawn ↔ u ∈ i.withdrawn ∨ u < 1024 ∧
    ((a.header u).condition ≠ .good ∨ (a.header u).fixedMark = true) ∧
    (∀ x ∈ i.records, ∀ g, x.region = some g → g.extent.contains u = false) ∧
    ∀ e ∈ i.scrub, e.contains u = false := by
  have hunits : (i.working.fixMarked a.scanHeaders).units = i.units :=
    funext fun n => (Directory.fixMarked_units _ _ n).trans (i.working_units n)
  have hscrub : (i.working.fixMarked a.scanHeaders).scrubRanges = i.scrub := Image.working_scrubRanges
  rw [Image.loaded, Directory.mem_reconcile_withdrawn, mem_unfitUnits, Directory.place_free_iff, hunits, hscrub,
    ArrayState.facts_scanHeaders]
  refine ⟨fun h => ?_, fun h => ?_⟩
  · rcases h with ⟨hlt, hbad, hun⟩ | h
    · exact .inr ⟨hlt, hbad, Image.units_iff.1 hun.region, hun.scrub⟩
    · exact .inl h
  · by_cases hw : u ∈ i.withdrawn
    · exact .inr hw
    · obtain ⟨hlt, hbad, hrecords, hs⟩ := h.resolve_left hw
      exact .inl ⟨hlt, hbad, ⟨Image.units_iff.2 hrecords, hw, hs⟩⟩

end

/-! ## Entering service -/

section
variable {s : State}

/-- A part in service with a directory it has loaded and reconciled (R168). -/
def State.inService (s : State) (d : Directory) (current : Option CopyId) (durable : Word) : State :=
  { s with device := .ready, dir := d, store := { s.store with current := current, durable := durable } }

/-- Service is entered with a write where reconciliation changed the directory, then with the first offer (R166 to R168;
log 33). -/
theorem State.enterService_eq (h : s.store.dirty = false) (d : Directory) (current : Option CopyId) (durable : Word) :
    s.enterService d current durable = State.offer
      (if d.reconcile s.array = d then s.inService (d.reconcile s.array) current durable
        else (s.inService (d.reconcile s.array) current durable).markDirty) := by
  unfold State.enterService
  refine congrArg State.offer ?_
  by_cases he : d.reconcile s.array = d
  · rw [if_pos he, decide_eq_false (not_not.2 he)]
    refine (if_neg fun hc => Bool.false_ne_true hc.2).trans ?_
    unfold State.inService
    rw [← h]
  · rw [if_neg he, decide_eq_true he]
    rfl

theorem State.startup_load {c : CopyId} {i : Image} (h : s.store.choose = .load c i) : s.startup = State.offer
    (if i.loaded s.array = i.working then s.initialise.inService (i.loaded s.array) (some c) i.sequence
      else (s.initialise.inService (i.loaded s.array) (some c) i.sequence).markDirty) := by
  unfold State.startup
  rw [h]
  exact State.enterService_eq (s := s.initialise) rfl _ _ _

/-- Where every unit is GOOD and carries no mark, reconciliation leaves the empty directory (R19, R166, R167). -/
theorem Directory.reconcile_empty {a : ArrayState}
    (h : ∀ u, u < 1024 → (a.facts u).condition = .good ∧ (a.facts u).fixedMark = false) :
    Directory.empty.reconcile a = .empty := by
  have hrecords : Directory.empty.records.map (Record.reconcile a) = Directory.empty.records := List.map_replicate
  have hunfit (d : Directory) : unfitUnits a d = [] := List.eq_nil_iff_forall_not_mem.2 fun u hu => by
    obtain ⟨hlt, hbad, -⟩ := mem_unfitUnits.1 hu
    obtain ⟨hgood, hmark⟩ := h u hlt
    exact hbad.elim (fun hc => hc hgood) fun hc => Bool.false_ne_true (hmark.symm.trans hc)
  unfold Directory.reconcile
  rw [hrecords]
  dsimp only
  rw [hunfit]
  rfl

theorem State.startup_empty (h : s.store.choose = .empty)
    (ha : ∀ u, u < 1024 → (s.array.header u).condition = .good ∧ (s.array.header u).fixedMark = false) :
    s.startup = { s.initialise with device := .ready } := by
  have hr : Directory.empty.reconcile s.initialise.array = .empty := Directory.reconcile_empty fun u hu => by
    rw [show s.initialise.array.facts u = (s.array.header u).facts from ArrayState.facts_scanHeaders _ _]
    exact ha u hu
  unfold State.startup
  rw [h]
  refine (State.enterService_eq (s := s.initialise) rfl _ _ _).trans ?_
  rw [hr, if_pos rfl]
  exact State.ScrubTurn.offer_none ⟨⟨rfl, rfl, rfl⟩, rfl⟩ rfl

theorem State.startup_none (h : s.store.choose = .noDirectory) :
    s.startup = { s.initialise with device := .recovery } := by
  unfold State.startup
  rw [h]

theorem exec_startup (h : s.device = .starting) : exec .startupComplete s = .next s.startup :=
  congrArg Host.Outcome.next (if_pos h)

/-- Settles O49: by the choice between the two copies. -/
theorem startUpChoosesTheDirectory : Obligations.StartUpChoosesTheDirectory := by
  intro s base hd hbase
  have hb : base = s.initialise := hbase
  rw [hb, exec_startup hd]
  refine ⟨fun c i hc hi hnewer => ⟨i.loaded s.array, Image.loaded_length, Image.loaded_scrub,
    fun n x hx => Image.loaded_record hx, fun u => Image.mem_loaded_withdrawn, fun v hv => congrArg _ ?_⟩,
    fun h0 h1 ha => congrArg _ ?_, fun hinvalid hblank => congrArg _ ?_⟩
  · rw [State.startup_load (Store.choose_load hc hi hnewer), hv]
    rfl
  · refine State.startup_empty ((Store.choose_invalid fun c i hc => ?_).trans (if_pos ⟨h0, h1⟩)) ha
    cases c with
    | copy0 => exact absurd (h0.symm.trans hc) nofun
    | copy1 => exact absurd (h1.symm.trans hc) nofun
  · exact State.startup_none ((Store.choose_invalid hinvalid).trans (if_neg fun hc => hblank.elim (· hc.1) (· hc.2)))

end

end Sys2Proof.Machine
end

section
/-! PROOFS. The durable directory over a RESET: what scrub can do to a loaded directory, and what RESET, release and
start-up leave of the current copy (R38, R39, R161, R164 to R167). -/

set_option Elab.async false

namespace Sys2Proof.Machine

/-! ## What an offer keeps of the directory -/

/-- Between the two states scrub alone has worked on the directory: the records, the current copy and the durable number
are as they were, the scrub extents are among those of before, and no unit has left the withdrawn set (R64 to R67). -/
structure State.ScrubOnly (s t : State) : Prop where
  loaded : t.loaded = s.loaded
  records : t.dir.records = s.dir.records
  current : t.store.current = s.store.current
  durable : t.store.durable = s.store.durable
  copies : ∀ c, t.store.copy c = s.store.copy c
  scrub : ∀ e ∈ t.dir.scrub, ∃ f ∈ s.dir.scrub, f.extent = e.extent ∧ f.eligible = e.eligible
  withdrawn : ∀ w ∈ s.dir.withdrawn, w ∈ t.dir.withdrawn

section
variable {s t u : State}

theorem State.ScrubOnly.of_eq (hd : t.device = s.device) (hdir : t.dir = s.dir) (hs : t.store = s.store) :
    s.ScrubOnly t where
  loaded := by unfold State.loaded; rw [hd]
  records := by rw [hdir]
  current := by rw [hs]
  durable := by rw [hs]
  copies c := by rw [hs]
  scrub e he := ⟨e, hdir ▸ he, rfl, rfl⟩
  withdrawn w hw := hdir ▸ hw

theorem State.ScrubOnly.trans (h : s.ScrubOnly t) (k : t.ScrubOnly u) : s.ScrubOnly u where
  loaded := k.loaded.trans h.loaded
  records := k.records.trans h.records
  current := k.current.trans h.current
  durable := k.durable.trans h.durable
  copies c := (k.copies c).trans (h.copies c)
  scrub e he := by
    obtain ⟨f, hf, h1, h2⟩ := k.scrub e he
    obtain ⟨g, hg, h3, h4⟩ := h.scrub f hf
    exact ⟨g, hg, h3.trans h1, h4.trans h2⟩
  withdrawn w hw := k.withdrawn w (h.withdrawn w hw)

theorem State.startWrite_kept (s : State) : s.startWrite.store.current = s.store.current ∧
    s.startWrite.store.durable = s.store.durable ∧ ∀ c, s.startWrite.store.copy c = s.store.copy c := by
  unfold State.startWrite
  split
  · exact ⟨rfl, rfl, fun c => by cases c <;> rfl⟩
  · exact ⟨rfl, rfl, fun c => by cases c <;> rfl⟩

theorem State.markDirty_kept (s : State) : s.markDirty.store.current = s.store.current ∧
    s.markDirty.store.durable = s.store.durable ∧ ∀ c, s.markDirty.store.copy c = s.store.copy c := by
  by_cases hw : s.store.writer = .idle
  · rw [State.markDirty_idle hw]
    exact (State.startWrite_kept _).imp id fun h => h.imp id fun h c => (h c).trans (by cases c <;> rfl)
  · rw [State.markDirty_busy hw]
    exact ⟨rfl, rfl, fun c => by cases c <;> rfl⟩

theorem State.scrubOnly_markDirty (s : State) : s.ScrubOnly s.markDirty where
  loaded := s.markDirty_loaded
  records := by rw [State.markDirty_dir]
  current := s.markDirty_kept.1
  durable := s.markDirty_kept.2.1
  copies := s.markDirty_kept.2.2
  scrub e he := ⟨e, by rwa [State.markDirty_dir] at he, rfl, rfl⟩
  withdrawn w hw := by rwa [State.markDirty_dir]

theorem State.scrubOnly_setDir {d : Directory} (hr : d.records = s.dir.records)
    (hs : ∀ e ∈ d.scrub, ∃ f ∈ s.dir.scrub, f.extent = e.extent ∧ f.eligible = e.eligible)
    (hw : ∀ w ∈ s.dir.withdrawn, w ∈ d.withdrawn) : s.ScrubOnly { s with dir := d } where
  loaded := rfl
  records := hr
  current := rfl
  durable := rfl
  copies _ := rfl
  scrub := hs
  withdrawn := hw

theorem Directory.mem_advance {d : Directory} {i : Nat} {e : ScrubExtent} (h : e ∈ (d.advance i).scrub) :
    ∃ f ∈ d.scrub, f.extent = e.extent ∧ f.eligible = e.eligible := by
  obtain ⟨j, hj, rfl⟩ := List.getElem_of_mem h
  unfold Directory.advance at hj ⊢
  rw [List.length_modify] at hj
  refine ⟨d.scrub[j], List.getElem_mem hj, ?_⟩
  rw [List.getElem_modify]
  split <;> exact ⟨rfl, rfl⟩

theorem State.scrubOnly_scrubbed (s : State) (i u : Nat) (w : Bool) : s.ScrubOnly (s.scrubbed i u w) := by
  unfold State.scrubbed
  split
  · exact (State.scrubOnly_setDir (d := (s.dir.advance i).withdraw u) rfl (fun e he => Directory.mem_advance he)
      fun v hv => mem_unitInsert.2 (.inr hv)).trans (State.scrubOnly_markDirty _)
  · exact State.scrubOnly_setDir rfl (fun e he => Directory.mem_advance he) fun v hv => hv

theorem State.scrubOnly_removeComplete (s : State) (i : Nat) : s.ScrubOnly (s.removeComplete i) := by
  unfold State.removeComplete
  split
  · exact (State.scrubOnly_setDir (d := { s.dir with scrub := s.dir.scrub.eraseIdx i }) rfl
      (fun e he => ⟨e, List.mem_of_mem_eraseIdx he, rfl, rfl⟩) fun v hv => hv).trans (State.scrubOnly_markDirty _)
  · exact .of_eq rfl rfl rfl

theorem State.scrubOnly_offerScrub (k : Nat) : ∀ s : State, s.ScrubOnly (State.offerScrub k s) := by
  induction k with
  | zero => exact fun s => .of_eq rfl rfl rfl
  | succ k ih =>
    intro s
    unfold State.offerScrub
    split
    · exact .of_eq rfl rfl rfl
    · split
      · exact (s.scrubOnly_removeComplete _).trans (ih _)
      · split
        · exact ((s.scrubOnly_scrubbed _ _ _).trans (State.scrubOnly_removeComplete _ _)).trans (ih _)
        · split
          · exact ((s.scrubOnly_scrubbed _ _ _).trans (State.scrubOnly_removeComplete _ _)).trans (ih _)
          · exact .of_eq rfl rfl rfl

theorem State.scrubOnly_startSlot (s : State) (n : Nat) : s.ScrubOnly (s.startSlot n) :=
  .of_eq (by simp) (by simp) (by simp)

theorem State.scrubOnly_offerQueue (l : List Nat) : ∀ s : State, s.ScrubOnly (State.offerQueue l s) := by
  induction l with
  | nil => exact fun s => s.scrubOnly_offerScrub _
  | cons n rest ih =>
    intro s
    have hs : s.ScrubOnly (State.startSlot { s with sched := { s.sched with queue := rest } } n) :=
      (State.ScrubOnly.of_eq (s := s) (t := s.popped rest) rfl rfl rfl).trans (State.scrubOnly_startSlot _ n)
    unfold State.offerQueue
    simp only
    split
    · exact hs.trans (ih _)
    · exact hs

theorem State.scrubOnly_offer (s : State) : s.ScrubOnly s.offer := by
  unfold State.offer
  split
  · exact (State.ScrubOnly.of_eq (by simp) (by simp) (by simp)).trans (State.scrubOnly_offerQueue _ _)
  · exact .of_eq rfl rfl rfl

/-! ## RESET and start-up -/

/-- After RESET and its release the current copy is as it was, and is the one start-up chooses (R30, R38, R164). -/
theorem State.StoreLaw.choose_reset (h : s.StoreLaw) (hl : s.loaded = true) {c : CopyId} {i : Image}
    (hc : s.store.current = some c) (hi : s.store.copy c = .complete i) (ht : ∀ k, t.store.copy k = s.cutCopy k) :
    t.store.copy c = s.store.copy c ∧ t.store.choose = .load c i := by
  have hseq : i.sequence = s.store.durable := by
    obtain ⟨j, hj, hseq⟩ := h.current c hc
    rw [hi] at hj
    cases hj
    exact hseq
  have hcut (k : CopyId) : s.cutCopy k = s.store.copy k ∨ ∃ f, s.cutCopy k = .damaged f := by
    unfold State.cutCopy
    split
    · split
      · exact .inr ⟨_, rfl⟩
      · exact .inl rfl
    · exact .inl rfl
  have hcopy : t.store.copy c = s.store.copy c := by
    rw [ht]
    unfold State.cutCopy
    split
    next job hw => exact if_neg fun he : c = job.target => (h.target job hw).1 (he ▸ hc)
    next => rfl
  refine ⟨hcopy, Store.choose_load (hcopy.trans hi) (Image.agrees_iff.1 (h.checked i (Store.holds_of_copy hi)))
    fun d j hne hj _ => ?_⟩
  rw [ht] at hj
  rcases hcut d with hd | ⟨f, hd⟩
  · rcases h.newest hl d j (hd ▸ hj) with he | he
    · exact absurd (Option.some.inj (he.symm.trans hc)) hne
    · rw [hseq]; exact he
  · rw [hd] at hj; cases hj

/-- What start-up leaves of the image it loads (R19, R164 to R167). -/
theorem State.startup_scrubOnly {c : CopyId} {i : Image} (h : s.store.choose = .load c i) :
    (s.initialise.inService (i.loaded s.array) (some c) i.sequence).ScrubOnly s.startup := by
  rw [State.startup_load h]
  split
  · exact State.scrubOnly_offer _
  · exact (State.scrubOnly_markDirty _).trans (State.scrubOnly_offer _)

/-- A part in reset once RESET is released with power good (R160, R161). -/
def State.restarted (s : State) : State := { s.enterReset with resetAsserted := false, device := .starting }

/-- Settles O60: the current copy outlives the cut and is chosen, and the first offer's scrub keeps what it loads. -/
theorem durableDirectorySurvivesReset : Obligations.DurableDirectorySurvivesReset := by
  intro s c i _ hs hl hp hc hi
  have hd : s.device ≠ .inReset := fun he => by rw [State.loaded, he] at hl; cases hl
  have hrelease : State.leaveReset { s.enterReset with resetAsserted := false } = s.restarted :=
    State.leaveReset_starts (State.enterReset_spec hd).1 rfl (s.enterReset_lines.power.trans hp)
  obtain ⟨hcopy, hchoose⟩ := hs.choose_reset (t := s.restarted) hl hc hi (State.enterReset_copy hd)
  have hseq : i.sequence = s.store.durable := by
    obtain ⟨j, hj, hseq⟩ := hs.current c hc
    rw [hi] at hj
    cases hj
    exact hseq
  have hv := State.startup_scrubOnly hchoose
  refine ⟨_, s.restarted, s.restarted.startup, rfl, congrArg Host.Outcome.next hrelease, exec_startup rfl,
    hv.loaded.trans rfl, hv.current, hv.durable.trans hseq, hseq, (hv.copies c).trans ?_,
    (congrArg List.length hv.records).trans Image.loaded_length, fun n x hx => ?_, fun e he => ?_,
    fun w hw => hv.withdrawn w (Image.mem_loaded_withdrawn.2 (.inl hw))⟩
  · rw [← hcopy]
    cases c <;> rfl
  · rw [hv.records]
    exact Image.loaded_record hx
  · obtain ⟨f, hf, h1, h2⟩ := hv.scrub e he
    obtain ⟨x, hx, rfl⟩ := List.mem_map.1 hf
    exact ⟨h1 ▸ hx, h2.symm⟩

end

end Sys2Proof.Machine
end
